-- ==== Sys2Proof/Word.lean ====
section
/-!
DEFINITION. The words of the Roard Z48 (R4, R129, R130), the logical time of a context (R79),
and the sparse store used for every numbered collection of the state.
-/
namespace Sys2Proof

/-- 8 bits (R4). -/
abbrev Byte := BitVec 8
/-- 32 bits (R4); an instruction word (R18). -/
abbrev Word := BitVec 32
/-- 64 bits (R4); a scalar register, an address (R111). -/
abbrev DWord := BitVec 64
/-- A vector register, 4096 bits (R129). -/
abbrev VWord := BitVec 4096
/-- A predicate register, 128 bits, one for each lane (R130). -/
abbrev PWord := BitVec 128
/-- A 256-bit digest (R213, R222). -/
abbrev Digest := BitVec 256

/-- A sparse map from numbers: pairs with strictly rising keys, none of which holds the value
that an unlisted key reads as. -/
abbrev Store (α : Type) := List (Nat × α)

/-- Logical time: the tuple (`lc0`, `lc1`, ..., `lc5`) of R79. -/
structure LTime where
  e : BitVec 32
  l1 : BitVec 16
  l2 : BitVec 16
  l3 : BitVec 16
  l4 : BitVec 16
  l5 : BitVec 16
  deriving DecidableEq, Repr

/-- The time at which every field is 0. -/
def LTime.zero : LTime := ⟨0, 0, 0, 0, 0, 0⟩

/-- The eight slots of a bundle, in mask order (R9). -/
inductive Slot where
  | ctl | sa | sb | va | vb | mx | xu | dm
  deriving DecidableEq, Repr

/-- Mask bit of a slot (R9). -/
def Slot.index : Slot → Nat
  | .ctl => 0 | .sa => 1 | .sb => 2 | .va => 3 | .vb => 4 | .mx => 5 | .xu => 6 | .dm => 7

end Sys2Proof
end

