-- ==== Sys2Proof/Syntax.lean ====
section
/-!
DEFINITION. The instructions and events of the Roard Z48: one constructor for each row of
spec/opcode_table.json. Rows that have a word carry the fields of R22; rows of the device's own
events carry what names the agent and the occasion.
-/
namespace Sys2Proof

/-- BRC conditions (R97). -/
inductive BrCond where
  | eqz | nez | ltz | gez | gtz | lez
  deriving DecidableEq, Repr

/-- BRP modes (R97). -/
inductive PredMode where
  | any | all | none
  deriving DecidableEq, Repr

/-- Ordering scopes (R40). -/
inductive Scope where
  | ctx | core | cluster | part | dev | sys
  deriving DecidableEq, Repr

/-- FENCE kinds (R46). -/
inductive FenceKind where
  | acq | rel | full
  deriving DecidableEq, Repr

/-- A loop depth or time depth, 0 to 5 (R29). -/
abbrev Depth := Fin 6

/-- Access sizes of LDAQ and STRL (R122). -/
inductive Size where
  | b | h | w | d
  deriving DecidableEq, Repr

/-- AMO operations (R32). -/
inductive AmoOp where
  | add | swp | and | or | xor | min | max | minu | maxu
  deriving DecidableEq, Repr

/-- Order of an AMO or CAS (R32). -/
inductive Order where
  | rlx | acq | rel | acqrel
  deriving DecidableEq, Repr

/-- Vector width: 1024, 2048 or 4096 bits (R23). -/
inductive Width where
  | w1024 | w2048 | w4096
  deriving DecidableEq, Repr

/-- VCMP conditions (R135). -/
inductive VCond where
  | eq | ne | lt | le | gt | ge | gtn | un
  deriving DecidableEq, Repr

/-- Rounding field of VCVT and MXST (R63). -/
inductive RndSel where
  | fmt | rne | rtz
  deriving DecidableEq, Repr

/-- VRED functions (R144). -/
inductive RedFn where
  | add | min | max
  deriving DecidableEq, Repr

/-- The row of an accumulator: a field or a scalar (R146). -/
inductive RowSel where
  | imm (row : BitVec 7)
  | reg (s : BitVec 6)
  deriving DecidableEq, Repr

/-- Width, lane group and governing predicate of the V, VC and X forms (R22). -/
structure Lanes where
  w : Width
  lg : BitVec 2
  p : BitVec 3
  deriving DecidableEq, Repr

/-- The fields of an MMA, MMAQ or MMAL word (R22, form M). -/
structure MmaArgs where
  acc : BitVec 3
  ta : BitVec 5
  tb : BitVec 5
  beats1 : BitVec 8
  sidx : BitVec 4
  z : Bool
  deriving DecidableEq, Repr

/-- The registers of Gecko that a write may name (R210). CTXCMD starts a command and is written
by the CTX events; a reserved or unchanging register is named too, its write being ignored (R5). -/
inductive GeckoReg where
  | trbase | trhead | trtail | ctxsave | ctxcmd
  deriving DecidableEq, Repr

/-- The registers of a mailbox (R289). -/
inductive MailReg where
  | mbcmd | mbarg | mbpart | mbdoor | mbstat
  deriving DecidableEq, Repr

/-- A device register that takes a write (R210, R289). -/
inductive DevReg where
  | gecko (cluster : Nat) (r : GeckoReg)
  | mail (fn : Nat) (r : MailReg)
  deriving DecidableEq, Repr

/-- The answer of the host to a page request (R164, R291). -/
inductive PageReply where
  | mapped (writable : Bool)
  | failed
  deriving DecidableEq, Repr

/-- Page sizes (R162). -/
inductive PageSize where
  | k4 | k64 | m2 | g1
  deriving DecidableEq, Repr

/-- The size and rights of one mapping that Gecko or the host installs (R162). `ppage` counts pages of 4 KiB. -/
structure PageMap where
  present : Bool
  writable : Bool
  host : Bool
  ppage : Nat
  size : PageSize := .k4
  deriving DecidableEq, Repr

/-- Another agent of the device, and the space that it reaches: a partition's memory (0 to 15) or host memory (16). -/
structure Agent where
  who : Nat
  space : Nat
  deriving DecidableEq, Repr

/-- A page whose translation the host invalidates (R291), and the mapping that the next walk of it finds, where it
differs from the old one. -/
structure StalePage where
  page : Nat
  again : Option PageMap
  deriving DecidableEq, Repr

/-- One constructor per row of spec/opcode_table.json. -/
inductive Instr where
  -- empty bundle (R19)
  | emptyBundle (spix : BitVec 6) (sp st : Bool)
  -- control slot (R30)
  | br (off : BitVec 26)
  | brc (cc : BrCond) (s : BitVec 6) (off : BitVec 17)
  | brp (m : PredMode) (p : BitVec 4) (off : BitVec 20)
  | jmpr (a : BitVec 6)
  | call (off : BitVec 26)
  | callr (a : BitVec 6)
  | loop (a : BitVec 6) (endOff : BitVec 14)
  | loopi (n : BitVec 12) (endOff : BitVec 14)
  | brkl (n : Fin 5)
  | fmtset (val : BitVec 20)
  | fmtsets (a : BitVec 6)
  | waitk (ka kb kc kd : BitVec 5)
  | waitks (a : BitVec 6)
  | fence (sc : Scope) (k : FenceKind)
  | drain (sc : Scope)
  | trap (imm : BitVec 16)
  | mfs (d : BitVec 6) (r : BitVec 12)
  | mts (r : BitVec 12) (a : BitVec 6)
  | caphold (port : BitVec 6) (d : Depth)
  | capadv (port : BitVec 6)
  | capdrop (port : BitVec 6)
  | awaitf (port : BitVec 6) (d : Depth)
  | testf (rd : BitVec 6) (port : BitVec 6) (d : Depth)
  | useopen (ub : BitVec 3) (a : BitVec 6)
  | useclose (ub : BitVec 3)
  | useq (d : BitVec 6) (ub : BitVec 3)
  -- scalar slots (R31, R32)
  | add (d a b : BitVec 6) | sub (d a b : BitVec 6) | and (d a b : BitVec 6)
  | or (d a b : BitVec 6) | xor (d a b : BitVec 6) | andn (d a b : BitVec 6)
  | shl (d a b : BitVec 6) | shr (d a b : BitVec 6) | sra (d a b : BitVec 6)
  | mul (d a b : BitVec 6) | mulh (d a b : BitVec 6) | mulhu (d a b : BitVec 6)
  | div (d a b : BitVec 6) | divu (d a b : BitVec 6) | rem (d a b : BitVec 6)
  | remu (d a b : BitVec 6) | min (d a b : BitVec 6) | max (d a b : BitVec 6)
  | minu (d a b : BitVec 6) | maxu (d a b : BitVec 6) | slt (d a b : BitVec 6)
  | sltu (d a b : BitVec 6) | seq (d a b : BitVec 6) | sne (d a b : BitVec 6)
  | clz (d a : BitVec 6) | ctz (d a : BitVec 6) | popc (d a : BitVec 6)
  | addi (d a : BitVec 6) (imm : BitVec 16) | andi (d a : BitVec 6) (imm : BitVec 16)
  | ori (d a : BitVec 6) (imm : BitVec 16) | xori (d a : BitVec 6) (imm : BitVec 16)
  | shli (d a : BitVec 6) (sh : BitVec 6) | shri (d a : BitVec 6) (sh : BitVec 6)
  | srai (d a : BitVec 6) (sh : BitVec 6)
  | slti (d a : BitVec 6) (imm : BitVec 16) | sltiu (d a : BitVec 6) (imm : BitVec 16)
  | lui (d : BitVec 6) (imm : BitVec 22)
  | sel (d a b c : BitVec 6)
  | adds (d a b : BitVec 6) (sh : BitVec 6)
  | ldb (d a : BitVec 6) (imm : BitVec 16) | ldbu (d a : BitVec 6) (imm : BitVec 16)
  | ldh (d a : BitVec 6) (imm : BitVec 16) | ldhu (d a : BitVec 6) (imm : BitVec 16)
  | ldw (d a : BitVec 6) (imm : BitVec 16) | ldwu (d a : BitVec 6) (imm : BitVec 16)
  | ldd (d a : BitVec 6) (imm : BitVec 16)
  | stb (d a : BitVec 6) (imm : BitVec 16) | sth (d a : BitVec 6) (imm : BitVec 16)
  | stw (d a : BitVec 6) (imm : BitVec 16) | std (d a : BitVec 6) (imm : BitVec 16)
  | ldaq (sz : Size) (d a : BitVec 6)
  | strl (sz : Size) (d a : BitVec 6)
  | amo (op : AmoOp) (dword : Bool) (o : Order) (sys : Bool) (d a b : BitVec 6)
  | cas (dword : Bool) (o : Order) (sys : Bool) (d a b : BitVec 6)
  | fadd (d a b : BitVec 6) | fsub (d a b : BitVec 6) | fmul (d a b : BitVec 6)
  | fmin (d a b : BitVec 6) | fmax (d a b : BitVec 6)
  | fcmplt (d a b : BitVec 6) | fcmple (d a b : BitVec 6) | fcmpeq (d a b : BitVec 6)
  | fcvtif (d a : BitVec 6) | fcvtfi (d a : BitVec 6)
  | fdiv (d a b : BitVec 6) | fsqrt (d a : BitVec 6)
  | fma (d a b : BitVec 6)
  -- vector slots (R33)
  | vadd (d a b : BitVec 6) (l : Lanes) | vsub (d a b : BitVec 6) (l : Lanes)
  | vmul (d a b : BitVec 6) (l : Lanes) | vfma (d a b : BitVec 6) (l : Lanes)
  | vfms (d a b : BitVec 6) (l : Lanes) | vmin (d a b : BitVec 6) (l : Lanes)
  | vmax (d a b : BitVec 6) (l : Lanes)
  | vabs (d a : BitVec 6) (l : Lanes) | vneg (d a : BitVec 6) (l : Lanes)
  | vcmp (pd : BitVec 3) (cc : VCond) (a b : BitVec 6) (l : Lanes)
  | vsel (d a b : BitVec 6) (l : Lanes)
  | vswp (d a : BitVec 6) (l : Lanes)
  | vlog3 (d a b : BitVec 6) (tt : BitVec 8)
  | vshl (d a b : BitVec 6) (l : Lanes) | vshr (d a b : BitVec 6) (l : Lanes)
  | vsra (d a b : BitVec 6) (l : Lanes)
  | vcvt (d a : BitVec 6) (ty : BitVec 4) (r : RndSel) (l : Lanes)
  | vbcast (d s : BitVec 6) (l : Lanes)
  | vget (d a b : BitVec 6)
  | viota (d : BitVec 6) (l : Lanes)
  | vperm (d a b : BitVec 6) (l : Lanes)
  | vred (fn : RedFn) (d a : BitVec 6) (l : Lanes)
  | vacr (v : BitVec 6) (acc : BitVec 3) (row : RowSel)
  | vacw (v : BitVec 6) (acc : BitVec 3) (row : RowSel)
  | plog (pd pa pb : BitVec 3) (tt : BitVec 4)
  | pxfer (pd : BitVec 3) (ps : BitVec 4)
  | vclass (d a : BitVec 6) (l : Lanes)
  | vld (v s : BitVec 6) (off : BitVec 8) (l : Lanes)
  | vst (v s : BitVec 6) (off : BitVec 8) (l : Lanes)
  | vlds (v s b : BitVec 6) (l : Lanes) | vsts (v s b : BitVec 6) (l : Lanes)
  | vgath (v s b : BitVec 6) (l : Lanes) | vscat (v s b : BitVec 6) (l : Lanes)
  -- shuffle slot (R34)
  | xexp2 (d a : BitVec 6) (l : Lanes) | xlog2 (d a : BitVec 6) (l : Lanes)
  | xrcp (d a : BitVec 6) (l : Lanes) | xrsqrt (d a : BitVec 6) (l : Lanes)
  | xsqrt (d a : BitVec 6) (l : Lanes) | xtanh (d a : BitVec 6) (l : Lanes)
  | xsigm (d a : BitVec 6) (l : Lanes)
  | trpush (a : BitVec 6) (l : Lanes)
  | trpop (d : BitVec 6) (l : Lanes)
  -- matrix slot (R35)
  | mma (m : MmaArgs) | mmaq (m : MmaArgs) | mmal (m : MmaArgs)
  | mxz (acc : BitVec 3)
  | mxepi (acc : BitVec 3) (vs vz : BitVec 6)
  | mxcb (cb : BitVec 2) (a : BitVec 6)
  | mxrs (d : BitVec 6) (acc : BitVec 3)
  | mxst (acc : BitVec 3) (th : BitVec 5) (ty : BitVec 4) (r : RndSel)
  | mxsa (a : BitVec 6)
  -- data movement slot (R36)
  | tmap (th : BitVec 5) (a : BitVec 6)
  | tunmap (th : BitVec 5) (k : BitVec 5)
  | tfill (th : BitVec 5) (k : BitVec 5)
  | twb (th : BitVec 5) (k : BitVec 5)
  | tinv (th : BitVec 5)
  | tsetf (th : BitVec 5) (f : Bool)
  | probe (w : Bool) (a b : BitVec 6)
  | unprobe (a b : BitVec 6)
  | cpylv (l : Fin 6) (a b : BitVec 6)
  | cpybs (a b : BitVec 6)
  | cpygo (kp ka kb kc : BitVec 5) (ring : Option (BitVec 3))
  | cpycv (d a b : BitVec 6)
  | gath (a b : BitVec 6) (k : BitVec 5) (ring : Option (BitVec 3))
  | rbinit (rb : BitVec 3) (a b : BitVec 6)
  | rbwait (rb : BitVec 3)
  | rbrel (rb : BitVec 3)
  | sctld (a : BitVec 6)
  | enq (port : BitVec 6) (a : BitVec 6) (k : BitVec 5)
  | deq (port : BitVec 6) (a : BitVec 6)
  | coll (a : BitVec 6) (k : BitVec 5)
  | l2lock (d a b : BitVec 6)
  | l2unlk (d a b : BitVec 6)
  -- events inside a context and its engines
  | fmtDelayExpiry (ctx : Nat)
  | sfResultLatch (ctx id : Nat)
  | sfResultWrite (ctx : Nat)
  | transposeBlockReady (ctx : Nat)
  | mxOccupancyEnd (core : Nat)
  | mxstTileWriteDone (ctx th : Nat)
  | dmCommandStart (core id : Nat)
  | ringSlotWriteStart (core id : Nat)
  | fillComplete (core id : Nat)
  | fillFail (core id : Nat)
  | copyComplete (core id : Nat)
  | copyFail (core id : Nat)
  | writeBackComplete (core id : Nat)
  | unmapComplete (core id : Nat)
  | enqAppend (core id : Nat)
  | collDescriptorRead (core id : Nat)
  | collectiveComplete (group : Nat)
  | collectiveTimeout (group : Nat)
  | engineLeaseExpiry (part : Nat)
  | accessCompletion (ctx id : Nat)
  | resultLanding (ctx id : Nat)
  | pageRequestReply (ctx : Nat) (vpage : Nat) (r : PageReply)
  | pageWalkComplete (part : Nat) (vpage : Nat) (m : PageMap)
  | foreignLineWrite (agent : Agent) (addr : Nat) (data : BitVec 1024)
  | foreignLineRead (agent : Agent) (addr : Nat)
  | termsUnitAnswer (ctx : Nat) (slot : Slot)
  -- selector, stops and Gecko
  | selectorSwitch (core : Nat)
  | timeSliceExpiry (core : Nat)
  | contextStop (ctx : Nat)
  | trapRecordAppend (cluster : Nat)
  | trtailWrite (cluster : Nat) (val : Word)
  | ctxResume (ctx : Nat)
  | ctxKill (ctx : Nat)
  | ctxSave (ctx : Nat)
  | ctxRestore (ctx : Nat)
  | registerWrite (r : DevReg) (val : DWord)
  | pageEviction (part : Nat) (vpage : Nat) (version : DWord)
  -- launch and dispatch
  | launchRecordArrival (part : Nat) (system : Bool) (record : BitVec 1024)
  | gangPlacement (part : Nat)
  | dispatchAging (part : Nat)
  | reservationLapse (part : Nat)
  | victimSaveTimeout (part ctx : Nat)
  -- mailbox commands (R290); fn 0 is the physical function, fn k + 1 virtual function k
  | loadImage (fn : Nat) (addr : DWord)
  | installTerms (fn : Nat) (handle obj : DWord)
  | bindRegion (fn : Nat) (handle base capsule : DWord)
  | removeTerms (fn : Nat) (handle dest : DWord)
  | statement (fn : Nat) (handle dest : DWord)
  | timeUpdate (fn : Nat) (addr : DWord)
  | partCreate (fn : Nat) (block : DWord)
  | partResize (fn : Nat) (block : DWord)
  | partStatus (fn : Nat) (block : DWord)
  | partDestroy (fn : Nat) (block : DWord)
  | portSet (fn : Nat) (port kind base lines : DWord)
  | portDeclare (fn : Nat) (port : DWord) (time : LTime) (n : DWord)
  | queuePush (fn : Nat) (port line : DWord) (time : LTime)
  | frontierReset (fn : Nat)
  | engineLease (fn : Nat) (engines ms : DWord)
  | attach (fn : Nat) (token : BitVec 128)
  | mailboxBadCommand (fn : Nat)
  -- Moult
  | moultQuiesce (part : Nat)
  | quiesceTimeout (part : Nat)
  | moultMove (part : Nat)
  | moultRehash (part : Nat)
  | rehashSetMigrate (part : Nat)
  | moultCommit (part : Nat)
  -- Chorus
  | incrementArrival (ctx : Nat) (slot : Slot)
  | incrementAck (ctx : Nat) (slot : Slot)
  | chorusRoundStart (part : Nat)
  | roundCompute (part : Nat)
  | announcementApply (part : Nat)
  -- terms unit persistence
  | nvStoreWriteComplete (handle : Nat)
  -- device, host link, peers
  | hostMemoryAccess (fn : Nat) (addr : DWord) (write : Option (List Byte)) (len : Nat)
  | atsInvalidation (part : Nat) (stale : StalePage)
  | flitRetry (port : Nat)
  | linkPortDown (port : Nat)
  | powerLimitReached (reached : Bool)
  | ageingMonitorRead (clusters : BitVec 64) (slices : BitVec 96)
  -- rows with no fields: NOPs of the slots (R19, R95), then the rest
  | nopCtl | nopSa | nopSb | nopVa | nopVb | nopMx | nopXu | nopDm
  | ret | yield | exit | trclr
  | powerLoss | powerUpRecovery | orderlyShutdown
  | deviceReset | bringUpComplete | lifeCycleChange
  | hostLinkDown | hostLinkRetrained
  deriving DecidableEq, Repr

/-- A bundle: its header address and header, and the instruction of each present slot in
ascending slot order (R17, R18). -/
structure Bundle where
  addr : DWord
  hdr : Word
  slots : List (Slot × Instr)
  deriving DecidableEq, Repr

end Sys2Proof
end

