-- ==== Sys2Proof/WellFormed.lean ====
section
/-!
DEFINITION. Which instructions are well formed in a slot: the field values that R28 checks at decode
beyond what the types of Syntax.lean already say. `encodable` is the part that makes a word
assigned at all (checks 2 and 3), `operandsOk` is check 4.
-/
namespace Sys2Proof

/-- Special registers that R93 assigns. -/
def specialAssigned (r : BitVec 12) : Bool :=
  let n := r.toNat
  decide (n ≤ 5) || (decide (0x010 ≤ n) && decide (n ≤ 0x015)) || decide (n = 0x020) ||
    (decide (0x030 ≤ n) && decide (n ≤ 0x035)) || decide (n = 0x040) || decide (n = 0x041) ||
    (decide (0x050 ≤ n) && decide (n ≤ 0x055))

/-- The slots that an instruction word may stand in (R9, R30 to R36). An empty bundle and the
device's own events stand in none. -/
inductive SlotClass where
  | ctl | scalar | vector | matrix | shuffle | data | va | vb | sa | sb | nowhere
  deriving DecidableEq, Repr

/-- The class of an instruction. -/
def Instr.slotClass : Instr → SlotClass
  | .nopCtl | .br .. | .brc .. | .brp .. | .jmpr .. | .call .. | .callr .. | .ret | .loop ..
  | .loopi .. | .brkl .. | .fmtset .. | .fmtsets .. | .waitk .. | .waitks .. | .fence .. | .drain ..
  | .yield | .trap .. | .exit | .mfs .. | .mts .. | .caphold .. | .capadv .. | .capdrop ..
  | .awaitf .. | .testf .. | .useopen .. | .useclose .. | .useq .. => .ctl
  | .nopSa => .sa
  | .nopSb => .sb
  | .add .. | .sub .. | .and .. | .or .. | .xor .. | .andn .. | .shl .. | .shr .. | .sra .. | .mul ..
  | .mulh .. | .mulhu .. | .div .. | .divu .. | .rem .. | .remu .. | .min .. | .max .. | .minu ..
  | .maxu .. | .slt .. | .sltu .. | .seq .. | .sne .. | .clz .. | .ctz .. | .popc .. | .addi ..
  | .andi .. | .ori .. | .xori .. | .shli .. | .shri .. | .srai .. | .slti .. | .sltiu .. | .lui ..
  | .sel .. | .adds .. | .ldb .. | .ldbu .. | .ldh .. | .ldhu .. | .ldw .. | .ldwu .. | .ldd ..
  | .stb .. | .sth .. | .stw .. | .std .. | .ldaq .. | .strl .. | .amo .. | .cas .. | .fadd ..
  | .fsub .. | .fmul .. | .fmin .. | .fmax .. | .fcmplt .. | .fcmple .. | .fcmpeq .. | .fcvtif ..
  | .fcvtfi .. | .fdiv .. | .fsqrt .. | .fma .. => .scalar
  | .nopVa => .va
  | .nopVb => .vb
  | .vadd .. | .vsub .. | .vmul .. | .vfma .. | .vfms .. | .vmin .. | .vmax .. | .vabs .. | .vneg ..
  | .vcmp .. | .vsel .. | .vswp .. | .vlog3 .. | .vshl .. | .vshr .. | .vsra .. | .vcvt ..
  | .vbcast .. | .vget .. | .viota .. | .vperm .. | .vred .. | .vacr .. | .vacw .. | .plog ..
  | .pxfer .. | .vclass .. | .vld .. | .vst .. | .vlds .. | .vsts .. | .vgath .. | .vscat .. => .vector
  | .nopXu | .xexp2 .. | .xlog2 .. | .xrcp .. | .xrsqrt .. | .xsqrt .. | .xtanh .. | .xsigm ..
  | .trpush .. | .trpop .. | .trclr => .shuffle
  | .nopMx | .mma .. | .mmaq .. | .mmal .. | .mxz .. | .mxepi .. | .mxcb .. | .mxrs .. | .mxst ..
  | .mxsa .. => .matrix
  | .nopDm | .tmap .. | .tunmap .. | .tfill .. | .twb .. | .tinv .. | .tsetf .. | .probe ..
  | .unprobe .. | .cpylv .. | .cpybs .. | .cpygo .. | .cpycv .. | .gath .. | .rbinit .. | .rbwait ..
  | .rbrel .. | .sctld .. | .enq .. | .deq .. | .coll .. | .l2lock .. | .l2unlk .. => .data
  | _ => .nowhere

/-- Whether a slot takes instructions of a class. -/
def Slot.takes (sl : Slot) (c : SlotClass) : Bool :=
  match sl, c with
  | .ctl, .ctl => true
  | .sa, .scalar => true
  | .sa, .sa => true
  | .sb, .scalar => true
  | .sb, .sb => true
  | .va, .vector => true
  | .va, .va => true
  | .vb, .vector => true
  | .vb, .vb => true
  | .mx, .matrix => true
  | .xu, .shuffle => true
  | .dm, .data => true
  | _, _ => false

/-- A destination type field of VCVT or MXST that R28 check 3 admits. -/
def typeAssigned (ty : BitVec 4) : Bool := decide (ty.toNat ≤ 0xa)

/-- Checks 2 and 3 of R28 for the fields whose types admit more than the spec assigns. -/
def Instr.encodable : Instr → Bool
  | .emptyBundle spix sp _ => sp || decide (spix = 0)
  | .fmtset val => !val.getLsbD 7
  | .vcvt _ _ ty _ _ => typeAssigned ty
  | .mxst _ _ ty _ => typeAssigned ty
  | .cpylv l _ b => decide (l ≠ 0) || decide (b = 0)
  | _ => true

/-- Whether lg is a multiple of the width in lane groups (R23). -/
def Lanes.aligned (l : Lanes) : Bool :=
  match l.w with
  | .w1024 => true
  | .w2048 => decide (l.lg.toNat % 2 = 0)
  | .w4096 => decide (l.lg.toNat = 0)

/-- Whether a vector register may be written from a slot (R23). -/
def Slot.writesV (sl : Slot) (v : BitVec 6) : Bool :=
  match sl with
  | .va => decide (v.toNat < 32)
  | .vb => decide (32 ≤ v.toNat)
  | _ => true

/-- Check 4 of R28. `none` passes; `some x` fails, with the special-register number that R93 puts
in the operand field where that is the failing field. -/
def Instr.operandFault (sl : Slot) (i : Instr) : Option (Option DWord) :=
  let fail (ok : Bool) : Option (Option DWord) := if ok then none else some none
  match i with
  | .mfs _ r | .mts r _ => if specialAssigned r then none else some (some (r.setWidth 64))
  | .vadd d _ _ l | .vsub d _ _ l | .vmul d _ _ l | .vfma d _ _ l | .vfms d _ _ l | .vmin d _ _ l
  | .vmax d _ _ l | .vsel d _ _ l | .vshl d _ _ l | .vshr d _ _ l | .vsra d _ _ l | .vperm d _ _ l =>
    fail (sl.writesV d && l.aligned)
  | .vabs d _ l | .vneg d _ l | .vclass d _ l | .vcvt d _ _ _ l | .vbcast d _ l | .viota d l
  | .vred _ d _ l => fail (sl.writesV d && l.aligned)
  | .vswp d a l => fail (sl.writesV d && sl.writesV a && l.aligned)
  | .vcmp pd _ _ _ l => fail (decide (pd ≠ 0) && l.aligned)
  | .vlog3 d _ _ _ => fail (sl.writesV d)
  | .vacr v _ _ => fail (sl.writesV v)
  | .plog pd _ _ _ => fail (decide (pd ≠ 0))
  | .pxfer pd _ => fail (decide (pd ≠ 0))
  | .vld v _ _ l => fail (sl.writesV v && l.aligned)
  | .vlds v _ _ l | .vgath v _ _ l => fail (sl.writesV v && l.aligned)
  | .vst _ _ _ l | .vsts _ _ _ l | .vscat _ _ _ l => fail l.aligned
  | .xexp2 _ _ l | .xlog2 _ _ l | .xrcp _ _ l | .xrsqrt _ _ l | .xsqrt _ _ l | .xtanh _ _ l
  | .xsigm _ _ l => fail l.aligned
  | .trpush _ l | .trpop _ l => fail (decide (l.w = .w1024) && decide (l.p = 0))
  | _ => none

/-- A slot word's instruction passes every check of R28 that looks at that word alone. -/
def Instr.wellFormed (sl : Slot) (i : Instr) : Bool :=
  sl.takes i.slotClass && i.encodable && (i.operandFault sl).isNone

/-- The instruction of an empty bundle's header is well formed (R17, R19). -/
def Instr.wellFormedEmpty (i : Instr) : Bool :=
  match i with
  | .emptyBundle .. => i.encodable
  | _ => false

end Sys2Proof
end

