-- ==== Sys2Proof/Decode.lean ====
section
/-!
DEFINITION. Decoding and encoding of bundles (R17 to R36): the fields of a slot word, one decoder
for each slot, the checks of R28 in their order, and the encoder written from the same tables.
-/
namespace Sys2Proof

/-- `n` bits of a word from bit `lo` up. -/
abbrev fld (w : Word) (lo n : Nat) : BitVec n := w.extractLsb' lo n

def decBrCond (x : BitVec 3) : Option BrCond :=
  match x.toNat with
  | 0 => some .eqz | 1 => some .nez | 2 => some .ltz | 3 => some .gez | 4 => some .gtz
  | 5 => some .lez | _ => none

def encBrCond : BrCond → BitVec 3
  | .eqz => 0 | .nez => 1 | .ltz => 2 | .gez => 3 | .gtz => 4 | .lez => 5

def decPredMode (x : BitVec 2) : Option PredMode :=
  match x.toNat with
  | 0 => some .any | 1 => some .all | 2 => some .none | _ => none

def encPredMode : PredMode → BitVec 2
  | .any => 0 | .all => 1 | .none => 2

def decScope (x : BitVec 3) : Option Scope :=
  match x.toNat with
  | 0 => some .ctx | 1 => some .core | 2 => some .cluster | 3 => some .part | 4 => some .dev
  | 5 => some .sys | _ => none

def encScope : Scope → BitVec 3
  | .ctx => 0 | .core => 1 | .cluster => 2 | .part => 3 | .dev => 4 | .sys => 5

def decFenceKind (x : BitVec 3) : Option FenceKind :=
  match x.toNat with
  | 1 => some .acq | 2 => some .rel | 3 => some .full | _ => none

def encFenceKind : FenceKind → BitVec 3
  | .acq => 1 | .rel => 2 | .full => 3

def decDepth (x : BitVec 3) : Option Depth :=
  if h : x.toNat < 6 then some ⟨x.toNat, h⟩ else none

def encDepth (d : Depth) : BitVec 3 := BitVec.ofNat 3 d.val

/-- BRKL's n, 1 to 5, held as n - 1. -/
def decBrkl (x : BitVec 3) : Option (Fin 5) :=
  if h : x.toNat - 1 < 5 then (if x = 0 then none else some ⟨x.toNat - 1, h⟩) else none

def encBrkl (n : Fin 5) : BitVec 3 := BitVec.ofNat 3 (n.val + 1)

def decLevel (x : BitVec 6) : Option (Fin 6) :=
  if h : x.toNat < 6 then some ⟨x.toNat, h⟩ else none

def encLevel (n : Fin 6) : BitVec 6 := BitVec.ofNat 6 n.val

def decSize (x : BitVec 8) : Option Size :=
  match x.toNat with
  | 0 => some .b | 1 => some .h | 2 => some .w | 3 => some .d | _ => none

def encSize : Size → BitVec 8
  | .b => 0 | .h => 1 | .w => 2 | .d => 3

def decAmoOp (x : BitVec 4) : Option AmoOp :=
  match x.toNat with
  | 0 => some .add | 1 => some .swp | 2 => some .and | 3 => some .or | 4 => some .xor
  | 5 => some .min | 6 => some .max | 7 => some .minu | 8 => some .maxu | _ => none

def encAmoOp : AmoOp → BitVec 4
  | .add => 0 | .swp => 1 | .and => 2 | .or => 3 | .xor => 4 | .min => 5 | .max => 6 | .minu => 7
  | .maxu => 8

def decOrder (x : BitVec 2) : Order :=
  match x.toNat with
  | 0 => .rlx | 1 => .acq | 2 => .rel | _ => .acqrel

def encOrder : Order → BitVec 2
  | .rlx => 0 | .acq => 1 | .rel => 2 | .acqrel => 3

def decWidth (x : BitVec 2) : Option Width :=
  match x.toNat with
  | 0 => some .w1024 | 1 => some .w2048 | 2 => some .w4096 | _ => none

def encWidth : Width → BitVec 2
  | .w1024 => 0 | .w2048 => 1 | .w4096 => 2

def decVCond (x : BitVec 3) : VCond :=
  match x.toNat with
  | 0 => .eq | 1 => .ne | 2 => .lt | 3 => .le | 4 => .gt | 5 => .ge | 6 => .gtn | _ => .un

def encVCond : VCond → BitVec 3
  | .eq => 0 | .ne => 1 | .lt => 2 | .le => 3 | .gt => 4 | .ge => 5 | .gtn => 6 | .un => 7

def decRnd (x : BitVec 2) : Option RndSel :=
  match x.toNat with
  | 0 => some .fmt | 1 => some .rne | 2 => some .rtz | _ => none

def encRnd : RndSel → BitVec 2
  | .fmt => 0 | .rne => 1 | .rtz => 2

def decRedFn (x : BitVec 6) : Option RedFn :=
  match x.toNat with
  | 0 => some .add | 1 => some .min | 2 => some .max | _ => none

def encRedFn : RedFn → BitVec 6
  | .add => 0 | .min => 1 | .max => 2

/-- Bits 7:0 of forms V, VC and X: w, lg, a zero bit and p (R22). -/
def decLanes (w : Word) : Option Lanes :=
  match decWidth (fld w 6 2) with
  | some wd => if fld w 3 1 = 0 then some ⟨wd, fld w 4 2, fld w 0 3⟩ else none
  | none => none

def encLanes (l : Lanes) : BitVec 8 := encWidth l.w ++ l.lg ++ (0 : BitVec 1) ++ l.p

/-- The lane fields of form VM, with lg from the lent bits (R20). -/
def decLanesM (lent : BitVec 2) (w : Word) : Option Lanes :=
  match decWidth (fld w 4 2) with
  | some wd => if fld w 3 1 = 0 then some ⟨wd, lent, fld w 0 3⟩ else none
  | none => none

/-- The lane fields of form VX, with lg from the lent bits (R20). -/
def decLanesX (lent : BitVec 2) (w : Word) : Option Lanes :=
  match decWidth (fld w 6 2) with
  | some wd => if fld w 3 3 = 0 then some ⟨wd, lent, fld w 0 3⟩ else none
  | none => none

/-- The row of form VR (R22, R146). -/
def decRow (w : Word) : Option RowSel :=
  if fld w 0 3 = 0 then
    if fld w 3 1 = 0 then (if fld w 4 6 = 0 then some (.imm (fld w 10 7)) else none)
    else if fld w 10 7 = 0 then some (.reg (fld w 4 6)) else none
  else none

def encRow : RowSel → BitVec 17
  | .imm r => r ++ (0 : BitVec 6) ++ (0 : BitVec 1) ++ (0 : BitVec 3)
  | .reg s => (0 : BitVec 7) ++ s ++ (1 : BitVec 1) ++ (0 : BitVec 3)

/-- `i` where the bits from `lo` up, `n` of them, are zero as R22 asks. -/
def zeros (w : Word) (lo n : Nat) (i : Instr) : Option Instr :=
  if fld w lo n = 0 then some i else none

/-- The CTL slot (R30). -/
def decodeCtl (w : Word) : Option Instr :=
  match (fld w 26 6).toNat with
  | 0x00 => zeros w 0 26 .nopCtl
  | 0x01 => some (.br (fld w 0 26))
  | 0x02 => (decBrCond (fld w 17 3)).map fun cc => .brc cc (fld w 20 6) (fld w 0 17)
  | 0x03 => (decPredMode (fld w 20 2)).map fun m => .brp m (fld w 22 4) (fld w 0 20)
  | 0x04 => if fld w 20 6 = 0 then zeros w 0 14 (.jmpr (fld w 14 6)) else none
  | 0x05 => some (.call (fld w 0 26))
  | 0x06 => if fld w 20 6 = 0 then zeros w 0 14 (.callr (fld w 14 6)) else none
  | 0x07 => zeros w 0 26 .ret
  | 0x08 => zeros w 20 6 (.loop (fld w 14 6) (fld w 0 14))
  | 0x09 => some (.loopi (fld w 14 12) (fld w 0 14))
  | 0x0a => if fld w 0 23 = 0 then (decBrkl (fld w 23 3)).map .brkl else none
  | 0x0b => if fld w 20 6 = 0 then zeros w 7 1 (.fmtset (fld w 0 20)) else none
  | 0x0c => if fld w 20 6 = 0 then zeros w 0 14 (.fmtsets (fld w 14 6)) else none
  | 0x0d => zeros w 0 6 (.waitk (fld w 21 5) (fld w 16 5) (fld w 11 5) (fld w 6 5))
  | 0x0e => if fld w 20 6 = 0 then zeros w 0 14 (.waitks (fld w 14 6)) else none
  | 0x0f =>
    if fld w 0 20 = 0 then
      match decScope (fld w 23 3), decFenceKind (fld w 20 3) with
      | some sc, some k => some (.fence sc k)
      | _, _ => none
    else none
  | 0x10 => if fld w 0 23 = 0 then (decScope (fld w 23 3)).map .drain else none
  | 0x11 => zeros w 0 26 .yield
  | 0x12 => zeros w 16 10 (.trap (fld w 0 16))
  | 0x13 => zeros w 0 26 .exit
  | 0x14 => zeros w 12 8 (.mfs (fld w 20 6) (fld w 0 12))
  | 0x15 => if fld w 20 6 = 0 then zeros w 12 2 (.mts (fld w 0 12) (fld w 14 6)) else none
  | 0x18 => if fld w 0 17 = 0 then (decDepth (fld w 17 3)).map (.caphold (fld w 20 6)) else none
  | 0x19 => zeros w 0 20 (.capadv (fld w 20 6))
  | 0x1a => zeros w 0 20 (.capdrop (fld w 20 6))
  | 0x1b => if fld w 0 17 = 0 then (decDepth (fld w 17 3)).map (.awaitf (fld w 20 6)) else none
  | 0x1c =>
    if fld w 0 11 = 0 then (decDepth (fld w 11 3)).map (.testf (fld w 20 6) (fld w 14 6)) else none
  | 0x20 => if fld w 20 3 = 0 then zeros w 0 14 (.useopen (fld w 23 3) (fld w 14 6)) else none
  | 0x21 => zeros w 0 23 (.useclose (fld w 23 3))
  | 0x22 => zeros w 0 17 (.useq (fld w 20 6) (fld w 17 3))
  | _ => none

/-- OPR functions of two operands (R32). -/
def decodeOpr (w : Word) : Option Instr :=
  let d := fld w 20 6
  let a := fld w 14 6
  let b := fld w 8 6
  match (fld w 0 8).toNat with
  | 0x00 => some (.add d a b)
  | 0x01 => some (.sub d a b)
  | 0x02 => some (.and d a b)
  | 0x03 => some (.or d a b)
  | 0x04 => some (.xor d a b)
  | 0x05 => some (.andn d a b)
  | 0x06 => some (.shl d a b)
  | 0x07 => some (.shr d a b)
  | 0x08 => some (.sra d a b)
  | 0x09 => some (.mul d a b)
  | 0x0a => some (.mulh d a b)
  | 0x0b => some (.mulhu d a b)
  | 0x0c => some (.div d a b)
  | 0x0d => some (.divu d a b)
  | 0x0e => some (.rem d a b)
  | 0x0f => some (.remu d a b)
  | 0x10 => some (.min d a b)
  | 0x11 => some (.max d a b)
  | 0x12 => some (.minu d a b)
  | 0x13 => some (.maxu d a b)
  | 0x14 => some (.slt d a b)
  | 0x15 => some (.sltu d a b)
  | 0x16 => some (.seq d a b)
  | 0x17 => some (.sne d a b)
  | 0x18 => zeros w 8 6 (.clz d a)
  | 0x19 => zeros w 8 6 (.ctz d a)
  | 0x1a => zeros w 8 6 (.popc d a)
  | _ => none

/-- FPU functions (R32). -/
def decodeFpu (w : Word) : Option Instr :=
  let d := fld w 20 6
  let a := fld w 14 6
  let b := fld w 8 6
  match (fld w 0 8).toNat with
  | 0 => some (.fadd d a b)
  | 1 => some (.fsub d a b)
  | 2 => some (.fmul d a b)
  | 3 => some (.fmin d a b)
  | 4 => some (.fmax d a b)
  | 5 => some (.fcmplt d a b)
  | 6 => some (.fcmple d a b)
  | 7 => some (.fcmpeq d a b)
  | 8 => zeros w 8 6 (.fcvtif d a)
  | 9 => zeros w 8 6 (.fcvtfi d a)
  | 10 => some (.fdiv d a b)
  | 11 => zeros w 8 6 (.fsqrt d a)
  | _ => none

/-- The SA and SB slots (R31). -/
def decodeScalar (sl : Slot) (lent : BitVec 2) (w : Word) : Option Instr :=
  let d := fld w 20 6
  let a := fld w 14 6
  let b := fld w 8 6
  let imm : BitVec 16 := lent ++ fld w 0 14
  match (fld w 26 6).toNat with
  | 0x00 => zeros w 0 26 (if sl = .sa then .nopSa else .nopSb)
  | 0x01 => decodeOpr w
  | 0x02 => some (.addi d a imm)
  | 0x03 => some (.andi d a imm)
  | 0x04 => some (.ori d a imm)
  | 0x05 => some (.xori d a imm)
  | 0x06 => if lent = 0 then zeros w 6 8 (.shli d a (fld w 0 6)) else none
  | 0x07 => if lent = 0 then zeros w 6 8 (.shri d a (fld w 0 6)) else none
  | 0x08 => if lent = 0 then zeros w 6 8 (.srai d a (fld w 0 6)) else none
  | 0x09 => some (.slti d a imm)
  | 0x0a => some (.sltiu d a imm)
  | 0x0b => some (.lui d (lent ++ fld w 0 20))
  | 0x0c => zeros w 6 2 (.sel d a b (fld w 0 6))
  | 0x0d => zeros w 6 2 (.adds d a b (fld w 0 6))
  | 0x10 => some (.ldb d a imm)
  | 0x11 => some (.ldbu d a imm)
  | 0x12 => some (.ldh d a imm)
  | 0x13 => some (.ldhu d a imm)
  | 0x14 => some (.ldw d a imm)
  | 0x15 => some (.ldwu d a imm)
  | 0x16 => some (.ldd d a imm)
  | 0x17 => some (.stb d a imm)
  | 0x18 => some (.sth d a imm)
  | 0x19 => some (.stw d a imm)
  | 0x1a => some (.std d a imm)
  | 0x1b => if b = 0 then (decSize (fld w 0 8)).map fun sz => .ldaq sz d a else none
  | 0x1c => if b = 0 then (decSize (fld w 0 8)).map fun sz => .strl sz d a else none
  | 0x20 =>
    if fld w 7 1 = 0 then
      (decAmoOp (fld w 0 4)).map fun op =>
        .amo op (w.getLsbD 4) (decOrder (fld w 5 2)) (lent.getLsbD 0) d a b
    else none
  | 0x21 =>
    if fld w 7 1 = 0 then
      zeros w 0 4 (.cas (w.getLsbD 4) (decOrder (fld w 5 2)) (lent.getLsbD 0) d a b)
    else none
  | 0x28 => decodeFpu w
  | 0x29 => zeros w 0 8 (.fma d a b)
  | _ => none

/-- The VA and VB slots (R33). -/
def decodeVector (sl : Slot) (lent : BitVec 2) (w : Word) : Option Instr :=
  let d := fld w 20 6
  let a := fld w 14 6
  let b := fld w 8 6
  let ln := decLanes w
  match (fld w 26 6).toNat with
  | 0x00 => zeros w 0 26 (if sl = .va then .nopVa else .nopVb)
  | 0x01 => ln.map (.vadd d a b)
  | 0x02 => ln.map (.vsub d a b)
  | 0x03 => ln.map (.vmul d a b)
  | 0x04 => ln.map (.vfma d a b)
  | 0x05 => ln.map (.vfms d a b)
  | 0x06 => ln.map (.vmin d a b)
  | 0x07 => ln.map (.vmax d a b)
  | 0x08 => if b = 0 then ln.map (.vabs d a) else none
  | 0x09 => if b = 0 then ln.map (.vneg d a) else none
  | 0x0a => ln.map (.vcmp (fld w 23 3) (decVCond (fld w 20 3)) a b)
  | 0x0b => ln.map (.vsel d a b)
  | 0x0c => if b = 0 then ln.map (.vswp d a) else none
  | 0x0d => some (.vlog3 d a b (fld w 0 8))
  | 0x0e => ln.map (.vshl d a b)
  | 0x0f => ln.map (.vshr d a b)
  | 0x10 => ln.map (.vsra d a b)
  | 0x12 =>
    match decRnd (fld w 8 2) with
    | some r => ln.map (.vcvt d a (fld w 10 4) r)
    | none => none
  | 0x13 => if b = 0 then ln.map (.vbcast d a) else none
  | 0x14 => zeros w 0 8 (.vget d a b)
  | 0x15 => if a = 0 then (if b = 0 then ln.map (.viota d) else none) else none
  | 0x16 => ln.map (.vperm d a b)
  | 0x17 =>
    match decRedFn b with
    | some fn => ln.map (.vred fn d a)
    | none => none
  | 0x18 => (decRow w).map (.vacr d (fld w 17 3))
  | 0x19 => (decRow w).map (.vacw d (fld w 17 3))
  | 0x1a => zeros w 0 13 (.plog (fld w 23 3) (fld w 20 3) (fld w 17 3) (fld w 13 4))
  | 0x1b => zeros w 0 19 (.pxfer (fld w 23 3) (fld w 19 4))
  | 0x1c => if b = 0 then ln.map (.vclass d a) else none
  | 0x20 => (decLanesM lent w).map (.vld d a (fld w 6 8))
  | 0x21 => (decLanesM lent w).map (.vst d a (fld w 6 8))
  | 0x22 => (decLanesX lent w).map (.vlds d a b)
  | 0x23 => (decLanesX lent w).map (.vsts d a b)
  | 0x24 => (decLanesX lent w).map (.vgath d a b)
  | 0x25 => (decLanesX lent w).map (.vscat d a b)
  | _ => none

/-- The XU slot (R34). Every field of a TRCLR is zero there (check 2 of R28), so one with `w` or `p` set is no
instruction. DESIGN CHOICE, log 105. -/
def decodeShuffle (w : Word) : Option Instr :=
  let d := fld w 20 6
  let a := fld w 14 6
  let ln := if fld w 8 6 = 0 then decLanes w else none
  match (fld w 26 6).toNat with
  | 0x00 => zeros w 0 26 .nopXu
  | 0x01 => if d = 0 then ln.map (.trpush a) else none
  | 0x02 => if a = 0 then ln.map (.trpop d) else none
  | 0x03 => zeros w 0 26 .trclr
  | 0x08 => ln.map (.xexp2 d a)
  | 0x09 => ln.map (.xlog2 d a)
  | 0x0a => ln.map (.xrcp d a)
  | 0x0b => ln.map (.xrsqrt d a)
  | 0x0c => ln.map (.xsqrt d a)
  | 0x0d => ln.map (.xtanh d a)
  | 0x0e => ln.map (.xsigm d a)
  | _ => none

/-- Form M (R22). -/
def decMma (w : Word) : MmaArgs :=
  ⟨fld w 23 3, fld w 18 5, fld w 13 5, fld w 5 8, fld w 1 4, w.getLsbD 0⟩

def encMma (m : MmaArgs) : BitVec 26 :=
  m.acc ++ m.ta ++ m.tb ++ m.beats1 ++ m.sidx ++ BitVec.ofBool m.z

/-- The MX slot (R35). -/
def decodeMatrix (w : Word) : Option Instr :=
  match (fld w 26 6).toNat with
  | 0x00 => zeros w 0 26 .nopMx
  | 0x01 => some (.mma (decMma w))
  | 0x02 => some (.mmaq (decMma w))
  | 0x03 => some (.mmal (decMma w))
  | 0x04 => zeros w 0 23 (.mxz (fld w 23 3))
  | 0x05 => zeros w 0 11 (.mxepi (fld w 23 3) (fld w 17 6) (fld w 11 6))
  | 0x06 => zeros w 0 18 (.mxcb (fld w 24 2) (fld w 18 6))
  | 0x07 => zeros w 0 17 (.mxrs (fld w 20 6) (fld w 17 3))
  | 0x08 =>
    match decRnd (fld w 12 2) with
    | some r => zeros w 0 12 (.mxst (fld w 23 3) (fld w 18 5) (fld w 14 4) r)
    | none => none
  | 0x09 => if fld w 24 2 = 0 then zeros w 0 18 (.mxsa (fld w 18 6)) else none
  | _ => none

/-- Form DS of a synchronous instruction: its token field is 31 and bits 2:0 are zero (R22, R170). -/
def syncDS (w : Word) (i : Instr) : Option Instr := if fld w 0 8 = 0xf8 then some i else none

/-- The ring of GATH: d[3] = g, d[2:0] = q, d[5:4] zero (R174). -/
def decGathRing (d : BitVec 6) : Option (Option (BitVec 3)) :=
  if d.extractLsb' 4 2 = 0 then
    (if d.getLsbD 3 then some (some (d.extractLsb' 0 3)) else some none)
  else none

def encGathRing : Option (BitVec 3) → BitVec 6
  | none => 0
  | some q => (0 : BitVec 2) ++ (1 : BitVec 1) ++ q

/-- The ring of CPYGO: g and q; g = 0 requires q = 0 (R22). -/
def decGoRing (w : Word) : Option (Option (BitVec 3)) :=
  if w.getLsbD 5 then some (some (fld w 2 3))
  else if fld w 2 3 = 0 then some none else none

def encGoRing : Option (BitVec 3) → BitVec 4
  | none => 0
  | some q => (1 : BitVec 1) ++ q

/-- The DM slot (R36). -/
def decodeData (w : Word) : Option Instr :=
  let d := fld w 20 6
  let a := fld w 14 6
  let b := fld w 8 6
  let k := fld w 3 5
  let th := fld w 21 5
  let rb := fld w 23 3
  match (fld w 26 6).toNat with
  | 0x00 => zeros w 0 26 .nopDm
  | 0x01 => if fld w 0 15 = 0x1f0 then some (.tmap th (fld w 15 6)) else none
  | 0x02 => if fld w 9 12 = 0 then zeros w 0 4 (.tunmap th (fld w 4 5)) else none
  | 0x03 => if fld w 9 12 = 0 then zeros w 0 4 (.tfill th (fld w 4 5)) else none
  | 0x04 => if fld w 9 12 = 0 then zeros w 0 4 (.twb th (fld w 4 5)) else none
  | 0x05 => if fld w 0 21 = 0x1f0 then some (.tinv th) else none
  | 0x07 =>
    if fld w 0 15 = 0x1f0 then zeros w 16 5 (.tsetf th (w.getLsbD 15)) else none
  | 0x08 => if fld w 21 5 = 0 then syncDS w (.probe (w.getLsbD 20) a b) else none
  | 0x09 => if d = 0 then syncDS w (.unprobe a b) else none
  | 0x0a =>
    match decLevel d with
    | some l => if l ≠ 0 ∨ b = 0 then syncDS w (.cpylv l a b) else none
    | none => none
  | 0x0b => if d = 0 then syncDS w (.cpybs a b) else none
  | 0x0c =>
    match decGoRing w with
    | some r => zeros w 0 2 (.cpygo (fld w 21 5) (fld w 16 5) (fld w 11 5) (fld w 6 5) r)
    | none => none
  | 0x0d => syncDS w (.cpycv d a b)
  | 0x0e =>
    match decGathRing d with
    | some r => zeros w 0 3 (.gath a b k r)
    | none => none
  | 0x10 => if fld w 0 11 = 0x7c0 then some (.rbinit rb (fld w 17 6) (fld w 11 6)) else none
  | 0x11 => if fld w 0 23 = 0x7c0 then some (.rbwait rb) else none
  | 0x12 => if fld w 0 23 = 0x7c0 then some (.rbrel rb) else none
  | 0x13 => if d = 0 then (if b = 0 then syncDS w (.sctld a) else none) else none
  | 0x14 => if b = 0 then zeros w 0 3 (.enq d a k) else none
  | 0x15 => if b = 0 then syncDS w (.deq d a) else none
  | 0x16 => if d = 0 then (if b = 0 then zeros w 0 3 (.coll a k) else none) else none
  | 0x17 => syncDS w (.l2lock d a b)
  | 0x18 => syncDS w (.l2unlk d a b)
  | _ => none

/-- A slot word with its slot's lent bits. `none` where check 2 of R28 fails. -/
def decodeWord (sl : Slot) (lent : BitVec 2) (w : Word) : Option Instr :=
  match sl with
  | .ctl => decodeCtl w
  | .sa => decodeScalar .sa lent w
  | .sb => decodeScalar .sb lent w
  | .va => decodeVector .va lent w
  | .vb => decodeVector .vb lent w
  | .mx => decodeMatrix w
  | .xu => decodeShuffle w
  | .dm => decodeData w

/-- The lent bits that R20 lets a slot word use. -/
def lentMask (sl : Slot) (w : Word) : BitVec 2 :=
  let op := (fld w 26 6).toNat
  match sl with
  | .sa | .sb =>
    if (2 ≤ op ∧ op ≤ 0x0b) ∨ (0x10 ≤ op ∧ op ≤ 0x1a) then 3
    else if op = 0x20 ∨ op = 0x21 then 1 else 0
  | .va | .vb => if 0x20 ≤ op ∧ op ≤ 0x25 then 3 else 0
  | _ => 0

/-! ### Bundles -/

def Slot.all : List Slot := [.ctl, .sa, .sb, .va, .vb, .mx, .xu, .dm]

def hdrMask (h : Word) : BitVec 8 := fld h 0 8
def hdrSt (h : Word) : Bool := h.getLsbD 8
def hdrSp (h : Word) : Bool := h.getLsbD 9
def hdrSpix (h : Word) : BitVec 6 := fld h 10 6

/-- A slot's lent bits (R17). -/
def hdrLent (h : Word) (sl : Slot) : BitVec 2 := fld h (16 + 2 * sl.index) 2

/-- The slots a header marks present, in ascending order. -/
def hdrSlots (h : Word) : List Slot := Slot.all.filter fun sl => h.getLsbD sl.index

/-- Words of a bundle (R18). -/
def bundleWords (h : Word) : Nat := 1 + (hdrSlots h).length

/-- Each present slot with its word, the words following the header in order (R18). -/
def pairWords : List Slot → List Word → List (Slot × Word)
  | sl :: ss, w :: ws => (sl, w) :: pairWords ss ws
  | _, _ => []

/-- Check 1 of R28. -/
def headerOk (h : Word) (sw : List (Slot × Word)) : Bool :=
  (hdrSp h || decide (hdrSpix h = 0)) &&
    Slot.all.all fun sl =>
      match sw.find? fun p => decide (p.1 = sl) with
      | some p => decide (hdrLent h sl &&& ~~~ lentMask sl p.2 = 0)
      | none => decide (hdrLent h sl = 0)

/-- Why a bundle is refused at decode: the check of R28, the lowest slot that fails it (none for
slot 0xF), and the operand where the spec names one. -/
inductive DecodeErr where
  | opcode (slot : Option Slot)
  | format (slot : Slot)
  | operand (slot : Slot) (num : Option DWord)
  deriving DecidableEq, Repr

/-- Check 2: every word decodes, the lowest failing slot first. -/
def decodeWords (h : Word) : List (Slot × Word) → Except Slot (List (Slot × Instr))
  | [] => .ok []
  | (sl, w) :: t =>
    match decodeWord sl (hdrLent h sl) w with
    | none => .error sl
    | some i =>
      match decodeWords h t with
      | .ok l => .ok ((sl, i) :: l)
      | .error e => .error e

/-- Checks 1 to 4 of R28 on a header and the words that follow it. -/
def decodeBundle (addr : DWord) (h : Word) (ws : List Word) : Except DecodeErr Bundle :=
  let sw := pairWords (hdrSlots h) ws
  if headerOk h sw = false then .error (.opcode none)
  else
    match decodeWords h sw with
    | .error sl => .error (.opcode (some sl))
    | .ok l =>
      match l.find? fun p => !p.2.encodable with
      | some p => .error (.format p.1)
      | none =>
        match l.find? fun p => (p.2.operandFault p.1).isSome with
        | some p => .error (.operand p.1 ((p.2.operandFault p.1).getD none))
        | none => .ok ⟨addr, h, l⟩

/-- The instruction that an empty bundle's header stands for (R19). -/
def emptyOf (h : Word) : Instr := .emptyBundle (hdrSpix h) (hdrSp h) (hdrSt h)

/-- A 32-bit word from four bytes, little-endian (R4); missing bytes are not read. -/
def wordOfBytes : List Byte → Option (Word × List Byte)
  | a :: b :: c :: d :: t => some (d ++ c ++ b ++ a, t)
  | _ => none

/-- The words of a run of bytes. -/
def wordsOfBytes : Nat → List Byte → Option (List Word × List Byte)
  | 0, l => some ([], l)
  | n + 1, l =>
    match wordOfBytes l with
    | none => none
    | some (w, t) =>
      match wordsOfBytes n t with
      | none => none
      | some (ws, r) => some (w :: ws, r)

/-- Why bytes are not a bundle. -/
inductive ByteErr where
  /-- fewer bytes than the header's length asks for (the loader's check, R21) -/
  | short
  | decode (e : DecodeErr)
  deriving DecidableEq, Repr

/-- Decode a bundle from bytes: the bundle and the bytes after it. -/
def decodeBytes (addr : DWord) (l : List Byte) : Except ByteErr (Bundle × List Byte) :=
  match wordOfBytes l with
  | none => .error .short
  | some (h, t) =>
    match wordsOfBytes (hdrSlots h).length t with
    | none => .error .short
    | some (ws, r) =>
      match decodeBundle addr h ws with
      | .ok b => .ok (b, r)
      | .error e => .error (.decode e)

/-! ### Encoding -/

/-- Form R (R22). -/
def encR (op d a b : BitVec 6) (f : BitVec 8) : Word := op ++ d ++ a ++ b ++ f
/-- Form I without the lent bits. -/
def encI (op d a : BitVec 6) (imm : BitVec 16) : Word := op ++ d ++ a ++ imm.extractLsb' 0 14
/-- Form V. -/
def encV (op d a b : BitVec 6) (l : Lanes) : Word := op ++ d ++ a ++ b ++ encLanes l
/-- Form VM. -/
def encVM (op v s : BitVec 6) (off : BitVec 8) (l : Lanes) : Word :=
  op ++ v ++ s ++ off ++ encWidth l.w ++ (0 : BitVec 1) ++ l.p
/-- Form VX. -/
def encVX (op v s b : BitVec 6) (l : Lanes) : Word :=
  op ++ v ++ s ++ b ++ encWidth l.w ++ (0 : BitVec 3) ++ l.p
/-- Form DT with b = 0. -/
def encDT (op : BitVec 6) (th : BitVec 5) (a : BitVec 6) (k : BitVec 5) : Word :=
  op ++ th ++ a ++ (0 : BitVec 6) ++ k ++ (0 : BitVec 4)
/-- Form DR with kp = 31. -/
def encDR (op : BitVec 6) (rb : BitVec 3) (a b : BitVec 6) : Word :=
  op ++ rb ++ a ++ b ++ (31 : BitVec 5) ++ (0 : BitVec 6)
/-- Form DS. -/
def encDS (op d a b : BitVec 6) (k : BitVec 5) : Word := op ++ d ++ a ++ b ++ k ++ (0 : BitVec 3)
/-- A CTL word with fields in 25:20, 19:14 and 13:0. -/
def encC (op d a : BitVec 6) (x : BitVec 14) : Word := op ++ d ++ a ++ x

def encAmoF (x : BitVec 4) (dw : Bool) (o : Order) : BitVec 8 :=
  (0 : BitVec 1) ++ encOrder o ++ BitVec.ofBool dw ++ x

/-- The word of an instruction; the device's events have none and give 0. -/
def encode : Instr → Word
  | .emptyBundle spix sp st =>
    (0 : BitVec 16) ++ spix ++ BitVec.ofBool sp ++ BitVec.ofBool st ++ (0 : BitVec 8)
  | .nopCtl | .nopSa | .nopSb | .nopVa | .nopVb | .nopMx | .nopXu | .nopDm => 0
  | .br off => (0x01 : BitVec 6) ++ off
  | .brc cc s off => (0x02 : BitVec 6) ++ s ++ encBrCond cc ++ off
  | .brp m p off => (0x03 : BitVec 6) ++ p ++ encPredMode m ++ off
  | .jmpr a => encC 0x04 0 a 0
  | .call off => (0x05 : BitVec 6) ++ off
  | .callr a => encC 0x06 0 a 0
  | .ret => encC 0x07 0 0 0
  | .loop a e => encC 0x08 0 a e
  | .loopi n e => (0x09 : BitVec 6) ++ n ++ e
  | .brkl n => (0x0a : BitVec 6) ++ encBrkl n ++ (0 : BitVec 23)
  | .fmtset v => (0x0b : BitVec 6) ++ (0 : BitVec 6) ++ v
  | .fmtsets a => encC 0x0c 0 a 0
  | .waitk ka kb kc kd => (0x0d : BitVec 6) ++ ka ++ kb ++ kc ++ kd ++ (0 : BitVec 6)
  | .waitks a => encC 0x0e 0 a 0
  | .fence sc k => (0x0f : BitVec 6) ++ encScope sc ++ encFenceKind k ++ (0 : BitVec 20)
  | .drain sc => (0x10 : BitVec 6) ++ encScope sc ++ (0 : BitVec 23)
  | .yield => encC 0x11 0 0 0
  | .trap imm => (0x12 : BitVec 6) ++ (0 : BitVec 10) ++ imm
  | .exit => encC 0x13 0 0 0
  | .mfs d r => (0x14 : BitVec 6) ++ d ++ (0 : BitVec 8) ++ r
  | .mts r a => (0x15 : BitVec 6) ++ (0 : BitVec 6) ++ a ++ (0 : BitVec 2) ++ r
  | .caphold port d => (0x18 : BitVec 6) ++ port ++ encDepth d ++ (0 : BitVec 17)
  | .capadv port => (0x19 : BitVec 6) ++ port ++ (0 : BitVec 20)
  | .capdrop port => (0x1a : BitVec 6) ++ port ++ (0 : BitVec 20)
  | .awaitf port d => (0x1b : BitVec 6) ++ port ++ encDepth d ++ (0 : BitVec 17)
  | .testf rd port d => (0x1c : BitVec 6) ++ rd ++ port ++ encDepth d ++ (0 : BitVec 11)
  | .useopen ub a => (0x20 : BitVec 6) ++ ub ++ (0 : BitVec 3) ++ a ++ (0 : BitVec 14)
  | .useclose ub => (0x21 : BitVec 6) ++ ub ++ (0 : BitVec 23)
  | .useq d ub => (0x22 : BitVec 6) ++ d ++ ub ++ (0 : BitVec 17)
  | .add d a b => encR 0x01 d a b 0x00
  | .sub d a b => encR 0x01 d a b 0x01
  | .and d a b => encR 0x01 d a b 0x02
  | .or d a b => encR 0x01 d a b 0x03
  | .xor d a b => encR 0x01 d a b 0x04
  | .andn d a b => encR 0x01 d a b 0x05
  | .shl d a b => encR 0x01 d a b 0x06
  | .shr d a b => encR 0x01 d a b 0x07
  | .sra d a b => encR 0x01 d a b 0x08
  | .mul d a b => encR 0x01 d a b 0x09
  | .mulh d a b => encR 0x01 d a b 0x0a
  | .mulhu d a b => encR 0x01 d a b 0x0b
  | .div d a b => encR 0x01 d a b 0x0c
  | .divu d a b => encR 0x01 d a b 0x0d
  | .rem d a b => encR 0x01 d a b 0x0e
  | .remu d a b => encR 0x01 d a b 0x0f
  | .min d a b => encR 0x01 d a b 0x10
  | .max d a b => encR 0x01 d a b 0x11
  | .minu d a b => encR 0x01 d a b 0x12
  | .maxu d a b => encR 0x01 d a b 0x13
  | .slt d a b => encR 0x01 d a b 0x14
  | .sltu d a b => encR 0x01 d a b 0x15
  | .seq d a b => encR 0x01 d a b 0x16
  | .sne d a b => encR 0x01 d a b 0x17
  | .clz d a => encR 0x01 d a 0 0x18
  | .ctz d a => encR 0x01 d a 0 0x19
  | .popc d a => encR 0x01 d a 0 0x1a
  | .addi d a i => encI 0x02 d a i
  | .andi d a i => encI 0x03 d a i
  | .ori d a i => encI 0x04 d a i
  | .xori d a i => encI 0x05 d a i
  | .shli d a sh => (0x06 : BitVec 6) ++ d ++ a ++ (0 : BitVec 8) ++ sh
  | .shri d a sh => (0x07 : BitVec 6) ++ d ++ a ++ (0 : BitVec 8) ++ sh
  | .srai d a sh => (0x08 : BitVec 6) ++ d ++ a ++ (0 : BitVec 8) ++ sh
  | .slti d a i => encI 0x09 d a i
  | .sltiu d a i => encI 0x0a d a i
  | .lui d i => (0x0b : BitVec 6) ++ d ++ i.extractLsb' 0 20
  | .sel d a b c => (0x0c : BitVec 6) ++ d ++ a ++ b ++ (0 : BitVec 2) ++ c
  | .adds d a b sh => (0x0d : BitVec 6) ++ d ++ a ++ b ++ (0 : BitVec 2) ++ sh
  | .ldb d a i => encI 0x10 d a i
  | .ldbu d a i => encI 0x11 d a i
  | .ldh d a i => encI 0x12 d a i
  | .ldhu d a i => encI 0x13 d a i
  | .ldw d a i => encI 0x14 d a i
  | .ldwu d a i => encI 0x15 d a i
  | .ldd d a i => encI 0x16 d a i
  | .stb d a i => encI 0x17 d a i
  | .sth d a i => encI 0x18 d a i
  | .stw d a i => encI 0x19 d a i
  | .std d a i => encI 0x1a d a i
  | .ldaq sz d a => encR 0x1b d a 0 (encSize sz)
  | .strl sz d a => encR 0x1c d a 0 (encSize sz)
  | .amo op dw o _ d a b => encR 0x20 d a b (encAmoF (encAmoOp op) dw o)
  | .cas dw o _ d a b => encR 0x21 d a b (encAmoF 0 dw o)
  | .fadd d a b => encR 0x28 d a b 0
  | .fsub d a b => encR 0x28 d a b 1
  | .fmul d a b => encR 0x28 d a b 2
  | .fmin d a b => encR 0x28 d a b 3
  | .fmax d a b => encR 0x28 d a b 4
  | .fcmplt d a b => encR 0x28 d a b 5
  | .fcmple d a b => encR 0x28 d a b 6
  | .fcmpeq d a b => encR 0x28 d a b 7
  | .fcvtif d a => encR 0x28 d a 0 8
  | .fcvtfi d a => encR 0x28 d a 0 9
  | .fdiv d a b => encR 0x28 d a b 10
  | .fsqrt d a => encR 0x28 d a 0 11
  | .fma d a b => encR 0x29 d a b 0
  | .vadd d a b l => encV 0x01 d a b l
  | .vsub d a b l => encV 0x02 d a b l
  | .vmul d a b l => encV 0x03 d a b l
  | .vfma d a b l => encV 0x04 d a b l
  | .vfms d a b l => encV 0x05 d a b l
  | .vmin d a b l => encV 0x06 d a b l
  | .vmax d a b l => encV 0x07 d a b l
  | .vabs d a l => encV 0x08 d a 0 l
  | .vneg d a l => encV 0x09 d a 0 l
  | .vcmp pd cc a b l => (0x0a : BitVec 6) ++ pd ++ encVCond cc ++ a ++ b ++ encLanes l
  | .vsel d a b l => encV 0x0b d a b l
  | .vswp d a l => encV 0x0c d a 0 l
  | .vlog3 d a b tt => encR 0x0d d a b tt
  | .vshl d a b l => encV 0x0e d a b l
  | .vshr d a b l => encV 0x0f d a b l
  | .vsra d a b l => encV 0x10 d a b l
  | .vcvt d a ty r l => encV 0x12 d a (ty ++ encRnd r) l
  | .vbcast d s l => encV 0x13 d s 0 l
  | .vget d a b => encR 0x14 d a b 0
  | .viota d l => encV 0x15 d 0 0 l
  | .vperm d a b l => encV 0x16 d a b l
  | .vred fn d a l => encV 0x17 d a (encRedFn fn) l
  | .vacr v acc row => (0x18 : BitVec 6) ++ v ++ acc ++ encRow row
  | .vacw v acc row => (0x19 : BitVec 6) ++ v ++ acc ++ encRow row
  | .plog pd pa pb tt => (0x1a : BitVec 6) ++ pd ++ pa ++ pb ++ tt ++ (0 : BitVec 13)
  | .pxfer pd ps => (0x1b : BitVec 6) ++ pd ++ ps ++ (0 : BitVec 19)
  | .vclass d a l => encV 0x1c d a 0 l
  | .vld v s off l => encVM 0x20 v s off l
  | .vst v s off l => encVM 0x21 v s off l
  | .vlds v s b l => encVX 0x22 v s b l
  | .vsts v s b l => encVX 0x23 v s b l
  | .vgath v s b l => encVX 0x24 v s b l
  | .vscat v s b l => encVX 0x25 v s b l
  | .xexp2 d a l => encV 0x08 d a 0 l
  | .xlog2 d a l => encV 0x09 d a 0 l
  | .xrcp d a l => encV 0x0a d a 0 l
  | .xrsqrt d a l => encV 0x0b d a 0 l
  | .xsqrt d a l => encV 0x0c d a 0 l
  | .xtanh d a l => encV 0x0d d a 0 l
  | .xsigm d a l => encV 0x0e d a 0 l
  | .trpush a l => encV 0x01 0 a 0 l
  | .trpop d l => encV 0x02 d 0 0 l
  | .trclr => encC 0x03 0 0 0
  | .mma m => (0x01 : BitVec 6) ++ encMma m
  | .mmaq m => (0x02 : BitVec 6) ++ encMma m
  | .mmal m => (0x03 : BitVec 6) ++ encMma m
  | .mxz acc => (0x04 : BitVec 6) ++ acc ++ (0 : BitVec 23)
  | .mxepi acc vs vz => (0x05 : BitVec 6) ++ acc ++ vs ++ vz ++ (0 : BitVec 11)
  | .mxcb cb a => (0x06 : BitVec 6) ++ cb ++ a ++ (0 : BitVec 18)
  | .mxrs d acc => (0x07 : BitVec 6) ++ d ++ acc ++ (0 : BitVec 17)
  | .mxst acc th ty r => (0x08 : BitVec 6) ++ acc ++ th ++ ty ++ encRnd r ++ (0 : BitVec 12)
  | .mxsa a => (0x09 : BitVec 6) ++ (0 : BitVec 2) ++ a ++ (0 : BitVec 18)
  | .tmap th a => encDT 0x01 th a 31
  | .tunmap th k => encDT 0x02 th 0 k
  | .tfill th k => encDT 0x03 th 0 k
  | .twb th k => encDT 0x04 th 0 k
  | .tinv th => encDT 0x05 th 0 31
  | .tsetf th f => encDT 0x07 th ((0 : BitVec 5) ++ BitVec.ofBool f) 31
  | .probe w a b => encDS 0x08 ((0 : BitVec 5) ++ BitVec.ofBool w) a b 31
  | .unprobe a b => encDS 0x09 0 a b 31
  | .cpylv l a b => encDS 0x0a (encLevel l) a b 31
  | .cpybs a b => encDS 0x0b 0 a b 31
  | .cpygo kp ka kb kc r =>
    (0x0c : BitVec 6) ++ kp ++ ka ++ kb ++ kc ++ encGoRing r ++ (0 : BitVec 2)
  | .cpycv d a b => encDS 0x0d d a b 31
  | .gath a b k r => encDS 0x0e (encGathRing r) a b k
  | .rbinit rb a b => encDR 0x10 rb a b
  | .rbwait rb => encDR 0x11 rb 0 0
  | .rbrel rb => encDR 0x12 rb 0 0
  | .sctld a => encDS 0x13 0 a 0 31
  | .enq port a k => encDS 0x14 port a 0 k
  | .deq port a => encDS 0x15 port a 0 31
  | .coll a k => encDS 0x16 0 a 0 k
  | .l2lock d a b => encDS 0x17 d a b 31
  | .l2unlk d a b => encDS 0x18 d a b 31
  | _ => 0

/-- The lent bits of an instruction's slot (R20). -/
def encodeLent : Instr → BitVec 2
  | .addi _ _ i | .andi _ _ i | .ori _ _ i | .xori _ _ i | .slti _ _ i | .sltiu _ _ i
  | .ldb _ _ i | .ldbu _ _ i | .ldh _ _ i | .ldhu _ _ i | .ldw _ _ i | .ldwu _ _ i | .ldd _ _ i
  | .stb _ _ i | .sth _ _ i | .stw _ _ i | .std _ _ i => i.extractLsb' 14 2
  | .lui _ i => i.extractLsb' 20 2
  | .vld _ _ _ l | .vst _ _ _ l | .vlds _ _ _ l | .vsts _ _ _ l | .vgath _ _ _ l
  | .vscat _ _ _ l => l.lg
  | .amo _ _ _ sys _ _ _ | .cas _ _ sys _ _ _ => (0 : BitVec 1) ++ BitVec.ofBool sys
  | _ => 0

/-- The header of a bundle whose one slot holds an instruction with these lent bits. -/
def headerOne (sl : Slot) (lent : BitVec 2) : Word :=
  (lent.setWidth 32 <<< (16 + 2 * sl.index)) ||| ((1 : Word) <<< sl.index)

/-! ### Words of the opcode table -/

/-- A word as its four bytes, little-endian. -/
def bytesOfWord (w : Word) : List Byte := [fld w 0 8, fld w 8 8, fld w 16 8, fld w 24 8]

/-- The slots in which a word of the opcode table, which names none, is tried. DESIGN CHOICE, log 12. -/
def tableSlots : List Slot := [.xu, .dm, .sa, .mx, .ctl, .va, .vb]

/-- The slot and instruction of a word that some slot decodes and finds well formed, or else of a
word that some slot decodes. DESIGN CHOICE, log 12. -/
def tableChoice (w : Word) : Option (Slot × Instr) :=
  match tableSlots.findSome? fun sl =>
      match decodeBytes 0 (bytesOfWord (headerOne sl 0) ++ bytesOfWord w) with
      | .ok (b, _) => b.slots.head?
      | .error _ => none with
  | some p => some p
  | none => tableSlots.findSome? fun sl => (decodeWord sl 0 w).map fun i => (sl, i)

/-- The instruction that the decoder reads from a word of the opcode table. A word whose bits 31:16
and 7:0 are zero is an empty bundle's header (R19); the table does not say which slot another word
stands in, and `tableSlots` are tried in turn. DESIGN CHOICE, log 12. -/
def decodeTableWord (nbits w : Nat) : Option Instr :=
  if nbits = 32 ∧ w < 2 ^ 32 then
    let x : Word := BitVec.ofNat 32 w
    if fld x 16 16 = 0 ∧ fld x 0 8 = 0 then
      (match decodeBytes 0 (bytesOfWord x) with
       | .ok (b, _) => some (emptyOf b.hdr)
       | .error _ => none)
    else (tableChoice x).map Prod.snd
  else none

end Sys2Proof
end

