-- ==== Sys2Proof/Config.lean ====
section
/-!
DEFINITION. What the spec leaves open, as constants without a body: free values, the choices an
implementation makes, and the cryptographic functions that the spec names and does not define.
Nothing can be proved about a value of any of them.
-/
namespace Sys2Proof.Config

open Sys2Proof

/-- Free choice number n: which of two allowed outcomes comes about (R55, R165, R169, R297).
DESIGN CHOICE, log 4. -/
opaque freeBit : Nat → Bool

/-- Free value number n: a field of a trap record for which the spec names no value (R91).
DESIGN CHOICE, log 4. -/
opaque freeDWord : Nat → DWord

/-- Free row number n of an accumulator whose contents are undefined after an uncorrectable error
(R200). DESIGN CHOICE, log 4, 81. -/
opaque freeRow : Nat → VWord

/-- What a line's L2 set in its slice is chosen by, from the partition and line number (R181 counts ways by set; the
spec does not say how a line chooses its set). DESIGN CHOICE, log 25. -/
opaque l2Set : Nat → Nat → Nat

/-- A save area's 64 bytes for a command in flight, from the fields of the command (R167, R220: the spec gives them no
layout). DESIGN CHOICE, log 27. -/
opaque journalEntry : List Nat → Nat

/-- A save area's 4,096 bytes for the replay buffer, from what the buffer holds (R90, R220: the spec gives them no
layout). DESIGN CHOICE, log 27. -/
opaque replayBuffer : List Nat → Nat

/-- SHA3-256 of a run of bytes (R213, R222). DESIGN CHOICE, log 24. -/
opaque sha3 : List Byte → Digest

/-- ML-DSA-44 verification: public key, message, signature (R213, R223, R229, R305). DESIGN CHOICE, log 24. -/
opaque mldsaVerify : List Byte → List Byte → List Byte → Bool

/-- ML-DSA-44 signature of a message with the device identity key (R236, R306). DESIGN CHOICE, log 24. -/
opaque mldsaSign : List Byte → List Byte

/-- SHA3-256 of the device identity public key (R236, R306). DESIGN CHOICE, log 24. -/
opaque deviceDigest : Digest

/-- Whether the security controller's firmware has verified with ML-DSA-44 (R313). DESIGN CHOICE, log 24, 101. -/
opaque firmwareVerified : Bool

/-- Whether the Gecko firmware has verified (R313). DESIGN CHOICE, log 24, 101. -/
opaque geckoVerified : Bool

/-- SHA3-256 of the security controller's and Gecko's firmware (R306). DESIGN CHOICE, log 24. -/
opaque firmwareDigest : Digest

/-- The public key of the time authority that the device policy names (R229). DESIGN CHOICE, log 24. -/
opaque timeKey : List Byte

/-- The public key of the device owner enrolled at provisioning (R305). DESIGN CHOICE, log 24. -/
opaque ownerKey : List Byte

/-- Whether a signer digest is a key that the policy of a partition admits for images (R215 check 2).
DESIGN CHOICE, log 24. -/
opaque signerAdmitted : Nat → Digest → Bool

/-- The public key with a given digest that a signer used (R215 check 2 names it by digest).
DESIGN CHOICE, log 24. -/
opaque signerKey : Digest → List Byte

/-- The number of the key-release key that a key capsule of 1,152 bytes was built for (R307).
DESIGN CHOICE, log 24, 98. -/
opaque capsuleKey : List Byte → Nat

/-- Opening a key capsule of 1,152 bytes with a key-release key by its number: the key, or none (R227, R303, R307).
DESIGN CHOICE, log 24, 98. -/
opaque openCapsule : Nat → List Byte → Option (BitVec 256)

/-- The public half of a key-release key by its number, 1,184 bytes (R306, R307). DESIGN CHOICE, log 24, 98. -/
opaque releaseKey : Nat → List Byte

/-- AES-256-XTS encryption of a 128-byte line under a partition's data key by its number, by physical address
(R302). DESIGN CHOICE, log 24, 98. -/
opaque xtsSeal : Nat → Nat → List Byte → List Byte

/-- AES-256-XTS decryption of a 128-byte line under a partition's data key by its number, by physical address
(R302). DESIGN CHOICE, log 24, 98. -/
opaque xtsUnseal : Nat → Nat → List Byte → List Byte

/-- Decryption of one 128-byte line of a sealed tensor under a content key, by its line offset
(R227). DESIGN CHOICE, log 24. -/
opaque xtsOpen : BitVec 256 → Nat → List Byte → List Byte

/-- Whether the tag of a page of an image's text authenticates under a text key: page number,
page bytes, the whole image (R213, R215 check 4). DESIGN CHOICE, log 24. -/
opaque pageTagOk : BitVec 256 → Nat → List Byte → List Byte → Bool

/-- Opening a run of an image's text or data under its text key, by its offset in the image (R302).
DESIGN CHOICE, log 24. -/
opaque textOpen : BitVec 256 → Nat → List Byte → List Byte

/-- The sealed copy of a log record, 80 bytes: number of the log key, sequence, record (R304).
DESIGN CHOICE, log 24, 98. -/
opaque sealLog : Nat → Nat → List Byte → List Byte

/-- The ML-KEM-768 ciphertext, to the log public key of a digest, of a log key by its number, 1,088 bytes (R304).
DESIGN CHOICE, log 24, 98. -/
opaque logHeader : Digest → Nat → List Byte

/-- The ciphertext of an evicted page of a protected partition with its tag: number of the data key, page
address, version, bytes (R308). DESIGN CHOICE, log 24. -/
opaque sealPage : Nat → Nat → DWord → List Byte → List Byte

/-- The check of a returned page: number of the data key, page address, version, bytes; the plaintext, or none
(R308). DESIGN CHOICE, log 24. -/
opaque openPage : Nat → Nat → DWord → List Byte → Option (List Byte)

end Sys2Proof.Config
end

