-- ==== Sys2Proof/Machine/Store.lean ====
section
/-!
DEFINITION. The sparse store: reading, writing a run of values, and its canonical form. Memory and
every numbered collection of the state are held in it.
-/
namespace Sys2Proof

/-- The value under key `k`; `d` is what an unlisted key reads as. -/
def Store.get {α : Type} (d : α) : Store α → Nat → α
  | [], _ => d
  | (k', v) :: t, k => if k = k' then v else Store.get d t k

/-- The entries of a run of values from key `k`, less those that read as `d` anyway. -/
def Store.run {α : Type} [DecidableEq α] (d : α) : Nat → List α → Store α
  | _, [] => []
  | k, v :: t => if v = d then Store.run d (k + 1) t else (k, v) :: Store.run d (k + 1) t

/-- Keys below `k`. -/
def Store.below {α : Type} (m : Store α) (k : Nat) : Store α := m.filter fun e => decide (e.1 < k)

/-- Keys from `k` on. -/
def Store.above {α : Type} (m : Store α) (k : Nat) : Store α := m.filter fun e => decide (k ≤ e.1)

/-- Write a run of values from key `k` on. -/
def Store.put {α : Type} [DecidableEq α] (d : α) (m : Store α) (k : Nat) (l : List α) : Store α :=
  m.below k ++ (Store.run d k l ++ m.above (k + l.length))

/-- Write one value. -/
def Store.set {α : Type} [DecidableEq α] (d : α) (m : Store α) (k : Nat) (v : α) : Store α :=
  m.put d k [v]

/-- `n` values from key `k` on. -/
def Store.list {α : Type} (d : α) (m : Store α) (k : Nat) : Nat → List α
  | 0 => []
  | n + 1 => m.get d k :: Store.list d m (k + 1) n

/-- The entries with keys from `k` to `k + n - 1`, moved to start at key `j`. -/
def Store.cut {α : Type} (m : Store α) (k n j : Nat) : Store α :=
  ((m.above k).below (k + n)).map fun e => (e.1 - k + j, e.2)

/-- Replace the `n` keys from `j` on by the entries of `src` from `k` on. -/
def Store.blit {α : Type} (m src : Store α) (k n j : Nat) : Store α :=
  m.below j ++ (src.cut k n j ++ m.above (j + n))

/-- Keys rise strictly and no entry holds the value an unlisted key reads as. -/
def Store.wf {α : Type} [DecidableEq α] (d : α) (m : Store α) : Bool :=
  decide (m.Pairwise fun a b => a.1 < b.1) && m.all fun e => decide (e.2 ≠ d)

end Sys2Proof
end

