-- ==== Sys2Proof/Machine/Fp.lean ====
section
/-!
DEFINITION. Number formats and rounding (R57 to R65): type codes, exact values, `round_to`,
arithmetic on exact values, conversions to and from integers.
-/
namespace Sys2Proof

/-- The floating-point types (R60). -/
inductive FTy where
  | fp32 | bf16 | fp16 | e4m3 | e5m2
  deriving DecidableEq, Repr

/-- The element types of R57. DEDUCED, log 85. -/
inductive ETy where
  | int (bits : Nat) (signed : Bool)
  | flt (t : FTy)
  | lut4
  deriving DecidableEq, Repr

/-- Rounding modes (R63). -/
inductive Rnd where
  | rne | rtz | rdn | rup
  deriving DecidableEq, Repr

/-- The type of a type code; none for the reserved codes (R57). -/
def etyOf (code : Nat) : Option ETy :=
  match code with
  | 0 => some (.int 32 true)
  | 1 => some (.int 16 true)
  | 2 => some (.int 8 true)
  | 3 => some (.int 4 true)
  | 4 => some (.int 8 false)
  | 5 => some (.flt .fp32)
  | 6 => some (.flt .bf16)
  | 7 => some (.flt .fp16)
  | 8 => some (.flt .e4m3)
  | 9 => some (.flt .e5m2)
  | 10 => some .lut4
  | _ => none

/-- The type of a code in a position that admits vector types (R57, columns vt, VCVT, MXST). DEDUCED, log 85. -/
def vtyOf (code : Nat) : Option ETy :=
  if code = 3 ∨ code = 10 then none else etyOf code

def FTy.fbits : FTy → Nat
  | .fp32 => 23 | .bf16 => 7 | .fp16 => 10 | .e4m3 => 3 | .e5m2 => 2

def FTy.ebits : FTy → Nat
  | .fp32 => 8 | .bf16 => 8 | .fp16 => 5 | .e4m3 => 4 | .e5m2 => 5

def FTy.bias : FTy → Nat
  | .fp32 => 127 | .bf16 => 127 | .fp16 => 15 | .e4m3 => 7 | .e5m2 => 15

/-- Bits of an element. -/
def FTy.bits (t : FTy) : Nat := 1 + t.ebits + t.fbits

def ETy.bits : ETy → Nat
  | .int b _ => b
  | .flt t => t.bits
  | .lut4 => 4

/-- Largest finite value, as the bits below the sign (R61). -/
def FTy.maxBits : FTy → Nat
  | .fp32 => 0x7f7fffff | .bf16 => 0x7f7f | .fp16 => 0x7bff | .e4m3 => 0x7e | .e5m2 => 0x7b

/-- Default NaN (R61). -/
def FTy.dnan : FTy → Nat
  | .fp32 => 0x7fc00000 | .bf16 => 0x7fc0 | .fp16 => 0x7e00 | .e4m3 => 0x7f | .e5m2 => 0x7e

/-- Infinity, as the bits below the sign; E4M3 has none (R60). -/
def FTy.infBits : FTy → Nat
  | .fp32 => 0x7f800000 | .bf16 => 0x7f80 | .fp16 => 0x7c00 | .e4m3 => 0x7f | .e5m2 => 0x7c

def FTy.signBit (t : FTy) : Nat := 2 ^ (t.bits - 1)

/-- An exact value: NaN, an infinity, or (-1)^neg * m * 2^e. -/
inductive Ext where
  | nan
  | inf (neg : Bool)
  | fin (neg : Bool) (m : Nat) (e : Int)
  deriving DecidableEq, Repr

def Ext.zero (neg : Bool) : Ext := .fin neg 0 0

/-- The value of an encoding (R60). -/
def FTy.decode (t : FTy) (x : Nat) : Ext :=
  let f := x % 2 ^ t.fbits
  let e := x / 2 ^ t.fbits % 2 ^ t.ebits
  let neg := decide (x / 2 ^ (t.bits - 1) % 2 = 1)
  let mag := x % 2 ^ (t.bits - 1)
  let lsb : Int := 1 - (t.bias : Int) - (t.fbits : Int)
  if t = .e4m3 ∧ mag = 0x7f then .nan
  else if t ≠ .e4m3 ∧ e = 2 ^ t.ebits - 1 then (if f = 0 then .inf neg else .nan)
  else if e = 0 then .fin neg f (if f = 0 then 0 else lsb)
  else .fin neg (2 ^ t.fbits + f) (lsb + (e : Int) - 1)

/-- Whether a magnitude with remainder `rem` of `2^sh` is rounded away from zero. -/
def roundsUp (mode : Rnd) (neg : Bool) (n rem sh : Nat) : Bool :=
  match mode with
  | .rne => decide (2 * rem > 2 ^ sh) || (decide (2 * rem = 2 ^ sh) && decide (n % 2 = 1))
  | .rtz => false
  | .rdn => neg && decide (rem ≠ 0)
  | .rup => !neg && decide (rem ≠ 0)

/-- `m * 2^e` rounded to a multiple of `2^q`, in units of `2^q`. -/
def roundUnits (mode : Rnd) (neg : Bool) (m : Nat) (e q : Int) : Nat :=
  if q ≤ e then m * 2 ^ (e - q).toNat
  else
    let sh := (q - e).toNat
    let n := m / 2 ^ sh
    if roundsUp mode neg n (m % 2 ^ sh) sh then n + 1 else n

/-- A result above the largest finite value (R64). -/
def FTy.overflow (t : FTy) (mode : Rnd) (sat neg : Bool) : Nat :=
  let sg := if neg then t.signBit else 0
  if sat then sg + t.maxBits
  else if t = .e4m3 then t.dnan
  else if mode = .rtz ∨ (mode = .rdn ∧ neg = false) ∨ (mode = .rup ∧ neg = true) then sg + t.maxBits
  else sg + t.infBits

/-- `round_to(T, x, mode, sat)` of R64; `sat` has no effect on FP32. -/
def FTy.round (t : FTy) (mode : Rnd) (sat0 : Bool) (x : Ext) : Nat :=
  let sat := sat0 && decide (t ≠ .fp32)
  match x with
  | .nan => t.dnan
  | .inf neg =>
    let sg := if neg then t.signBit else 0
    if t = .e4m3 then (if sat then sg + t.maxBits else t.dnan) else sg + t.infBits
  | .fin neg m e =>
    let sg := if neg then t.signBit else 0
    if m = 0 then sg
    else
      let lsb : Int := 1 - (t.bias : Int) - (t.fbits : Int)
      let q : Int := max ((Nat.log2 m : Int) + e - (t.fbits : Int)) lsb
      let y := (q - lsb).toNat * 2 ^ t.fbits + roundUnits mode neg m e q
      if y > t.maxBits then t.overflow mode sat neg else sg + y

/-! ### Exact arithmetic -/

def Ext.neg : Ext → Ext
  | .nan => .nan
  | .inf s => .inf (!s)
  | .fin s m e => .fin (!s) m e

def Ext.abs : Ext → Ext
  | .nan => .nan
  | .inf _ => .inf false
  | .fin _ m e => .fin false m e

def Ext.isNaN : Ext → Bool
  | .nan => true
  | _ => false

/-- The signed integer `± m` at exponent `e - lo`. -/
def scaled (neg : Bool) (m : Nat) (e lo : Int) : Int :=
  let n : Int := m * 2 ^ (e - lo).toNat
  if neg then -n else n

/-- The exact sum; an exact zero sum follows R62. -/
def Ext.add (mode : Rnd) (x y : Ext) : Ext :=
  match x, y with
  | .nan, _ => .nan
  | _, .nan => .nan
  | .inf a, .inf b => if a = b then .inf a else .nan
  | .inf a, .fin _ _ _ => .inf a
  | .fin _ _ _, .inf b => .inf b
  | .fin sa ma ea, .fin sb mb eb =>
    let lo := min ea eb
    let z := scaled sa ma ea lo + scaled sb mb eb lo
    if z = 0 then
      (if ma = 0 ∧ mb = 0 ∧ sa = sb then .zero sa else .zero (decide (mode = .rdn)))
    else .fin (decide (z < 0)) z.natAbs lo

/-- The exact product (R62, R69). -/
def Ext.mul (x y : Ext) : Ext :=
  match x, y with
  | .nan, _ => .nan
  | _, .nan => .nan
  | .inf a, .inf b => .inf (xor a b)
  | .inf a, .fin b m _ => if m = 0 then .nan else .inf (xor a b)
  | .fin a m _, .inf b => if m = 0 then .nan else .inf (xor a b)
  | .fin a m e, .fin b n f => .fin (xor a b) (m * n) (e + f)

/-- A quotient or root is held to 2^-200 with the inexact remainder folded into the last bit; every
format's results lie far above it, so rounding it rounds the exact value. -/
def fracBits : Nat := 200

def stick (q : Nat) (exact : Bool) : Nat := 2 * q + (if exact then 0 else 1)

/-- The exact quotient (R62, R126). -/
def Ext.div (x y : Ext) : Ext :=
  match x, y with
  | .nan, _ => .nan
  | _, .nan => .nan
  | .inf _, .inf _ => .nan
  | .inf a, .fin b _ _ => .inf (xor a b)
  | .fin a _ _, .inf b => .zero (xor a b)
  | .fin a m e, .fin b n f =>
    if n = 0 then (if m = 0 then .nan else .inf (xor a b))
    else if m = 0 then .zero (xor a b)
    else
      -- both operands brought to integers over one power of two
      let lo := min e f
      let u := m * 2 ^ ((e - lo).toNat + fracBits)
      let v := n * 2 ^ (f - lo).toNat
      .fin (xor a b) (stick (u / v) (decide (u % v = 0))) (-(fracBits : Int) - 1)

/-- Integer square root by digits; `fuel` counts the result's bits. -/
def isqrtGo : Nat → Nat → Nat → Nat
  | 0, _, r => r
  | k + 1, n, r =>
    let r' := r + 2 ^ k
    isqrtGo k n (if r' * r' ≤ n then r' else r)

def isqrt (n : Nat) : Nat := isqrtGo (Nat.log2 n / 2 + 1) n 0

/-- The exact square root (R126, R184). -/
def Ext.sqrt (x : Ext) : Ext :=
  match x with
  | .nan => .nan
  | .inf neg => if neg then .nan else .inf false
  | .fin neg m e =>
    if m = 0 then .zero neg
    else if neg then .nan
    else
      -- m * 2^e = u * 2^(-2 * fracBits)
      let u := if 0 ≤ e then m * 2 ^ (e.toNat + 2 * fracBits)
               else m * 2 ^ (2 * fracBits - (-e).toNat)
      let r := isqrt u
      .fin false (stick r (decide (r * r = u))) (-(fracBits : Int) - 1)

/-- Order of two numbers; none when either is NaN. -/
def Ext.lt (x y : Ext) : Option Bool :=
  match x, y with
  | .nan, _ => none
  | _, .nan => none
  | .inf a, .inf b => some (a && !b)
  | .inf a, .fin _ _ _ => some a
  | .fin _ _ _, .inf b => some (!b)
  | .fin sa ma ea, .fin sb mb eb =>
    let lo := min ea eb
    some (decide (scaled sa ma ea lo < scaled sb mb eb lo))

def Ext.eq (x y : Ext) : Bool :=
  match Ext.lt x y, Ext.lt y x with
  | some false, some false => true
  | _, _ => false

/-- An exact value rounded to an integer (R65); NaN gives 0, an infinity the extreme. -/
def Ext.toInt (mode : Rnd) (lo hi : Int) (x : Ext) : Int :=
  match x with
  | .nan => 0
  | .inf neg => if neg then lo else hi
  | .fin neg m e =>
    let n : Int := roundUnits mode neg m e 0
    max lo (min hi (if neg then -n else n))

/-- An integer as an exact value. -/
def Ext.ofInt (z : Int) : Ext := .fin (decide (z < 0)) z.natAbs 0

/-- Lesser of two encodings of type t (R126): -0 below +0, a NaN gives the other operand. DEDUCED, log 85. -/
def FTy.min (t : FTy) (a b : Nat) : Nat :=
  let x := t.decode a
  let y := t.decode b
  match Ext.lt x y, Ext.lt y x with
  | some true, _ => a
  | _, some true => b
  | some false, some false => if a / t.signBit % 2 = 1 then a else b
  | _, _ => if x.isNaN then (if y.isNaN then t.dnan else b) else a

/-- Greater of two encodings of type t (R126). DEDUCED, log 85. -/
def FTy.max (t : FTy) (a b : Nat) : Nat :=
  let x := t.decode a
  let y := t.decode b
  match Ext.lt x y, Ext.lt y x with
  | some true, _ => b
  | _, some true => a
  | some false, some false => if a / t.signBit % 2 = 1 then b else a
  | _, _ => if x.isNaN then (if y.isNaN then t.dnan else b) else a

/-! ### Integers of a width -/

/-- Two's-complement value of the low `b` bits. -/
def sval (b x : Nat) : Int :=
  let y := x % 2 ^ b
  if 2 * y < 2 ^ b then (y : Int) else (y : Int) - 2 ^ b

/-- The low `b` bits of an integer's two's complement. -/
def wrap (b : Nat) (z : Int) : Nat := (z % (2 ^ b : Int)).toNat

/-- Value of an integer element. -/
def ival (b : Nat) (signed : Bool) (x : Nat) : Int := if signed then sval b x else (x % 2 ^ b : Nat)

def imin (b : Nat) (signed : Bool) : Int := if signed then -(2 ^ (b - 1) : Int) else 0
def imax (b : Nat) (signed : Bool) : Int := if signed then 2 ^ (b - 1) - 1 else 2 ^ b - 1

/-- Integer to integer conversion (R65): kept where it fits, else clamped or truncated by `sat`. -/
def narrow (b : Nat) (signed : Bool) (sat : Bool) (z : Int) : Nat :=
  if sat then wrap b (Max.max (imin b signed) (Min.min (imax b signed) z)) else wrap b z

/-- Conversion of one element (R64, R65, R141). DEDUCED, log 85. -/
def convert (src dst : ETy) (mode : Rnd) (sat : Bool) (x : Nat) : Nat :=
  match src, dst with
  | .int b s, .int b' s' => narrow b' s' sat (ival b s x)
  | .int b s, .flt t => t.round mode sat (Ext.ofInt (ival b s x))
  | .flt t, .int b s => wrap b ((t.decode x).toInt mode (imin b s) (imax b s))
  | .flt t, .flt t' => t'.round mode sat (t.decode x)
  | _, _ => 0

/-- `round32` (R64). -/
def round32 (x : Ext) : Nat := FTy.fp32.round .rne false x

def f32 (x : Nat) : Ext := FTy.fp32.decode x

end Sys2Proof
end

