-- ==== Sys2Proof/Machine/Flags.lean ====
section
/-!
DEFINITION. The format register `fmt` (R66): its fields and what a write to it keeps. The device has
no other flags: R62 keeps no exception flags.
-/
namespace Sys2Proof.Machine

open Sys2Proof

/-- Bits that `fmt` holds: 19:0 but bit 7 (R66). -/
def fmtMask : Word := 0x000fff7f

/-- What a write of 20 bits leaves in `fmt` (R66, R103). -/
def fmtWrite (x : BitVec 20) : Word := x.setWidth 32 &&& fmtMask

def fmtVt (f : Word) : Nat := (f.extractLsb' 0 4).toNat
def fmtRm (f : Word) : Rnd :=
  match (f.extractLsb' 4 2).toNat with
  | 0 => .rne | 1 => .rtz | 2 => .rdn | _ => .rup
def fmtSat (f : Word) : Bool := f.getLsbD 6
def fmtMxa (f : Word) : Nat := (f.extractLsb' 8 4).toNat
def fmtMxb (f : Word) : Nat := (f.extractLsb' 12 4).toNat
def fmtBs (f : Word) : Bool := f.getLsbD 16
def fmtZq (f : Word) : Bool := f.getLsbD 17
def fmtCbf (f : Word) : Nat := (f.extractLsb' 18 2).toNat

/-- The rounding that a 2-bit rounding field directs (R63). -/
def rndOf (f : Word) : RndSel → Rnd
  | .fmt => fmtRm f
  | .rne => .rne
  | .rtz => .rtz

end Sys2Proof.Machine
end

