-- ==== Sys2Proof/Machine/State.lean ====
section
/-!
DEFINITION. The state of the Roard Z48 as plain data: everything spec/ names, and the few fields
of the model's own that INVENTORY.md lists as such.
-/
namespace Sys2Proof.Machine

open Sys2Proof

/-- Trap causes, R92. Every one of them is taken by a next state: the context freezes and a trap
record goes to Gecko (R89). -/
inductive Cause where
  | illegalOpcode | illegalOperand | illegalFormat | illegalGroup | schedule | bankConflict
  | align | lateMiss | fillFault | protection | termsDenied | termsExhausted | termsExpired
  | useSpan | useState | frontierUnderflow | integrity | eccUncorrected | softwareTrap
  | frontierOrder | hostGone | linkFailed
  deriving DecidableEq, Repr

/-- Why a step stops. No instruction or event of the spec stops the model: every trap of R92 is a
next state. -/
inductive Fault where
  /-- Raised by `step` alone, when the device has lost its power (R236) and no power-up is to come:
  nothing acts any more. Safe. -/
  | noPower
  deriving DecidableEq, Repr

/-- Why an instruction has no meaning in the model. -/
inductive Refusal where
  /-- Raised by a refused arm of `exec`: the instruction is not modelled yet. Safe. -/
  | notModelled (mnemonic : String)
  deriving DecidableEq, Repr

/-! ### A context -/

/-- One active loop level (R77, R78): counter, bound, address of the end bundle, address of the
first bundle of the body. -/
structure LoopLevel where
  lc : BitVec 16
  lb : BitVec 16
  endA : DWord
  body : DWord
  deriving DecidableEq, Repr

/-- State of a use binding (R230). -/
inductive BindSt where
  | free | reserved | committed
  deriving DecidableEq, Repr

/-- A use binding (R230). -/
structure Binding where
  st : BindSt
  handle : BitVec 12
  serial : BitVec 32
  ctime : DWord
  deriving DecidableEq, Repr

def Binding.none : Binding := ⟨.free, 0, 0, 0⟩

/-- A held capability (R250). -/
structure Cap where
  port : BitVec 6
  iport : BitVec 6
  depth : Nat
  t : LTime
  deriving DecidableEq, Repr

/-- Tile states (R160). -/
inductive TileSt where
  | empty | filling | full | dirty | faulted
  deriving DecidableEq, Repr

/-- Who keeps a tile busy (R159). -/
inductive BusyBy where
  | fill | wb | copy | mx | mxst
  deriving DecidableEq, Repr

/-- A mapped tile: its descriptor (R156), state, busy marks and contents. `pend` is the whole-tile write of an MXST
that has not ended (R206), `poison` the lines that hold poison (R312). `ro` holds the 128-byte lines that the fill
found read-only, `phys` one more than the number in memory of each line that the fill recorded (R158), 0 for none;
`bad` is the address at which the last fill failed (R165). -/
structure Tile where
  gva : DWord
  rstride : Word
  ty : BitVec 4
  unit : BitVec 8
  bankY : Bool
  scr : Bool
  sealed : Bool
  bv : Bool
  ub : BitVec 3
  st : TileSt
  busy : List BusyBy
  data : Store Byte
  pend : Store Byte
  poison : List Nat
  ro : List Nat
  phys : Store Nat
  bad : DWord
  deriving DecidableEq, Repr

/-- A ring of scratch tiles (R161). -/
structure Ring where
  members : List Nat
  rd : Nat
  wr : Nat
  deriving DecidableEq, Repr

/-- One level of the copy staging (R169). -/
structure CpLevel where
  cnt : BitVec 16
  ss : BitVec 32
  ds : BitVec 32
  deriving DecidableEq, Repr

/-- Convolution geometry (R172). -/
structure ConvGeom where
  x0 : BitVec 16
  y0 : BitVec 16
  n0 : BitVec 16
  w : BitVec 16
  h : BitVec 16
  n : BitVec 16
  pad : Byte
  pitch : DWord
  deriving DecidableEq, Repr

/-- Copy staging (R169). -/
structure Staging where
  c0 : Nat
  l1 : CpLevel
  l2 : CpLevel
  l3 : CpLevel
  l4 : CpLevel
  l5 : CpLevel
  sbase : DWord
  dbase : DWord
  conv : Option ConvGeom
  deriving DecidableEq, Repr

def CpLevel.one : CpLevel := ⟨1, 0, 0⟩

/-- The staging at dispatch (R169). -/
def Staging.init : Staging := ⟨0, .one, .one, .one, .one, .one, 0, 0, none⟩

/-- A probed range (R163, R176). -/
structure Probe where
  start : DWord
  len : Nat
  write : Bool
  deriving DecidableEq, Repr

/-- The transposer (R186). `bits` is the element size of the block being pushed; `xfer` holds the
complete block with the bundles left until it is ready. -/
structure Transposer where
  fill : List (BitVec 1024)
  bits : Nat
  xfer : Option (List (BitVec 1024) × Nat × Nat)
  pop : Option (List (BitVec 1024) × Nat)
  popped : Nat
  deriving DecidableEq, Repr

def Transposer.empty : Transposer := ⟨[], 0, none, none, 0⟩

/-- A special-function result in flight (R88, R185): destination, mask of the bits it writes,
the bits, the bundles left until it is written, and whether it has reached the latch. -/
structure SfRes where
  id : Nat
  vd : BitVec 6
  mask : VWord
  val : VWord
  left : Nat
  latched : Bool
  deriving DecidableEq, Repr

/-- A register of R25. -/
inductive RegId where
  | s (n : BitVec 6)
  | v (n : BitVec 6)
  | p (n : BitVec 4)
  | fmt
  deriving DecidableEq, Repr

/-- A result that has not landed (R128, R151). -/
structure Pending where
  id : Nat
  reg : RegId
  deriving DecidableEq, Repr

/-- Kinds of synchronous access (R46). -/
inductive AccKind where
  | load | store | atomic
  deriving DecidableEq, Repr

/-- An access that has not completed (R40, R47): whether it is remote (R39), and the completion points
of R40 that it has passed: 1 accepted by the L1 or the stash, 2 acknowledged by its home; at 3, every host
copy invalidated, it is listed no longer. Later accesses wait while `stage` is below `order` (R45, R122,
R128); an access of order 0 holds none back. DESIGN CHOICE, log 6, 88. -/
structure Access where
  id : Nat
  kind : AccKind
  remote : Bool
  order : Nat
  stage : Nat
  deriving DecidableEq, Repr

/-- A fence still in force: its scope, its kind, and the earlier accesses it waits for (R106). -/
structure FenceHold where
  scope : Scope
  kind : FenceKind
  ids : List Nat
  deriving DecidableEq, Repr

/-- A drain still in force: its scope and the accesses it waits for (R47, R106). -/
structure DrainHold where
  scope : Scope
  ids : List Nat
  deriving DecidableEq, Repr

/-- A fault raised by one slot of a bundle (R89, R91). Operand and detail are none where the spec
names no value for them. DESIGN CHOICE, log 31. -/
structure SlotFault where
  slot : Nat
  cause : Cause
  operand : Option DWord
  detail : Option DWord
  terms : Word
  deriving DecidableEq, Repr

/-- The operands a bundle has read (R26, R90): the register files and accumulators as they stood
before any of its slots wrote, with the accumulator rows that had an error (R200), and the `fmt` in force (R67). -/
structure Latch where
  s : Store DWord
  v : Store VWord
  p : Store PWord
  acc : Store VWord
  rs : Store VWord
  bad : List Nat
  regBad : List RegId
  fmt : Word
  deriving DecidableEq, Repr

/-- What a bundle that cannot issue yet sets going all the same. -/
inductive Later where
  /-- touch of an EMPTY backed tile: its fill starts (R160) -/
  | startFill (owner th : Nat)
  /-- an increment to Chorus (R252) -/
  | increment (slot : Slot) (port : BitVec 6) (t : LTime) (hold : Bool)
  /-- a question to the terms unit (R231, R233, R204) -/
  | askTerms (slot : Slot) (ub : BitVec 3) (kind : Nat) (handle : BitVec 12)
  /-- a page request of a PROBE (R162) -/
  | pageRequest (vpage : Nat)
  deriving DecidableEq, Repr

/-- What the MX instruction of a bundle holds from its issue (R197, R199): its occupancy, the
accumulator, and the tiles as (context, handle). -/
structure MxHold where
  cycles : Nat
  acc : Option Nat
  tiles : List (Nat × Nat)
  store : Option (Nat × Nat)
  deriving DecidableEq, Repr

/-- The bundle being issued; when the context is frozen, the replay buffer (R90). `done` holds
the done masks of R150, `aliases` the ring aliases resolved at issue (R161), `cmd` the command that the
DM slot has issued (R48, R104). `block` and `stall` say what kept the bundle from issuing in this attempt;
`target`, `yield`, `fence` and `drain` come into force as the bundle ends (R96, R106, R107).
DESIGN CHOICE, log 1. -/
structure Issue where
  addr : DWord
  hdr : Word
  slots : List (Slot × Instr)
  time : LTime
  performed : BitVec 8
  done : Store (BitVec 512)
  aliases : Store Nat
  latch : Latch
  faults : List SlotFault
  target : Option DWord
  block : Bool
  stall : Bool
  later : List Later
  yield : Bool
  fence : Option (Scope × FenceKind)
  drain : Option Scope
  cmd : Option Nat
  hold : Option MxHold
  replay : Bool
  deriving DecidableEq, Repr

def Latch.empty : Latch := ⟨[], [], [], [], [], [], [], 0⟩

def Issue.empty : Issue :=
  ⟨0, 0, [], .zero, 0, [], [], .empty, [], none, false, false, [], false, none, none, none, none, false⟩

/-- An increment that a CAPHOLD, CAPADV or ENQ has sent to Chorus (R252). -/
inductive IncSt where
  | sent | counted | refused | acked | ackedRefused
  deriving DecidableEq, Repr

/-- The increment in flight of one slot; the numbers stand in the order of sending. -/
structure Inc where
  id : Nat
  slot : Slot
  port : BitVec 6
  t : LTime
  hold : Bool
  st : IncSt
  deriving DecidableEq, Repr

/-- A question to the terms unit (R231, R233, R204) and its answer. `kind`: 0 USEOPEN, 1 USEQ,
2 first beat on a sealed tile. `answer`: none while the unit has not answered; `check` is the
failing check of R231, or for a beat 1 USE_STATE, 2 TERMS_EXPIRED, 3 USE_SPAN; 0 when it passes. -/
structure Ask where
  slot : Slot
  ub : BitVec 3
  kind : Nat
  handle : BitVec 12
  answered : Bool
  check : Nat
  unsync : Bool
  serial : BitVec 32
  value : DWord
  deriving DecidableEq, Repr

/-- A trap record (R91), as fields. -/
structure TrapRec where
  addr : DWord
  cause : Cause
  slot : BitVec 8
  performed : BitVec 8
  ctx : BitVec 8
  flags : Word
  operand : DWord
  time : LTime
  terms : Word
  owner : Word
  detail : DWord
  latched : BitVec 8
  fshadow : BitVec 8
  deriving DecidableEq, Repr

/-- Why a context is to stop with a save (R83): a resize moves it or parks its gang (R275, R278), the dispatcher
pre-empts it, Gecko saves it. -/
inductive StopKind where
  | move | park | preempt | gecko
  deriving DecidableEq, Repr

/-- A stop asked for (R83): its reasons, the save-area address of a SAVE that Gecko waits for (R212), the cycle in
which it was asked for, and whether a further victim has been taken because it has not come about (R219). -/
structure StopReq where
  kinds : List StopKind
  area : Option DWord
  since : Nat
  further : Bool
  deriving DecidableEq, Repr

/-- A safe-point entry (R84). -/
structure SafeEntry where
  smask : DWord
  vmask : DWord
  pmask : BitVec 16
  amask : BitVec 8
  deriving DecidableEq, Repr

/-- A context of a core (R10) with what its launch record and claims gave it. `pins` holds the pages that a PROBE
which then faulted had resolved (R164), `stallTo` the cycle from which its next bundle may issue (R322). `ending`
is that of a context which EXIT or a kill has ended and whose write-backs are under way: the cycle from which they have
performed, and the status word to come (R109, R234). `accBad` holds the accumulator rows (`aN` row i at N · 128 + i)
that have an uncorrectable error (R200), `regBad` the registers that have one (R311). `tiles` holds the handles 0 to
23 and, from key 32 on, the tiles that TUNMAP commands still hold: key 32 + the number of the command
(R175). -/
structure Ctx where
  occupied : Bool
  part : Nat
  image : Nat
  kernel : Nat
  vcluster : BitVec 6
  vcore : BitVec 3
  pri : BitVec 4
  pc : DWord
  lc0 : BitVec 32
  loops : List LoopLevel
  rt : LTime
  s : Store DWord
  v : Store VWord
  p : Store PWord
  acc : Store VWord
  rs : Store VWord
  accBad : List Nat
  regBad : List RegId
  accBusy : List Nat
  accN : Nat
  ubN : Nat
  portN : Nat
  unitX : Nat × Nat
  unitY : Nat × Nat
  quota : Nat
  locked : Nat
  ports : Store Nat
  fmt : Word
  fmtPend : List (Nat × Word)
  tiles : Store (Option Tile)
  rings : Store (Option Ring)
  linkFail : BitVec 31
  ub : Store Binding
  caps : List Cap
  staging : Staging
  probes : List Probe
  pins : List Nat
  tr : Transposer
  sf : List SfRes
  iss : Issue
  frozen : Bool
  trap : Option TrapRec
  groupLen : Nat
  groupR : List RegId
  groupW : List RegId
  score : List Pending
  outst : List Access
  fences : List FenceHold
  drain : List DrainHold
  incs : List Inc
  asks : List Ask
  mxUntil : Nat
  stallTo : Nat
  safe : Option SafeEntry
  afterSafe : Bool
  blocked : Bool
  stopReq : Option StopReq
  ending : Option (Nat × Nat)
  gang : Nat
  donePort : Nat
  statusAddr : DWord
  dispatched : Nat
  identity : Nat
  deriving DecidableEq, Repr

/-- A free context slot: every SRAM is zero after reset (R309), `fmt` has the reset value of R66.
DEDUCED, log 11. -/
def Ctx.free : Ctx :=
  { occupied := false, part := 0, image := 0, kernel := 0, vcluster := 0, vcore := 0, pri := 0,
    pc := 0, lc0 := 0, loops := [], rt := .zero, s := [], v := [], p := [], acc := [], rs := [],
    accBad := [], regBad := [], accBusy := [], accN := 0, ubN := 0, portN := 0, unitX := (0, 0), unitY := (0, 0),
    quota := 0, locked := 0, ports := [], fmt := 5, fmtPend := [], tiles := [], rings := [],
    linkFail := 0, ub := [], caps := [], staging := .init, probes := [], pins := [], tr := .empty, sf := [],
    iss := .empty, frozen := false, trap := none, groupLen := 0, groupR := [], groupW := [],
    score := [], outst := [], fences := [], drain := [], incs := [], asks := [], mxUntil := 0, stallTo := 0,
    safe := none, afterSafe := false, blocked := false, stopReq := none, ending := none, gang := 0, donePort := 255,
    statusAddr := 0, dispatched := 0, identity := 0 }

/-! ### A core -/

/-- Why a command failed (R165, R168). -/
inductive FailKind where
  | miss | rights | hostGone
  deriving DecidableEq, Repr

/-- What an asynchronous DM command does (R170, R260). -/
inductive CmdKind where
  | fill (owner th : Nat)
  | wb (owner th : Nat)
  | unmap (owner th : Nat)
  | copy (sg : Staging) (ring : Option (Nat × Nat))
  | gath (sg : Staging) (list : DWord) (n : Nat) (ring : Option (Nat × Nat))
  | enq (port : BitVec 6) (src : DWord) (t : LTime)
  | coll (desc : DWord)
  deriving DecidableEq, Repr

/-- An entry of the issue journal (R166, R167): the number of the entry among the 64 (64 for a fill that a touch
started, which takes none, 65 for a reissued command that waits for one), the context
and partition that issued the command, its produced token (31 for none), and the commands that it
must follow. `after` are the accesses that an ENQ follows (R52). `killed` marks a command whose context has
been killed (R234), and an ENQ whose context has ended. -/
structure Cmd where
  id : Nat
  entry : Nat
  ctx : Nat
  part : Nat
  kind : CmdKind
  tok : BitVec 5
  waits : List Nat
  after : List Nat
  started : Bool
  failed : Option (FailKind × DWord)
  killed : Bool
  deriving DecidableEq, Repr

/-- A codebook (R191): its format tag (true: E4M3) and its 16 entries. -/
structure Codebook where
  e4m3 : Bool
  entries : BitVec 256
  deriving DecidableEq, Repr

/-- A compute core. -/
structure Core where
  running : Option Nat
  last : Store Nat
  waitTo : Nat
  selAt : Nat
  pair : Option (BitVec 8 × List Nat)
  mxHolder : Option Nat
  mxUntil : Nat
  mxTiles : List (Nat × Nat)
  stab : BitVec 512
  cb : Store Codebook
  sa : VWord
  cfgOwner : Option Nat
  journal : List Cmd
  deriving DecidableEq, Repr

def Codebook.zero : Codebook := ⟨false, 0⟩

/-- DEDUCED, log 11. -/
def Core.reset : Core :=
  { running := none, last := [], waitTo := 0, selAt := 0, pair := none, mxHolder := none,
    mxUntil := 0, mxTiles := [], stab := 0, cb := [], sa := 0, cfgOwner := none, journal := [] }

/-! ### Clusters, slices, frontiers -/

/-- Condition of a cluster or slice (R268). -/
inductive Cond where
  | free | held (p : Nat) | transit
  deriving DecidableEq, Repr

/-- A frontier: a time, or no outstanding pair (R248). -/
inductive Frontier where
  | fin (t : LTime)
  | inf
  deriving DecidableEq, Repr

/-- One change of count(P, t) (R248). -/
structure Delta where
  port : BitVec 6
  t : LTime
  n : Int
  deriving DecidableEq, Repr

/-- The text of an image (R213), one word of ciphertext per key, with the start bits beside it (R21, R302); its key,
and its offset in the image. A text without a key stands there in the clear: no loader makes one. DESIGN CHOICE,
log 13, 96. -/
structure Text where
  words : Store Word
  len : Nat
  starts : List Nat
  key : Option (BitVec 256) := none
  off : Nat := 0
  deriving DecidableEq, Repr

/-- The modes of a Gecko core (R14). -/
inductive GeckoMode where
  | machine | supervisor | user
  deriving DecidableEq, Repr

/-- The Gecko core (R14): its mode, program counter and integer registers. PRESUMED, log 97. -/
structure GeckoCore where
  mode : GeckoMode
  pc : DWord
  x : Store DWord
  deriving DecidableEq, Repr

/-- PRESUMED, log 97. -/
def GeckoCore.reset : GeckoCore := ⟨.machine, 0, []⟩

/-- A cluster: its condition, its Gecko core (R14) and that core's registers (R210), trap records waiting for room
with the cycle that raised them (R211), its frontier unit (R252, R253), and its instruction store by image (R7, R11,
R14), with the lines of texts, by image, that have an uncorrectable error (R311). DESIGN CHOICE, log 74, 96. -/
structure Cluster where
  cond : Cond
  trbase : DWord
  trhead : Word
  trtail : Word
  ctxsave : DWord
  ctxcmd : Word
  trWait : List (Nat × TrapRec)
  batch : List Delta
  ann : Store (Option Frontier)
  istore : Store (Option Text)
  textBad : List (Nat × Nat)
  gecko : GeckoCore
  deriving DecidableEq, Repr

/-- DEDUCED, log 11. -/
def Cluster.reset : Cluster := ⟨.free, 0, 0, 0, 0, 0, [], [], [], [], [], .reset⟩

/-- An L2 slice: condition (R268), generation of its channels and bumps since the last physical
zeroing (R300). -/
structure Slice where
  cond : Cond
  gen : BitVec 4
  bumps : Nat
  deriving DecidableEq, Repr

/-- DEDUCED, log 11. -/
def Slice.reset : Slice := ⟨.free, 0, 0⟩

/-! ### Partitions -/

/-- A loaded kernel entry (R214). -/
structure Kernel where
  entry : Nat
  accs : Nat
  ubs : Nat
  unitsX : Nat
  unitsY : Nat
  ports : Nat
  quota : Nat
  saveSize : Nat
  deriving DecidableEq, Repr

/-- A path summary (R214, R249); `from` and `to` are ports. -/
structure Summary where
  src : Nat
  dst : Nat
  kind : Nat
  d : Nat
  c : Nat
  deriving DecidableEq, Repr

/-- A loaded image: its text with the bundle map, and its tables (R213 to R215). -/
structure Image where
  text : Text
  safes : List SafeEntry
  kernels : List Kernel
  sums : List Summary
  digest : Digest
  deriving DecidableEq, Repr

/-- A port (R246, R259). The lines themselves stand in the queue's storage in memory. -/
structure Port where
  queue : Bool
  base : Nat
  cap : Nat
  head : Nat
  times : List LTime
  deriving DecidableEq, Repr

def Port.progress : Port := ⟨false, 0, 0, 0, []⟩

/-- A launch record that passed its checks (R216). -/
structure Launch where
  image : Nat
  kernel : Nat
  pri : Nat
  members : Nat
  gang : Nat
  member : Nat
  vcluster : Nat
  vcore : Nat
  slot : Nat
  args : DWord
  epoch : BitVec 32
  ports : List Nat
  donePort : Nat
  status : DWord
  deriving DecidableEq, Repr

/-- An entry of a waiting list (R218): a gang of launches, or a saved context to resume. `pri` is its
priority, which ageing leaves as it is. While it is the head, `spare` counts the contexts and
accumulators of its places that are free without being reserved for it: (place, contexts, accumulators), where a place
is a core, or 512 more than a slot that a member names. -/
structure WaitEntry where
  level : Nat
  since : Nat
  moved : Nat
  pri : Nat
  launches : List Launch
  resume : Option DWord
  headAt : Option Nat
  victims : List Nat
  spare : List (Nat × Nat × Nat)
  deriving DecidableEq, Repr

/-- A gang admitted (R217): members not yet ended, and its done-port capability. -/
structure RunGang where
  id : Nat
  left : Nat
  donePort : Nat
  epoch : BitVec 32
  deriving DecidableEq, Repr

/-- A saved context (R220): the address of its save area, the device's own record of its state, its commands (R167)
and the tokens that failed ones mark, the slot it left, and why it was saved. DESIGN CHOICE, log 27. -/
structure Saved where
  area : DWord
  ctx : Ctx
  cmds : List Cmd
  failTok : Nat
  from_ : Nat
  why : StopKind
  deriving DecidableEq, Repr

/-- The partition policy (R305). -/
structure Policy where
  cls : Nat
  maxParts : Nat
  clusters : BitVec 64
  slices : BitVec 96
  minC : Nat
  maxC : Nat
  minS : Nat
  maxS : Nat
  tenant : Digest
  logKey : Digest
  body : Digest
  generation : Nat
  deriving DecidableEq, Repr

/-- Phases of a resize (R273, R274). -/
inductive Phase where
  | idle | prepare | quiesce | move | rehash | commit | abort
  deriving DecidableEq, Repr

/-- A resize under way (R274). `moving` holds the gangs that PARK saves (R278). A map switch lasts to cycle
`switchTo` (R279), the migration lock of rehash set `migrated` to cycle `lockTo` (R280). `late` is what ABORT reports of
the first context that did not stop. -/
structure Resize where
  phase : Phase
  clusters : BitVec 64
  slices : BitVec 96
  newMap : Store (BitVec 16)
  timeout : Nat
  park : Bool
  inPolicy : Bool
  fn : Nat
  moving : List Nat
  migrated : Nat
  started : Nat
  switchTo : Option Nat
  lockTo : Option Nat
  late : Nat
  deriving DecidableEq, Repr

/-- One page mapping (R158, R162). -/
abbrev PageEnt := PageMap

/-- A refused-access record still open for merging (R301). DEDUCED, log 77. -/
structure RefRec where
  who : Nat
  page : Nat
  msec : Nat
  index : Nat
  count : Nat
  deriving DecidableEq, Repr

/-- A partition (R268, R269). `ann` is the announcement last computed, `applied` the one last applied, at
cycle `appliedAt`; `ahead` numbers the increments that were under way as the batch of `closed` closed (R252, R253).
`gone`: the host link has gone down since its function last attached (R292). `dataKey`, `releaseKey` and `logKey`
are the numbers of its keys, 0 for none (R302, R304, R307). DESIGN CHOICE, log 98. -/
structure Part where
  live : Bool
  n : Nat
  M : Nat
  vfs : BitVec 128
  clusters : BitVec 64
  slices : BitVec 96
  map : Store (BitVec 16)
  policy : Policy
  pages : Store (Option PageEnt)
  hostPages : Store (Option PageEnt)
  evicted : Store (Option DWord)
  images : Store (Option Image)
  nextImage : Nat
  ports : Store Port
  counts : List Delta
  sums : List Summary
  ann : Store (Option Frontier)
  applied : Store (Option Frontier)
  appliedAt : Nat
  closed : Option (List Delta)
  ahead : List Nat
  pendingAnn : Bool
  changed : Bool
  round : Nat
  underflow : Option (BitVec 6 × LTime)
  waiting : List WaitEntry
  gangs : List (List Launch)
  running : List RunGang
  saved : List Saved
  resize : Option Resize
  lease : Nat
  leaseEnd : Nat
  logSeq : Nat
  refusals : List RefRec
  gone : Bool
  dataKey : Nat
  releaseKey : Nat
  logKey : Nat
  deriving DecidableEq, Repr

def Policy.none : Policy := ⟨0, 0, 0, 0, 0, 0, 0, 0, 0, 0, 0, 0⟩

/-- DEDUCED, log 11. -/
def Part.reset : Part :=
  { live := false, n := 0, M := 0, vfs := 0, clusters := 0, slices := 0, map := [],
    policy := .none, pages := [], hostPages := [], evicted := [], images := [], nextImage := 0, ports := [],
    counts := [], sums := [], ann := [], applied := [], appliedAt := 0, closed := none, ahead := [],
    pendingAnn := false, changed := false,
    round := 0, underflow := none, waiting := [], gangs := [], running := [],
    saved := [], resize := none, lease := 0, leaseEnd := 0, logSeq := 1,
    refusals := [], gone := false, dataKey := 0, releaseKey := 0, logKey := 0 }

/-! ### Terms unit -/

/-- The body of a terms record (R222). -/
structure TermsBody where
  flags : Nat
  owner : Digest
  tensor : Digest
  licensee : Digest
  dependsOn : Digest
  expiry : Nat
  maxUses : Nat
  charge : Nat
  span : Nat
  length : Nat
  digest : Digest
  deriving DecidableEq, Repr

/-- An INSTALLED terms handle (R224). `region` is the partition and base of the sealed region;
`key` the content key under which fills of sealed tiles open it (R227, R228). -/
structure Handle where
  body : TermsBody
  codes : List Digest
  region : Option (Nat × Nat)
  key : BitVec 256
  used : Nat
  reserved : Nat
  meter : Nat
  lost : Nat
  n : Nat
  p : Nat
  deriving DecidableEq, Repr

/-- The terms unit's record of an outstanding reservation (R230). -/
structure Resv where
  serial : BitVec 32
  handle : Nat
  part : Nat
  committed : Bool
  ctime : Nat
  holder : Nat
  deriving DecidableEq, Repr

/-- A raise of N being written to the non-volatile store (R235). -/
structure NvWrite where
  handle : Nat
  n : Nat
  deriving DecidableEq, Repr

/-- The terms unit and its clock (R224 to R236). `clockBase` is the clock's value at cycle `clockAt`, `clockSaved`
the value last persisted. `stSerial` is the serial of the last statement. `alive` turns false at an orderly shutdown
and true at the next answer; `loss` says that its state has been lost otherwise, which the next power-up charges
(R235). -/
structure Terms where
  handles : Store (Option Handle)
  resv : List Resv
  nextSerial : BitVec 32
  stSerial : Nat
  clockBase : Nat
  clockAt : Nat
  synced : Bool
  clockSaved : Nat
  nv : List NvWrite
  alive : Bool
  loss : Bool
  deriving DecidableEq, Repr

/-- DESIGN CHOICE, log 9. -/
def Terms.reset : Terms := ⟨[], [], 1, 0, 0, 0, false, 0, [], true, false⟩

/-! ### Host attachment and peers -/

/-- A mailbox (R289). `taken`: the device has taken up the command that the doorbell started; `waits` is that command,
while it waits for lines that busy tiles keep. -/
structure Mailbox where
  cmd : Word
  arg : DWord
  part : Word
  door : Bool
  taken : Bool
  waits : Option Instr
  stat : DWord
  msi : Nat
  deriving DecidableEq, Repr

/-- DEDUCED, log 11. -/
def Mailbox.reset : Mailbox := ⟨0, 0, 0, false, false, none, 0, 0⟩

/-- The host link (R292). What stays invalid after a retrain until ATTACH is marked in `Part.gone`. -/
inductive LinkSt where
  | up | down
  deriving DecidableEq, Repr

/-- A Roard Link port (R294), with the cycles of its retries of the last millisecond. -/
structure LinkPort where
  down : Bool
  retries : List Nat
  deriving DecidableEq, Repr

/-- DESIGN CHOICE, log 10. -/
def LinkPort.reset : LinkPort := ⟨false, []⟩

/-- A member of a collective that a peer device sends (R294, R296): the cycle of its arrival, its descriptor, the
bytes of its source, and the planes whose ports are down at that device. DESIGN CHOICE, log 70. -/
structure PeerColl where
  at_ : Nat
  descBits : BitVec 512
  data : List Byte
  lost : List Nat
  deriving DecidableEq, Repr

/-- A member of a collective that has arrived (R296), with the descriptor that the engine has read; `peer` holds the
source of one that a peer device has sent, `lost` the planes whose ports are down there (R294). -/
structure CollMember where
  core : Nat
  cmd : Nat
  ctx : Nat
  part : Nat
  desc : DWord
  descBits : BitVec 512
  killed : Bool
  peer : Option (List Byte)
  lost : List Nat
  deriving DecidableEq, Repr

/-- A group of R296. `due` is when its timeout runs out, `ports` are the ports that its chunks travel on (R294).
Once a descriptor has broken the rules it is `spoilt`, and every member that comes ends with status 3; `came` holds
the size and the rank that each member so far names, which tells when no more are to come. -/
structure CollGroup where
  id : Nat
  members : List CollMember
  due : Nat
  ports : List Nat
  spoilt : Bool
  came : List (Nat × Nat)
  deriving DecidableEq, Repr

/-- The end of a member of a collective that waits until the line of its status word is free (R160): its status, and
the failure that its command ends with (R298, R299). -/
structure CollEnd where
  member : CollMember
  status : Nat
  fail : Option (FailKind × DWord)
  deriving DecidableEq, Repr

/-- Everything on the host and peer side. `ready` says that bring-up has ended (R313); until then the host link is
down and no Roard Link port is enabled. `spares` gives the planes that a spare port carries (R294), `peers` the
members of collectives that peer devices are to send, `collEnds` the ends of members that wait. `answer` holds the
bytes that the last host read returned. `badClusters` and `badSlices` are not granted; the monitors of R310 have
found `agedClusters` and `agedSlices`, which join them at the next reset. -/
structure HostIf where
  mail : Store Mailbox
  ready : Bool
  link : LinkSt
  token : Store (Option (BitVec 128))
  pri : List (Nat × Nat × Nat)
  ports : Store LinkPort
  spares : List (Nat × Nat)
  colls : List CollGroup
  collEnds : List CollEnd
  peers : List PeerColl
  answer : List Byte
  throttle : Bool
  devSeq : Nat
  devLog : List (BitVec 512)
  badClusters : BitVec 64
  badSlices : BitVec 96
  agedClusters : BitVec 64
  agedSlices : BitVec 96
  enrolled : Bool
  powered : Bool
  deriving DecidableEq, Repr

/-- DESIGN CHOICE, log 10; DEDUCED, log 11. -/
def HostIf.reset : HostIf :=
  { mail := [], ready := false, link := .down, token := [], pri := [], ports := [], spares := [], colls := [],
    collEnds := [], peers := [],
    answer := [], throttle := false, devSeq := 1, devLog := [], badClusters := 0, badSlices := 0,
    agedClusters := 0, agedSlices := 0, enrolled := true, powered := true }

/-- A lock on a line of a partition (R181). -/
structure Lock where
  part : Nat
  line : Nat
  ctx : Nat
  deriving DecidableEq, Repr

/-- Where an error strikes (R311): a line of memory or of the caches and the network that hold it, a line of a stash
tile, a row of an accumulator, a register of a context, a line of an image's text in an instruction store. -/
inductive ErrPlace where
  | line (n : Nat)
  | tile (ctx th j : Nat)
  | acc (ctx row : Nat)
  | reg (ctx : Nat) (r : RegId)
  | text (cluster image line : Nat)
  deriving DecidableEq, Repr

/-- An error that the device's checks find in cycle `at_` (R311). DESIGN CHOICE, log 100. -/
structure MemErr where
  at_ : Nat
  place : ErrPlace
  uncorrected : Bool
  syndrome : DWord
  deriving DecidableEq, Repr

/-- The device. `tags` holds one more than the tag of each line that has been written since its channel was zeroed
(R300), `errors` the errors to come (R311), `keys` the number of keys made so far (R302). `cur` and `slot` (log 1),
`agenda` and `todo` (log 2), `delays` (log 3), `freeCtr` (log 4), `nextIdent` (log 7), `keys` (log 98) and `errors`
(log 100) are the model's own fields: DESIGN CHOICE. -/
structure State where
  cycle : Nat
  agenda : List (Nat × Instr)
  todo : List Nat
  delays : List Nat
  freeCtr : Nat
  cur : Nat
  slot : Slot
  mem : List Host.Cell
  ctxs : Store Ctx
  cores : Store Core
  clusters : Store Cluster
  slices : Store Slice
  parts : Store Part
  terms : Terms
  host : HostIf
  locks : List Lock
  tags : Store Nat
  poison : List Nat
  errors : List MemErr
  keys : Nat
  nextIdent : Nat
  deriving DecidableEq, Repr

/-- The device right after reset (R309, R313): memory zero, no partition, no context, no image;
`cycles` is 0 (R93); the last step of bring-up is still to come (R313), and until then mailbox commands
answer BUSY. DEDUCED, log 11; DESIGN CHOICE, log 13. -/
def State.reset : State :=
  { cycle := 0, agenda := [(0, .bringUpComplete)], todo := [], delays := [], freeCtr := 0, cur := 0, slot := .ctl,
    mem := [], ctxs := [], cores := [], clusters := [], slices := [], parts := [],
    terms := .reset, host := .reset, locks := [], tags := [], poison := [], errors := [], keys := 0, nextIdent := 1 }

end Sys2Proof.Machine
end

