-- ==== Sys2Proof/Machine/Ops.lean ====
section
/-!
DEFINITION. The named operations of the machine over its registers, its memory, its clocks and its
traps: every instruction and event is written with them.
-/
namespace Sys2Proof

/-! ### Logical time (R79) -/

/-- The 128-bit layout of a time. -/
def LTime.toNat (t : LTime) : Nat :=
  t.e.toNat <<< 80 ||| t.l1.toNat <<< 64 ||| t.l2.toNat <<< 48 ||| t.l3.toNat <<< 32 |||
    t.l4.toNat <<< 16 ||| t.l5.toNat

def LTime.ofNat (n : Nat) : LTime :=
  ⟨BitVec.ofNat 32 (n >>> 80), BitVec.ofNat 16 (n >>> 64), BitVec.ofNat 16 (n >>> 48),
    BitVec.ofNat 16 (n >>> 32), BitVec.ofNat 16 (n >>> 16), BitVec.ofNat 16 n⟩

def LTime.lt (a b : LTime) : Bool := decide (a.toNat < b.toNat)
def LTime.le (a b : LTime) : Bool := decide (a.toNat ≤ b.toNat)

/-- Truncation to a depth: every deeper field 0. -/
def LTime.trunc (t : LTime) (d : Nat) : LTime :=
  { e := t.e
    l1 := if 1 ≤ d then t.l1 else 0
    l2 := if 2 ≤ d then t.l2 else 0
    l3 := if 3 ≤ d then t.l3 else 0
    l4 := if 4 ≤ d then t.l4 else 0
    l5 := if 5 ≤ d then t.l5 else 0 }

end Sys2Proof

namespace Sys2Proof.Machine

open Sys2Proof

abbrev Out := Host.Outcome State Fault Refusal

/-! ### Places: context c = cluster * 32 + core * 4 + slot, core k = cluster * 8 + core -/

def coreOf (c : Nat) : Nat := c / 4
def clusterOf (c : Nat) : Nat := c / 32
def clusterOfCore (k : Nat) : Nat := k / 8

def State.ctx (s : State) (c : Nat) : Ctx := Store.get Ctx.free s.ctxs c
def State.setCtx (s : State) (c : Nat) (x : Ctx) : State :=
  { s with ctxs := Store.set Ctx.free s.ctxs c x }
def State.updCtx (s : State) (c : Nat) (f : Ctx → Ctx) : State := s.setCtx c (f (s.ctx c))

def State.core (s : State) (k : Nat) : Core := Store.get Core.reset s.cores k
def State.setCore (s : State) (k : Nat) (x : Core) : State :=
  { s with cores := Store.set Core.reset s.cores k x }
def State.updCore (s : State) (k : Nat) (f : Core → Core) : State := s.setCore k (f (s.core k))

def State.cluster (s : State) (k : Nat) : Cluster := Store.get Cluster.reset s.clusters k
def State.setCluster (s : State) (k : Nat) (x : Cluster) : State :=
  { s with clusters := Store.set Cluster.reset s.clusters k x }
def State.updCluster (s : State) (k : Nat) (f : Cluster → Cluster) : State :=
  s.setCluster k (f (s.cluster k))

def State.slice (s : State) (k : Nat) : Slice := Store.get Slice.reset s.slices k
def State.setSlice (s : State) (k : Nat) (x : Slice) : State :=
  { s with slices := Store.set Slice.reset s.slices k x }

def State.part (s : State) (p : Nat) : Part := Store.get Part.reset s.parts p
def State.setPart (s : State) (p : Nat) (x : Part) : State :=
  { s with parts := Store.set Part.reset s.parts p x }
def State.updPart (s : State) (p : Nat) (f : Part → Part) : State := s.setPart p (f (s.part p))

/-- The context that a slot word acts for. DESIGN CHOICE, log 1. -/
def State.me (s : State) : Ctx := s.ctx s.cur
def State.setMe (s : State) (x : Ctx) : State := s.setCtx s.cur x
def State.updMe (s : State) (f : Ctx → Ctx) : State := s.setMe (f s.me)

/-- The bundle that the context is issuing. DESIGN CHOICE, log 1. -/
def State.iss (s : State) : Issue := s.me.iss
def State.updIss (s : State) (f : Issue → Issue) : State :=
  s.updMe fun c => { c with iss := f c.iss }

/-- Handle entry of a context. -/
def Ctx.tile (x : Ctx) (th : Nat) : Option Tile := Store.get none x.tiles th
def Ctx.setTile (x : Ctx) (th : Nat) (t : Option Tile) : Ctx :=
  { x with tiles := Store.set none x.tiles th t }
def State.tile (s : State) (c th : Nat) : Option Tile := (s.ctx c).tile th
def State.setTile (s : State) (c th : Nat) (t : Option Tile) : State :=
  s.updCtx c fun x => x.setTile th t
def State.updTile (s : State) (c th : Nat) (f : Tile → Tile) : State :=
  match s.tile c th with
  | some t => s.setTile c th (some (f t))
  | none => s

/-! ### Time -/

/-- Insert an event behind every event of its time or earlier. DESIGN CHOICE, log 2. -/
def insertEv (t : Nat) (e : Instr) : List (Nat × Instr) → List (Nat × Instr)
  | [] => [(t, e)]
  | (t', e') :: r => if t < t' then (t, e) :: (t', e') :: r else (t', e') :: insertEv t e r

/-- An event to come `dt` cycles from now. DESIGN CHOICE, log 2. -/
def State.schedule (s : State) (dt : Nat) (e : Instr) : State :=
  { s with agenda := insertEv (s.cycle + dt) e s.agenda }

/-- The next open duration (R322), 0 when none is listed. DESIGN CHOICE, log 3. -/
def State.nextDelay (s : State) : Nat := s.delays.headD 0

/-- An event to come after an open duration of at least `least` cycles. DESIGN CHOICE, log 3. -/
def State.after (s : State) (least : Nat) (e : Instr) : State :=
  { s with
    agenda := insertEv (s.cycle + least + s.nextDelay) e s.agenda
    delays := s.delays.drop 1 }

/-- Cycles of a microsecond of the 1.25 GHz clock. DESIGN CHOICE, log 82. -/
def usCycles : Nat := 1250

/-- The running value of the terms clock, without bit 63 (R229). DESIGN CHOICE, log 9. -/
def State.tclock (s : State) : Nat :=
  (s.terms.clockBase + (s.cycle - s.terms.clockAt) / usCycles) % 2 ^ 63

/-- The terms clock as MFS and statements give it (R229, R236). -/
def State.tclockWord (s : State) : DWord :=
  BitVec.ofNat 64 (s.tclock + if s.terms.synced then 0 else 2 ^ 63)

/-- Draw a free choice. DESIGN CHOICE, log 4. -/
def State.drawBit (s : State) : Bool × State :=
  (Config.freeBit s.freeCtr, { s with freeCtr := s.freeCtr + 1 })

/-- A new number of the model's own. DESIGN CHOICE, log 7. -/
def State.fresh (s : State) : State := { s with nextIdent := s.nextIdent + 1 }

/-! ### Loop levels -/

/-- Counter of loop level `l` (1 to 5); an inactive level reads 0 (R77). -/
def Ctx.lc (x : Ctx) (l : Nat) : BitVec 16 :=
  match x.loops[l - 1]? with
  | some v => v.lc
  | none => 0
def Ctx.lb (x : Ctx) (l : Nat) : BitVec 16 :=
  match x.loops[l - 1]? with
  | some v => v.lb
  | none => 0
def Ctx.ldepth (x : Ctx) : Nat := x.loops.length

/-- The context's logical time. Level 1 stands first in `loops`. -/
def Ctx.time (x : Ctx) : LTime :=
  ⟨x.lc0, x.lc 1, x.lc 2, x.lc 3, x.lc 4, x.lc 5⟩

/-! ### Registers -/

/-- Operands as the bundle read them (R26, R90): `s0` reads 0, `p0` and `p8` read all ones. -/
def Latch.rdS (l : Latch) (n : BitVec 6) : DWord := if n = 0 then 0 else Store.get 0 l.s n.toNat
def Latch.rdV (l : Latch) (n : BitVec 6) : VWord := Store.get 0 l.v n.toNat
def Latch.rdP (l : Latch) (n : BitVec 4) : PWord :=
  if n = 0 ∨ n = 8 then BitVec.allOnes 128 else Store.get 0 l.p n.toNat

/-- Live registers. -/
def Ctx.rdS (x : Ctx) (n : BitVec 6) : DWord := if n = 0 then 0 else Store.get 0 x.s n.toNat
def Ctx.rdV (x : Ctx) (n : BitVec 6) : VWord := Store.get 0 x.v n.toNat
def Ctx.rdP (x : Ctx) (n : BitVec 4) : PWord :=
  if n = 0 ∨ n = 8 then BitVec.allOnes 128 else Store.get 0 x.p n.toNat

/-- The register operands of the slot being run. -/
def State.opS (s : State) (n : BitVec 6) : DWord := s.iss.latch.rdS n
def State.opV (s : State) (n : BitVec 6) : VWord := s.iss.latch.rdV n
def State.opP (s : State) (n : BitVec 4) : PWord := s.iss.latch.rdP n
/-- The `fmt` in force for the bundle (R67). -/
def State.opFmt (s : State) : Word := s.iss.latch.fmt

/-- A result that a dependent bundle may use `lat` cycles after issue (R128, R151). -/
def State.pend (s : State) (r : RegId) (lat : Nat) : State :=
  if lat ≤ 1 then s
  else
    ((s.updMe fun c => { c with score := c.score ++ [⟨s.nextIdent, r⟩] }).schedule lat
      (.resultLanding s.cur s.nextIdent)).fresh

/-- As `pend`, after an open duration (R322). DESIGN CHOICE, log 3. -/
def State.pendOpen (s : State) (r : RegId) (least : Nat) : State :=
  ((s.updMe fun c => { c with score := c.score ++ [⟨s.nextIdent, r⟩] }).after least
    (.resultLanding s.cur s.nextIdent)).fresh

/-- Write a scalar register; a write to `s0` is discarded (R111). -/
def Ctx.wrS (x : Ctx) (d : BitVec 6) (v : DWord) : Ctx :=
  if d = 0 then x else { x with s := Store.set 0 x.s d.toNat v }
def Ctx.wrV (x : Ctx) (d : BitVec 6) (v : VWord) : Ctx := { x with v := Store.set 0 x.v d.toNat v }
/-- Write a predicate register; `p0` and `p8` cannot be written (R130). -/
def Ctx.wrP (x : Ctx) (d : BitVec 4) (v : PWord) : Ctx :=
  if d = 0 ∨ d = 8 then x else { x with p := Store.set 0 x.p d.toNat v }

/-- A scalar result with its latency (R128). -/
def State.setS (s : State) (d : BitVec 6) (v : DWord) (lat : Nat) : State :=
  if d = 0 then s else (s.updMe fun c => c.wrS d v).pend (.s d) lat
/-- A vector result with its latency (R151). -/
def State.setV (s : State) (d : BitVec 6) (v : VWord) (lat : Nat) : State :=
  (s.updMe fun c => c.wrV d v).pend (.v d) lat
/-- A predicate result with its latency (R151). -/
def State.setP (s : State) (d : BitVec 4) (v : PWord) (lat : Nat) : State :=
  (s.updMe fun c => c.wrP d v).pend (.p d) lat

/-- Accumulator rows (R191): row `i` of `aN`. -/
def Ctx.accRow (x : Ctx) (n i : Nat) : VWord := Store.get 0 x.acc (n * 128 + i)
/-- The first `n` rows of an accumulator hold one with an uncorrectable error (R200). -/
def Latch.accBad (l : Latch) (acc n : Nat) : Bool := l.bad.any fun r => decide (acc * 128 ≤ r ∧ r < acc * 128 + n)

/-- The first `n` rows of an accumulator are written: an error in them is gone (R200). -/
def Ctx.mendAcc (x : Ctx) (acc n : Nat) : Ctx :=
  { x with accBad := x.accBad.filter fun r => decide (r < acc * 128 ∨ acc * 128 + n ≤ r) }

def Latch.accRow (l : Latch) (n i : Nat) : VWord := Store.get 0 l.acc (n * 128 + i)
def Latch.accRs (l : Latch) (n : Nat) : VWord := Store.get 0 l.rs n

/-! ### Accesses outstanding (R40, R47, R106) -/

/-- The completion point of a scope (R40): scopes 2, 3 and 4 share one. -/
def scopeStage : Scope → Nat
  | .ctx => 0
  | .core => 1
  | .cluster | .part | .dev => 2
  | .sys => 3

/-- Some access has not passed completion point `n`. -/
def Ctx.openAt (x : Ctx) (n : Nat) : Bool := x.outst.any fun a => decide (a.stage < n)

/-- Some access of a list of numbers has not passed completion point `n`. -/
def Ctx.openOf (x : Ctx) (ids : List Nat) (n : Nat) : Bool :=
  x.outst.any fun a => decide (a.id ∈ ids) && decide (a.stage < n)

/-! ### What a slot does when it cannot act -/

/-- The slot faults (R89): it performs nothing. `terms` is the terms field of the record (R91). -/
def State.raiseT (s : State) (cause : Cause) (operand detail : Option DWord) (terms : Word) :
    State :=
  s.updIss fun i => { i with faults := i.faults ++ [⟨s.slot.index, cause, operand, detail, terms⟩] }

/-- A fault that concerns no terms handle. -/
def State.raise (s : State) (cause : Cause) (operand detail : Option DWord) : State :=
  s.raiseT cause operand detail 0

/-- The bundle blocks (R80). -/
def State.blocks (s : State) : State := s.updIss fun i => { i with block := true }
/-- The bundle stalls (R128). -/
def State.stalls (s : State) : State := s.updIss fun i => { i with stall := true }
/-- What is set going though the bundle does not issue. -/
def State.sets (s : State) (l : Later) : State := s.updIss fun i => { i with later := i.later ++ [l] }

/-! ### Homes (R271, R280) -/

/-- A partition's slices in ascending order (R271). -/
def slicesOf (mask : BitVec 96) : List Nat := (List.range 96).filter fun i => mask.getLsbD i

/-- H(a) of R271. -/
def hashOf (a : Nat) : Nat :=
  let x := a / 128 % 2 ^ 41
  (x % 2 ^ 16) ^^^ (x / 2 ^ 16 % 2 ^ 16) ^^^ (x / 2 ^ 32 % 2 ^ 9)

/-- home(a) of R271 and R280: by the new list once the line's rehash set has migrated, up to the commit. -/
def Part.home (P : Part) (a : Nat) : Option Nat :=
  let h := hashOf a
  let pick := fun (l : List Nat) => if l = [] then none else l[h % l.length]?
  match P.resize with
  | some r =>
    if (r.phase = .rehash ∨ r.phase = .commit) ∧ h < r.migrated then pick (slicesOf r.slices)
    else pick (slicesOf P.slices)
  | none => pick (slicesOf P.slices)

/-! ### Bytes of memory

One list of cells holds every address space: key = space * 2^64 + address. Spaces 0 to 15 are the
partitions' memories, 16 is host memory, 32 + n the private memory of Gecko n. DESIGN CHOICE, log 5. -/
def hostSpace : Nat := 16
/-- DESIGN CHOICE, log 5. -/
def geckoSpace (cl : Nat) : Nat := 32 + cl
/-- DESIGN CHOICE, log 5. -/
def keyOf (space addr : Nat) : Nat := space * 2 ^ 64 + addr

/-- What a byte that nothing has written reads as (R309: device reset zeroes every memory).
DESIGN CHOICE, log 5. -/
def memDefault : Byte := 0

/-- The canonical form of memory. -/
abbrev Memory.wf (m : List Host.Cell) : Prop := Store.wf memDefault m = true

/-- The partition whose memory holds a line, or another space, and the line's address there. -/
def linePlace (line : Nat) : Nat × Nat := (line * 128 / 2 ^ 64, line * 128 % 2 ^ 64)

/-- The current generation of the channel that holds a line (R271, R300). -/
def State.genOf (s : State) (line : Nat) : BitVec 4 :=
  match (s.part (linePlace line).1).home (linePlace line).2 with
  | some i => (s.slice i).gen
  | none => 0

/-- A line's tag is its channel's current generation; a line that nothing has written since its channel was
zeroed has it (R300). -/
def State.current (s : State) (line : Nat) : Bool :=
  decide (hostSpace ≤ (linePlace line).1) ||
    match Store.get 0 s.tags line with
    | 0 => true
    | g + 1 => decide (g = (s.genOf line).toNat)

/-- L2 sets of a slice of 2 MiB: 16-way, lines of 128 bytes (R1, R11). -/
def l2Sets : Nat := 2 * 1024 * 1024 / (16 * 128)

/-- The slice and the L2 set of a line (R11, R181). DESIGN CHOICE, log 25. -/
def State.setOf (s : State) (line : Nat) : Option Nat × Nat :=
  let a := linePlace line
  ((s.part a.1).home a.2, Config.l2Set a.1 line % l2Sets)

/-- A request for a line waits at its router: its slice comes or goes and a map switch is under way (R279), or its
rehash set is being moved (R280). -/
def State.reqWaits (s : State) (line : Nat) : Bool :=
  let a := linePlace line
  let P := s.part a.1
  let until_ := fun (t : Option Nat) => decide (s.cycle < t.getD 0)
  match P.resize with
  | none => false
  | some r =>
    (decide (r.phase ≠ .move) && until_ r.switchTo &&
      decide (P.home a.2 ∈ (slicesOf (P.slices ^^^ r.slices)).map some)) ||
      (until_ r.lockTo && decide (hashOf a.2 = r.migrated))

/-- One byte of memory; a stale line reads zeros (R300). DESIGN CHOICE, log 5; DEDUCED, log 99. -/
def State.byte (s : State) (k : Nat) : Byte :=
  if s.current (k / 128) then Store.get memDefault s.mem k else memDefault

def State.rdMem (s : State) (k : Nat) : Nat → List Byte
  | 0 => []
  | n + 1 => s.byte k :: s.rdMem (k + 1) n

/-- A write of a line stores the current generation as its tag; a stale line is zero beneath the write (R300). -/
def State.retag (s : State) (line : Nat) : State :=
  if hostSpace ≤ (linePlace line).1 then s
  else
    { s with
      mem := if s.current line then s.mem
        else s.mem.filter fun e => decide (e.1 < 128 * line ∨ 128 * line + 128 ≤ e.1)
      tags := Store.set 0 s.tags line ((s.genOf line).toNat + 1) }

/-- The lines of a run of bytes. -/
def linesOf (k n : Nat) : List Nat :=
  (List.range ((k + n + 127) / 128 - k / 128)).map fun i => k / 128 + i

def State.wrMem (s : State) (k : Nat) (l : List Byte) : State :=
  let t := (linesOf k l.length).foldl State.retag s
  { s with mem := Store.put memDefault t.mem k l, tags := t.tags }

/-- Little-endian value of bytes (R4). -/
def leNat : List Byte → Nat
  | [] => 0
  | b :: t => b.toNat + 256 * leNat t

/-- The `n` bytes of a value, little-endian. -/
def leBytes : Nat → Nat → List Byte
  | 0, _ => []
  | n + 1, x => BitVec.ofNat 8 x :: leBytes n (x / 256)

/-- A field of `n` bytes at key `k`. -/
def State.rdNat (s : State) (k n : Nat) : Nat := leNat (s.rdMem k n)

/-! ### What is refused (R119, R228, R259, R268, R304) -/

/-- Whether the home of a partition address is in transit (R268). -/
def State.inTransit (s : State) (p a : Nat) : Bool :=
  match (s.part p).home a with
  | some i => decide ((s.slice i).cond = .transit)
  | none => false

/-- The handle whose sealed region covers a partition address, if any (R227, R228). -/
def State.sealedBy (s : State) (p a : Nat) : Option (Nat × Handle) :=
  s.terms.handles.findSome? fun e =>
    match e.2 with
    | some h =>
      match h.region with
      | some (q, base) =>
        if q = p ∧ base ≤ a ∧ a < base + h.body.length then some (e.1, h) else none
      | none => none
    | none => none

/-- Whether a partition address lies in the storage of a queue port (R259): the lines, then the
times. DEDUCED, log 41. -/
def Part.inQueue (P : Part) (a : Nat) : Bool :=
  P.ports.any fun e =>
    e.2.queue && decide (e.2.base ≤ a) && decide (a < e.2.base + 144 * e.2.cap)

/-- The lowest device-owned address of a partition (R304). -/
def Part.ownedFrom (P : Part) : Nat := P.M - 65536

/-- An address that no agent may reach: beyond the partition's memory, in the storage of a queue, or on a slice in
transit (R119, R162, R259, R268). -/
def State.walled (s : State) (p a : Nat) : Bool :=
  decide ((s.part p).M ≤ a) || (s.part p).inQueue a || s.inTransit p a

/-- Whether an access at a partition address is refused (R119, R228, R259, R268, R304). -/
def State.refuses (s : State) (p a : Nat) (write : Bool) : Bool :=
  decide ((s.part p).M ≤ a) || (write && decide ((s.part p).ownedFrom ≤ a)) ||
    (s.part p).inQueue a || (s.sealedBy p a).isSome || s.inTransit p a

/-! ### Logs (R301, R304) -/

/-- A 64-byte log record (R304). -/
def logRecord (seq kind cause count addr time req detail : Nat) (redacted : Bool) : List Byte :=
  leBytes 8 seq ++ leBytes 1 kind ++ leBytes 1 cause ++ leBytes 2 count ++
    leBytes 4 (if redacted then 2 else 0) ++ leBytes 8 (if redacted then 0 else addr) ++
    leBytes 8 time ++ leBytes 8 req ++ leBytes 8 0 ++ leBytes 8 (if redacted then 0 else detail) ++
    leBytes 8 0

/-- Write record `seq` into both rings of a partition, where software must not map tiles (R304). -/
def State.putLog (s : State) (p seq kind cause count addr req detail : Nat) : State :=
  let P := s.part p
  let T := P.ownedFrom
  let time := s.tclockWord.toNat
  let i := seq % 256
  let full := logRecord seq kind cause count addr time req detail false
  let red := logRecord seq kind cause count addr time req detail true
  (s.wrMem (keyOf p (T + 64 * i)) red).wrMem (keyOf p (T + 0x4480 + 80 * i))
    ((Config.sealLog P.logKey seq full).take 80)

/-- A new log record of a partition. -/
def State.addLog (s : State) (p kind cause addr req detail : Nat) : State :=
  if (s.part p).live then
    (s.putLog p (s.part p).logSeq kind cause 1 addr req detail).updPart p fun P =>
      { P with logSeq := P.logSeq + 1 }
  else s

/-- A record of the device log, which belongs to the physical function (R301, R310). DESIGN CHOICE, log 76. -/
def State.addDevLog (s : State) (kind addr req detail : Nat) : State :=
  let rec512 := leNat (logRecord s.host.devSeq kind 0 1 addr s.tclockWord.toNat req detail false)
  { s with host := { s.host with
      devSeq := s.host.devSeq + 1
      devLog := s.host.devLog ++ [BitVec.ofNat 512 rec512] } }

/-- Commands that outlive a stop or the end of their context carry this number in place of its own
(R167, R234, R260): its identity beside the place it had. DEDUCED, log 34, 79. -/
def orphanOf (c identity : Nat) : Nat := 2048 * identity + c % 2048

/-- Requester field of a context's record (R304). -/
def reqOfCtx (p c : Nat) : Nat :=
  p ||| (clusterOf (c % 2048)) <<< 16 ||| (c / 4 % 8) <<< 24 ||| (c % 4) <<< 28

/-- Record a refused access of a requester of partition `p`; refusals within one page and one
millisecond share a record, which is left where a newer one has taken its place in the ring (R301, R304).
DEDUCED, log 77. -/
def State.logRefused (s : State) (p who addr : Nat) : State :=
  let msec := s.cycle / (1000 * usCycles)
  let P := s.part p
  if P.live then
    match P.refusals.find? fun r => decide (r.who = who ∧ r.page = addr / 4096 ∧ r.msec = msec) with
    | some r =>
      let n := min (r.count + 1) 65535
      let s1 := if P.logSeq ≤ r.index + 256 then s.putLog p r.index 4 0 n addr who 0 else s
      s1.updPart p fun P =>
        { P with refusals := P.refusals.map fun x => if x = r then { r with count := n } else x }
    | none =>
      let i := P.logSeq
      (s.addLog p 4 0 addr who 0).updPart p fun P =>
        { P with refusals :=
            (P.refusals.filter fun x => decide (x.msec = msec)) ++ [⟨who, addr / 4096, msec, i, 1⟩] }
  else s

/-- Fields of a log record as the device log holds it. -/
def recField (r : BitVec 512) (byte n : Nat) : Nat := (r.extractLsb' (8 * byte) (8 * n)).toNat

/-- A refusal of a requester without a partition goes to the device log; refusals within one page and one
millisecond share a record (R301). DESIGN CHOICE, log 76; DEDUCED, log 77. -/
def State.logDevRefused (s : State) (who addr : Nat) : State :=
  let same := fun (r : BitVec 512) =>
    decide (recField r 8 1 = 4 ∧ recField r 32 8 = who ∧ recField r 16 8 / 4096 = addr / 4096 ∧
      recField r 24 8 / 1000 = s.tclockWord.toNat / 1000)
  let count := fun (r : BitVec 512) =>
    if same r = true ∧ recField r 10 2 < 65535 then r + BitVec.ofNat 512 (2 ^ 80) else r
  if s.host.devLog.any same then
    { s with host := { s.host with devLog := s.host.devLog.map count } }
  else s.addDevLog 4 addr who 0

/-! ### Tiles (R155 to R160) -/

/-- Bytes of a row of a tile of a type (the table before R156). -/
def rowBytes (ty : BitVec 4) : Nat :=
  match etyOf ty.toNat with
  | some e => 16 * e.bits
  | none => 0

def tileBytes (ty : BitVec 4) : Nat := 128 * rowBytes ty
def tileUnits (ty : BitVec 4) : Nat := tileBytes ty / 8192

/-- Distance between rows in memory (R156). -/
def Tile.pitch (t : Tile) : Nat := if t.rstride = 0 then rowBytes t.ty else t.rstride.toNat

/-- The byte of a backed tile that stands for an address (R156). -/
def Tile.offsetOf (t : Tile) (a : DWord) : Option Nat :=
  let d := (a - t.gva).toNat
  let r := d / t.pitch
  let c := d % t.pitch
  if t.scr then none
  else if r < 128 ∧ c < rowBytes t.ty then some (r * rowBytes t.ty + c) else none

/-- The address of byte `o` of a backed tile (R156). -/
def Tile.addrOf (t : Tile) (o : Nat) : DWord :=
  t.gva + BitVec.ofNat 64 (o / rowBytes t.ty * t.pitch + o % rowBytes t.ty)

/-- Lines of a tile. -/
def Tile.lines (t : Tile) : Nat := tileBytes t.ty / 128

/-- FULL or DIRTY (R160). -/
def Tile.isFull (t : Tile) : Bool :=
  match t.st with
  | .full | .dirty => true
  | _ => false

/-- The contexts of a cluster. -/
def clusterCtxs (cl : Nat) : List Nat := (List.range 32).map fun i => cl * 32 + i

/-- The backed tile of a cluster that stands for an address, and the byte in it: context, handle,
byte (R158). DEDUCED, log 22. -/
def State.tileAt (s : State) (cl : Nat) (a : DWord) : Option (Nat × Nat × Nat) :=
  (clusterCtxs cl).findSome? fun c =>
    (s.ctx c).tiles.findSome? fun e =>
      match e.2 with
      | some t => (t.offsetOf a).map fun o => (c, e.1, o)
      | none => none

/-- Every tile that shares a line of memory: context, handle, line of the tile (R11, R160). DEDUCED, log 18. -/
def State.sharers (s : State) (line : Nat) : List (Nat × Nat × Nat) :=
  s.ctxs.flatMap fun cx =>
    cx.2.tiles.flatMap fun e =>
      match e.2 with
      | some t => (t.phys.filter fun j => decide (j.2 = line + 1)).map fun j => (cx.1, e.1, j.1)
      | none => []

/-- One line of a tile goes to the line that its fill recorded (R158, R160); the write is dropped and logged where
memory refuses it by now (R119, R228). DESIGN CHOICE, log 33. -/
def State.writeBackLine (s : State) (who : Nat) (t : Tile) (j line : Nat) : State :=
  let a := linePlace line
  if a.1 < hostSpace ∧ s.refuses a.1 a.2 true = true then s.logRefused a.1 who a.2
  else
    { s.wrMem (line * 128) (Store.list 0 t.data (j * 128) 128) with
      poison := (s.poison.filter fun l => decide (l ≠ line)) ++ if j ∈ t.poison then [line] else [] }

/-- A tile's bytes go to the lines that its fill recorded, for a requester (R158, R160). -/
def State.writeBack (s : State) (who : Nat) (t : Tile) : State :=
  t.phys.foldl (fun s j =>
    match j.2 with
    | 0 => s
    | l + 1 => s.writeBackLine who t j.1 l) s

/-- The tile gives up its contents (R160, → EMPTY). -/
def Tile.emptied (t : Tile) : Tile :=
  { t with st := .empty, data := [], ro := [], phys := [], poison := [] }

/-- The whole-tile write of an MXST takes effect (R160, R206). -/
def Tile.stored (t : Tile) (st : TileSt) : Tile :=
  { t with data := t.pend, pend := [], poison := [], st := st, busy := t.busy.filter fun b => decide (b ≠ .mxst) }

/-- Another agent's access to a line has to wait while a tile that shares it is busy, `own` apart: a write for
any such tile, a read for one that is DIRTY or that MXST is writing; every request may have to wait at its router
(R160, R197, R199, R200, R206, R279, R280). -/
def State.lineBusy (s : State) (line : Nat) (own : Option (Nat × Nat)) (write : Bool) : Bool :=
  s.reqWaits line || (s.sharers line).any fun x =>
    decide (own ≠ some (x.1, x.2.1)) &&
      match s.tile x.1 x.2.1 with
      | some t =>
        decide (t.busy ≠ []) && (write || decide (t.st = .dirty) || decide (BusyBy.mxst ∈ t.busy))
      | none => false

/-- Another agent's access to a run of bytes has to wait for a busy tile or at a router (R160, R197, R279, R280). -/
def State.spanBusy (s : State) (k n : Nat) (write : Bool) : Bool := (linesOf k n).any fun l => s.lineBusy l none write

/-- An MXST still in flight comes before what the device itself does to a tile's lines. DEDUCED, log 18. -/
def Tile.settled (t : Tile) : Tile := if BusyBy.mxst ∈ t.busy then t.stored .dirty else t

/-- A tile as another agent's write of one of its lines leaves it (R160). The accesses of programs, engines,
peers and the host have waited until it is not busy (`State.lineBusy`); for a write by the device itself (a status
word, a log record, a save area) an MXST still in flight comes first. DEDUCED, log 18. -/
def State.recallTile (s : State) (c th : Nat) : State :=
  match s.tile c th with
  | none => s
  | some t0 =>
    let t := t0.settled
    match t.st with
    | .full => s.setTile c th (some t.emptied)
    | .dirty => (s.writeBack (reqOfCtx (s.ctx c).part c) t).setTile c th (some t.emptied)
    | _ => s

/-- Another agent writes a line: every tile that shares it gives it up, but `own` (R160). DEDUCED, log 18. -/
def State.recall (s : State) (line : Nat) (own : Option (Nat × Nat)) : State :=
  (s.sharers line).foldl (fun s x => if own = some (x.1, x.2.1) then s else s.recallTile x.1 x.2.1) s

/-- The DIRTY tile that is the home of a line (R160), and the line's number in it. -/
def State.dirtyHome (s : State) (line : Nat) : Option (Tile × Nat) :=
  (s.sharers line).findSome? fun x =>
    match s.tile x.1 x.2.1 with
    | some t => if t.st = .dirty then some (t, x.2.2) else none
    | none => none

/-- A line is poisoned where it has its home: the DIRTY tile that supplies it, or memory (R312). -/
def State.lineBad (s : State) (line : Nat) : Bool :=
  match s.dirtyHome line with
  | some (t, j) => decide (j ∈ t.poison)
  | none => decide (line ∈ s.poison)

/-- Bytes within one line, from the tile that is the line's home or from memory (R160). DESIGN CHOICE, log 6. -/
def State.rdLine (s : State) (k n : Nat) : List Byte :=
  match s.dirtyHome (k / 128) with
  | some (t, j) => Store.list 0 t.data (j * 128 + k % 128) n
  | none => s.rdMem k n

/-- Bytes within one line written by an agent other than the tiles that share the line.
DESIGN CHOICE, log 6, 33. -/
def State.wrLine (s : State) (k : Nat) (l : List Byte) : State :=
  (s.recall (k / 128) none).wrMem k l

/-- Bytes of any length, line by line; `fuel` bounds the lines. -/
def State.rdRun (s : State) : Nat → Nat → Nat → List Byte
  | 0, _, _ => []
  | fuel + 1, k, n =>
    if n = 0 then []
    else
      let m := min n (128 - k % 128)
      s.rdLine k m ++ s.rdRun fuel (k + m) (n - m)

def State.rdBytes (s : State) (k n : Nat) : List Byte := s.rdRun (n / 128 + 2) k n

def State.wrRun (s : State) : Nat → Nat → List Byte → State
  | 0, _, _ => s
  | fuel + 1, k, l =>
    if l = [] then s
    else
      let m := 128 - k % 128
      (s.wrLine k (l.take m)).wrRun fuel (k + m) (l.drop m)

def State.wrBytes (s : State) (k : Nat) (l : List Byte) : State := s.wrRun (l.length / 128 + 2) k l

/-! ### Partition memory: translation -/

/-- What translation and the checks of memory make of an address (R119, R120, R162). -/
inductive XRes where
  | ok (key : Nat) (writable : Bool)
  | refused
  | miss
  | hostGone
  deriving DecidableEq, Repr

/-- Pages of 4 KiB in a page of a size. -/
def pagesIn : PageSize → Nat
  | .k4 => 1 | .k64 => 16 | .m2 => 512 | .g1 => 262144

/-- The first page of 4 KiB of the page of a size that holds page `vp`. -/
def pageBase (z : PageSize) (vp : Nat) : Nat := vp / pagesIn z * pagesIn z

/-- Where the mapping of a size that holds page `vp` stands among a partition's mappings. -/
def pageSlot (z : PageSize) (vp : Nat) : Nat := pageBase z vp * 4 + z.ctorIdx

/-- The mapping of size `z` that covers a page, as it maps that page of 4 KiB. -/
def Part.pageAt (P : Part) (vp : Nat) (z : PageSize) : Option PageMap :=
  (Store.get none P.pages (pageSlot z vp)).map fun e =>
    { e with ppage := e.ppage + vp % pagesIn z, size := .k4 }

/-- What the guest stage makes of a page of 4 KiB of a partition: a page of partition memory or of host memory
(R162). The smaller page goes before the larger, and a page that nothing has mapped stands for itself.
DESIGN CHOICE, log 8. -/
def Part.guestPage (P : Part) (vp : Nat) : PageMap :=
  match [PageSize.k4, .k64, .m2, .g1].findSome? (P.pageAt vp) with
  | some e => e
  | none => { present := true, writable := true, host := false, ppage := vp }

/-- What the host stage makes of a page of partition memory (R162, R269): one that Gecko has evicted or put elsewhere
has an entry, every other stands for itself. DESIGN CHOICE, log 8. -/
def Part.hostPage (P : Part) (gp : Nat) : PageMap :=
  match Store.get none P.hostPages gp with
  | some e => e
  | none => { present := true, writable := true, host := false, ppage := gp }

/-- The two stages of translation, the guest stage first (R162). -/
def Part.page (P : Part) (vp : Nat) : PageMap :=
  let g := P.guestPage vp
  if g.host = true ∨ g.present = false then g
  else { P.hostPage g.ppage with writable := g.writable && (P.hostPage g.ppage).writable }

/-- A mapping of the guest stage is installed in place of those that it covers. -/
def Part.setPage (P : Part) (vp : Nat) (e : PageMap) : Part :=
  let n := pagesIn e.size
  let b := pageBase e.size vp
  let rest := P.pages.filter fun x => decide (x.1 / 4 < b ∨ b + n ≤ x.1 / 4 ∨ e.size.ctorIdx < x.1 % 4)
  { P with pages := Store.set none rest (pageSlot e.size vp) (some { e with ppage := pageBase e.size e.ppage }) }

/-- Host-backed memory of a partition is out of reach: the link is down, or none of the partition's functions has
attached since it was (R120, R292). -/
def State.hostGone (s : State) (p : Nat) : Bool := decide (s.host.link = .down) || (s.part p).gone

/-- Translate an address of partition `p` for an access (R119, R120, R162, R292). An address that the checks of
memory refuse is refused whatever rights its page gives: a store there is dropped and logged and raises no
PROTECTION. DESIGN CHOICE, log 8; DEDUCED, log 95. -/
def State.xlate (s : State) (p : Nat) (a : DWord) (write : Bool) : XRes :=
  let e := (s.part p).page (a.toNat / 4096)
  let pa := e.ppage * 4096 + a.toNat % 4096
  if e.host = true ∧ s.hostGone p = true then .hostGone
  else if e.present = false then .miss
  else if e.host then .ok (keyOf hostSpace pa) e.writable
  else if s.refuses p pa write then .refused
  else .ok (keyOf p pa) e.writable

/-! ### Traps (R89 to R92) -/

/-- Cause codes (R92). -/
def Cause.code : Cause → Nat
  | .illegalOpcode => 0x01 | .illegalOperand => 0x02 | .illegalFormat => 0x03
  | .illegalGroup => 0x04 | .schedule => 0x05 | .bankConflict => 0x06 | .align => 0x07
  | .lateMiss => 0x08 | .fillFault => 0x09 | .protection => 0x0a | .termsDenied => 0x0b
  | .termsExhausted => 0x0c | .termsExpired => 0x0d | .useSpan => 0x0e | .useState => 0x0f
  | .frontierUnderflow => 0x10 | .integrity => 0x11 | .eccUncorrected => 0x12
  | .softwareTrap => 0x13 | .frontierOrder => 0x14 | .hostGone => 0x15 | .linkFailed => 0x16

/-- Whether Gecko may resume the context (R92). -/
def Cause.recoverable : Cause → Bool
  | .lateMiss | .fillFault | .softwareTrap | .hostGone | .linkFailed => true
  | _ => false

/-- The 64 bytes of a trap record (R91). -/
def TrapRec.bytes (r : TrapRec) : List Byte :=
  leBytes 8 r.addr.toNat ++ leBytes 1 r.cause.code ++ leBytes 1 r.slot.toNat ++
    leBytes 1 r.performed.toNat ++ leBytes 1 r.ctx.toNat ++ leBytes 4 r.flags.toNat ++
    leBytes 8 r.operand.toNat ++ leBytes 16 r.time.toNat ++ leBytes 4 r.terms.toNat ++
    leBytes 4 r.owner.toNat ++ leBytes 8 r.detail.toNat ++ leBytes 1 r.latched.toNat ++
    leBytes 1 r.fshadow.toNat ++ leBytes 6 0

/-- Exposed results pending in latches: special-function results and a block in transfer (R88,
R189). -/
def Ctx.latched (x : Ctx) : Nat := x.sf.length + if x.tr.xfer.isSome then 1 else 0

/-- Bundles left in a `fmt` shadow, 0 to 3 (R67, R91). -/
def Ctx.fshadow (x : Ctx) : Nat := x.fmtPend.foldl (fun m e => max m (e.1 - 1)) 0

/-- The lowest faulting slot's fault (R89). -/
def lowestFault : List SlotFault → Option SlotFault
  | [] => none
  | f :: t =>
    match lowestFault t with
    | some g => if g.slot < f.slot then some g else some f
    | none => some f

/-- Operand and detail of a record; where the spec names none the field is a free value.
DESIGN CHOICE, log 4, 31. -/
def State.orFree (s : State) (x : Option DWord) (salt : Nat) : DWord :=
  match x with
  | some v => v
  | none => Config.freeDWord (2 * s.freeCtr + salt)

/-- The record of a fault of context `c` (R91). DESIGN CHOICE, log 31. -/
def State.trapRec (s : State) (c : Nat) (f : SlotFault) : TrapRec :=
  let x := s.ctx c
  { addr := x.iss.addr
    cause := f.cause
    slot := BitVec.ofNat 8 f.slot
    performed := x.iss.performed
    ctx := BitVec.ofNat 8 (c % 32)
    flags := if f.cause.recoverable then 1 else 0
    operand := s.orFree f.operand 0
    time := x.iss.time
    terms := f.terms
    owner := BitVec.ofNat 32 x.part
    detail := s.orFree f.detail 1
    latched := BitVec.ofNat 8 x.latched
    fshadow := BitVec.ofNat 8 x.fshadow }

/-- A record joins those that wait, in the order of the cycles and then of the contexts (R211). -/
def insertTrap (now : Nat) (r : TrapRec) : List (Nat × TrapRec) → List (Nat × TrapRec)
  | [] => [(now, r)]
  | x :: t => if x.1 = now ∧ r.ctx.toNat < x.2.ctx.toNat then (now, r) :: x :: t else x :: insertTrap now r t

/-- A trap record on its way to the Gecko of a context's cluster (R14, R211). -/
def State.sendTrap (s : State) (c : Nat) (r : TrapRec) : State :=
  (s.updCluster (clusterOf c) fun k => { k with trWait := insertTrap s.cycle r k.trWait }).after 1
    (.trapRecordAppend (clusterOf c))

/-- TAKING AN EXCEPTION (R89): the context freezes with its bundle in the replay buffer, every
outstanding result finishes into its latch, the trap record of the lowest faulting slot goes to
Gecko and into the partition's log. The program counter stays at the bundle, where a resume
replays it. -/
def State.takeTrap (s : State) (c : Nat) : State :=
  match lowestFault (s.ctx c).iss.faults with
  | none => s
  | some f =>
    let r := s.trapRec c f
    let s1 := s.updCtx c fun x =>
      { x with
        frozen := true
        trap := some r
        sf := x.sf.map fun q => { q with latched := true } }
    let s2 := { s1 with freeCtr := s1.freeCtr + 1 }
    (s2.sendTrap c r).addLog (s.ctx c).part 1 f.cause.code r.operand.toNat
      (reqOfCtx (s.ctx c).part c) r.detail.toNat

/-- A fault of the bundle as a whole: slot 0xF, no slot performs (R25, R26, R28, R88). -/
def State.bundleFault (s : State) (c : Nat) (slot : Nat) (cause : Cause) (operand : Option DWord) :
    State :=
  (s.updCtx c fun x =>
    { x with iss := { x.iss with performed := 0, faults := [⟨slot, cause, operand, none, 0⟩] } }
    ).takeTrap c

/-- A FAULTED backed tile after a resume (R168). -/
def Tile.refill (t : Tile) : Tile := if t.st = .faulted ∧ t.scr = false then t.emptied else t

/-- The ring slot tile that a command aims at. -/
def CmdKind.ringTile : CmdKind → Option Nat
  | .copy _ (some r) => some r.2
  | .gath _ _ _ (some r) => some r.2
  | _ => none

/-- Restart a failed command (R168). -/
def State.restartCmd (s : State) (k : Nat) (q : Cmd) : State :=
  let s1 :=
    match q.kind.ringTile with
    | some th => s.updTile q.ctx th Tile.emptied
    | none => s
  (s1.updCore k fun r =>
    { r with journal := r.journal.map fun e =>
        if e.id = q.id then { e with failed := none, started := false } else e }).after 0
    (.dmCommandStart k q.id)

/-- Restart every failed command of a context and set its FAULTED backed tiles EMPTY (R168). -/
def State.restartFailed (s : State) (c : Nat) : State :=
  (s.cores.foldl (fun s e =>
    (e.2.journal.filter fun q => decide (q.ctx = c) && q.failed.isSome).foldl
      (fun s q => s.restartCmd e.1 q) s) s).updCtx c fun x =>
        { x with tiles := x.tiles.map fun e => (e.1, e.2.map Tile.refill) }

/-- RETURNING FROM AN EXCEPTION (R90, R212): a context frozen on a recoverable fault goes on with
the unperformed slots of the bundle in its replay buffer, at the start of an issue group (R24).
After a FILL_FAULT or HOST_GONE its failed commands restart (R168). Any other context is left as it
is. -/
def State.resume (s : State) (c : Nat) : State :=
  match (s.ctx c).trap with
  | none => s
  | some r =>
    if (s.ctx c).frozen = true ∧ r.cause.recoverable = true then
      let s1 := s.updCtx c fun x =>
        { x with
          frozen := false
          groupLen := 0
          groupR := []
          groupW := []
          iss := { x.iss with faults := [], replay := true } }
      if r.cause = .fillFault ∨ r.cause = .hostGone then s1.restartFailed c else s1
    else s

end Sys2Proof.Machine
end

