-- ==== Sys2Proof/Machine/Operands.lean ====
section
/-!
DEFINITION. What an instruction word names: the registers it reads and writes (R25), the lane groups
it occupies (R132), whether it closes its issue group (R24), its memory accesses (R121), and the
forms in which operands are given: immediates, effective addresses, regions of lanes, elements.
-/
namespace Sys2Proof

/-- A slot's predicate field as an absolute number (R23): `p`n in VA, `p`(8+n) in VB. XU names
`p0` to `p7` (R183). -/
def Slot.pred (sl : Slot) (p : BitVec 3) : BitVec 4 :=
  (if sl = .vb then (1 : BitVec 1) else 0) ++ p

/-- Width in lane groups (R23). -/
def Width.groups : Width → Nat
  | .w1024 => 1 | .w2048 => 2 | .w4096 => 4

/-- Width in bits. -/
def Width.bits (w : Width) : Nat := 1024 * w.groups

/-- Lane groups of a region (R131). -/
def Lanes.groups (l : Lanes) : List Nat := (List.range l.w.groups).map fun i => l.lg.toNat + i

open Sys2Proof.Machine

/-- Registers that R25 names; `s0`, `p0` and `p8` are none of them. -/
def Machine.RegId.tracked : RegId → Bool
  | .s n => decide (n ≠ 0)
  | .p n => decide (n ≠ 0 ∧ n ≠ 8)
  | _ => true

def rowReads : RowSel → List RegId
  | .imm _ => []
  | .reg s => [.s s]

/-- Every register that a slot's instruction reads, `s0`, `p0` and `p8` included. The scalar that an MTS
to a read-only register names counts, and so does the scalar that any MFS writes (`writesAll`): the special
register alone takes no part in the check (R25, R110). DEDUCED, log 89. -/
def Instr.readsAll (i : Instr) (sl : Slot) : List RegId :=
  match i with
  | .brc _ s _ => [.s s]
  | .brp _ p _ => [.p p]
  | .jmpr a | .callr a | .loop a _ | .fmtsets a | .waitks a | .mts _ a | .useopen _ a => [.s a]
  | .ret => [.s 62]
  | .mfs _ r => if r = 0x020 then [.fmt] else []
  | .add _ a b | .sub _ a b | .and _ a b | .or _ a b | .xor _ a b | .andn _ a b | .shl _ a b
  | .shr _ a b | .sra _ a b | .mul _ a b | .mulh _ a b | .mulhu _ a b | .div _ a b | .divu _ a b
  | .rem _ a b | .remu _ a b | .min _ a b | .max _ a b | .minu _ a b | .maxu _ a b | .slt _ a b
  | .sltu _ a b | .seq _ a b | .sne _ a b | .fadd _ a b | .fsub _ a b | .fmul _ a b | .fmin _ a b
  | .fmax _ a b | .fcmplt _ a b | .fcmple _ a b | .fcmpeq _ a b | .fdiv _ a b
  | .adds _ a b _ => [.s a, .s b]
  | .clz _ a | .ctz _ a | .popc _ a | .addi _ a _ | .andi _ a _ | .ori _ a _ | .xori _ a _
  | .shli _ a _ | .shri _ a _ | .srai _ a _ | .slti _ a _ | .sltiu _ a _ | .ldb _ a _ | .ldbu _ a _
  | .ldh _ a _ | .ldhu _ a _ | .ldw _ a _ | .ldwu _ a _ | .ldd _ a _ | .ldaq _ _ a | .fcvtif _ a
  | .fcvtfi _ a | .fsqrt _ a => [.s a]
  | .sel _ a b c => [.s a, .s b, .s c]
  | .stb d a _ | .sth d a _ | .stw d a _ | .std d a _ | .strl _ d a => [.s d, .s a]
  | .amo _ _ _ _ _ a b => [.s a, .s b]
  | .cas _ _ _ d a b | .fma d a b => [.s d, .s a, .s b]
  | .vadd _ a b l | .vsub _ a b l | .vmul _ a b l | .vmin _ a b l | .vmax _ a b l | .vsel _ a b l
  | .vshl _ a b l | .vshr _ a b l | .vsra _ a b l | .vperm _ a b l | .vcmp _ _ a b l =>
    [.v a, .v b, .p (sl.pred l.p)]
  | .vfma d a b l | .vfms d a b l => [.v d, .v a, .v b, .p (sl.pred l.p)]
  | .vabs _ a l | .vneg _ a l | .vcvt _ a _ _ l | .vred _ _ a l | .vclass _ a l =>
    [.v a, .p (sl.pred l.p)]
  | .vswp d a l => [.v d, .v a, .p (sl.pred l.p)]
  | .vlog3 d a b _ => [.v d, .v a, .v b]
  | .vbcast _ a l => [.s a, .p (sl.pred l.p)]
  | .vget _ a b => [.v a, .s b]
  | .viota _ l => [.p (sl.pred l.p)]
  | .vacr _ _ row => rowReads row
  | .vacw v _ row => .v v :: rowReads row
  | .plog _ pa pb _ => [.p (sl.pred pa), .p (sl.pred pb)]
  | .pxfer _ ps => [.p ps]
  | .vld _ s _ l => [.s s, .p (sl.pred l.p)]
  | .vst v s _ l => [.v v, .s s, .p (sl.pred l.p)]
  | .vlds _ s b l => [.s s, .s b, .p (sl.pred l.p)]
  | .vsts v s b l => [.v v, .s s, .s b, .p (sl.pred l.p)]
  | .vgath _ s b l => [.s s, .v b, .p (sl.pred l.p)]
  | .vscat v s b l => [.v v, .s s, .v b, .p (sl.pred l.p)]
  | .xexp2 _ a l | .xlog2 _ a l | .xrcp _ a l | .xrsqrt _ a l | .xsqrt _ a l | .xtanh _ a l
  | .xsigm _ a l => [.v a, .p (sl.pred l.p)]
  | .trpush a _ => [.v a]
  | .mxepi _ vs vz => [.v vs, .v vz]
  | .mxcb _ a | .mxsa a => [.v a]
  | .tmap _ a | .sctld a | .enq _ a _ | .deq _ a | .coll a _ => [.s a]
  | .probe _ a b | .unprobe a b | .cpylv _ a b | .cpybs a b | .gath a b _ _ | .rbinit _ a b =>
    [.s a, .s b]
  | .l2lock _ a b | .l2unlk _ a b => [.s a, .s b]
  | .cpycv d a b => [.s d, .s a, .s b]
  | _ => []

/-- Every register that a slot's instruction writes. -/
def Instr.writesAll (i : Instr) (sl : Slot) : List RegId :=
  match i with
  | .call _ | .callr _ => [.s 62]
  | .mts r _ => if r = 0x020 then [.fmt] else []
  | .mfs d _ | .testf d _ _ | .useq d _ => [.s d]
  | .add d _ _ | .sub d _ _ | .and d _ _ | .or d _ _ | .xor d _ _ | .andn d _ _ | .shl d _ _
  | .shr d _ _ | .sra d _ _ | .mul d _ _ | .mulh d _ _ | .mulhu d _ _ | .div d _ _ | .divu d _ _
  | .rem d _ _ | .remu d _ _ | .min d _ _ | .max d _ _ | .minu d _ _ | .maxu d _ _ | .slt d _ _
  | .sltu d _ _ | .seq d _ _ | .sne d _ _ | .fadd d _ _ | .fsub d _ _ | .fmul d _ _ | .fmin d _ _
  | .fmax d _ _ | .fcmplt d _ _ | .fcmple d _ _ | .fcmpeq d _ _ | .fdiv d _ _ | .fma d _ _
  | .adds d _ _ _ | .sel d _ _ _ | .addi d _ _ | .andi d _ _ | .ori d _ _ | .xori d _ _
  | .shli d _ _ | .shri d _ _ | .srai d _ _ | .slti d _ _ | .sltiu d _ _ | .ldb d _ _ | .ldbu d _ _
  | .ldh d _ _ | .ldhu d _ _ | .ldw d _ _ | .ldwu d _ _ | .ldd d _ _ | .vget d _ _ => [.s d]
  | .clz d _ | .ctz d _ | .popc d _ | .fcvtif d _ | .fcvtfi d _ | .fsqrt d _ | .lui d _ => [.s d]
  | .ldaq _ d _ => [.s d]
  | .amo _ _ _ _ d _ _ => [.s d]
  | .cas _ _ _ d _ _ => [.s d]
  | .vadd d _ _ _ | .vsub d _ _ _ | .vmul d _ _ _ | .vfma d _ _ _ | .vfms d _ _ _ | .vmin d _ _ _
  | .vmax d _ _ _ | .vsel d _ _ _ | .vlog3 d _ _ _ | .vshl d _ _ _ | .vshr d _ _ _ | .vsra d _ _ _
  | .vperm d _ _ _ | .vld d _ _ _ | .vlds d _ _ _ | .vgath d _ _ _ => [.v d]
  | .vabs d _ _ | .vneg d _ _ | .vbcast d _ _ | .vacr d _ _ | .vclass d _ _ => [.v d]
  | .viota d _ | .mxrs d _ | .trpop d _ => [.v d]
  | .vcvt d _ _ _ _ => [.v d]
  | .vred _ d _ _ => [.v d]
  | .vswp d a _ => if d = a then [.v d] else [.v d, .v a]
  | .vcmp pd _ _ _ _ => [.p (sl.pred pd)]
  | .plog pd _ _ _ => [.p (sl.pred pd)]
  | .pxfer pd _ => [.p (sl.pred pd)]
  | .xexp2 d _ _ | .xlog2 d _ _ | .xrcp d _ _ | .xrsqrt d _ _ | .xsqrt d _ _ | .xtanh d _ _
  | .xsigm d _ _ => [.v d]
  | .l2lock d _ _ | .l2unlk d _ _ => [.s d]
  | _ => []

/-- The reads and writes that R25 and R26 look at. -/
def Instr.reads (i : Instr) (sl : Slot) : List RegId := (i.readsAll sl).filter RegId.tracked
def Instr.writes (i : Instr) (sl : Slot) : List RegId := (i.writesAll sl).filter RegId.tracked

/-- Lane groups that a VA or VB instruction occupies (R132). -/
def Instr.laneGroups : Instr → List Nat
  | .vadd _ _ _ l | .vsub _ _ _ l | .vmul _ _ _ l | .vfma _ _ _ l | .vfms _ _ _ l | .vmin _ _ _ l
  | .vmax _ _ _ l | .vsel _ _ _ l | .vshl _ _ _ l | .vshr _ _ _ l | .vsra _ _ _ l | .vperm _ _ _ l
  | .vld _ _ _ l | .vst _ _ _ l | .vlds _ _ _ l | .vsts _ _ _ l | .vgath _ _ _ l | .vscat _ _ _ l
  | .vcmp _ _ _ _ l | .vabs _ _ l | .vneg _ _ l | .vbcast _ _ l | .vclass _ _ l | .vswp _ _ l
  | .viota _ l | .vcvt _ _ _ _ l | .vred _ _ _ l => l.groups
  | .vlog3 .. | .vacr .. | .vacw .. => [0, 1, 2, 3]
  | _ => []

/-- Whether a CTL instruction closes its issue group (R24). -/
def Instr.closes : Instr → Bool
  | .nopCtl | .fmtset _ | .fmtsets _ | .mfs _ _ | .testf _ _ _ => false
  | i => decide (i.slotClass = .ctl)

/-- A synchronous memory access of a slot: its kind (R46). -/
def Instr.access : Instr → Option AccKind
  | .ldb .. | .ldbu .. | .ldh .. | .ldhu .. | .ldw .. | .ldwu .. | .ldd .. | .vld .. | .vlds ..
  | .vgath .. | .ldaq .. => some .load
  | .stb .. | .sth .. | .stw .. | .std .. | .strl .. | .vst .. | .vsts .. | .vscat .. => some .store
  | .amo .. | .cas .. => some .atomic
  | _ => none

/-- A store of a slot performs after every read of the bundle (R41, R121). -/
def Instr.isStore (i : Instr) : Bool := decide (i.access = some .store)

/-- The completion point of the device scope or the system scope (R40). -/
def sysStage (sys : Bool) : Nat := if sys then 3 else 2

/-- The completion point that earlier accesses must have passed before a release performs; 0 for an
instruction that is no release (R45). -/
def Instr.releaseAt : Instr → Nat
  | .strl .. => 2
  | .amo _ _ o sys _ _ _ | .cas _ o sys _ _ _ => if o = .rel ∨ o = .acqrel then sysStage sys else 0
  | _ => 0

end Sys2Proof

namespace Sys2Proof.Machine

open Sys2Proof

/-! ### Forms of operands -/

/-- A sign-extended immediate (R23). -/
def sxImm {n : Nat} (i : BitVec n) : DWord := i.signExtend 64
/-- A zero-extended immediate (R23). -/
def zxImm {n : Nat} (i : BitVec n) : DWord := i.setWidth 64

/-- Effective address of a plain load or store (R118). -/
def State.ea (s : State) (a : BitVec 6) (imm : BitVec 16) : DWord := s.opS a + sxImm imm

/-- Target of a direct branch (R96): the bundle's header address plus four times the offset. -/
def branchTarget {n : Nat} (h : DWord) (off : BitVec n) : DWord := h + (off.signExtend 64 <<< 2)

/-- Address of the bundle that follows one (R98). -/
def nextBundle (addr : DWord) (hdr : Word) : DWord :=
  addr + BitVec.ofNat 64 (4 * bundleWords hdr)

/-- The image that a context runs. -/
def State.image (s : State) (c : Nat) : Option Image :=
  Store.get none (s.part (s.ctx c).part).images (s.ctx c).image

/-- The text of that image in the instruction store of the context's cluster (R7, R11, R21). -/
def State.text (s : State) (c : Nat) : Option Text :=
  Store.get none (s.cluster (clusterOf c)).istore (s.ctx c).image

/-- The words of the bundle that holds word `n` of a text: its first, and the one behind its last. -/
def Text.span (g : Text) (n : Nat) : Nat × Nat :=
  (g.starts.foldl (fun m x => if x ≤ n then max m x else m) 0,
    g.starts.foldl (fun m x => if n < x then min m x else m) g.len)

/-- A word of a text, as the fetch buffer opens it, one bundle at a time (R302). DESIGN CHOICE, log 24, 96. -/
def Text.word (g : Text) (n : Nat) : Word :=
  match g.key with
  | none => Store.get 0 g.words n
  | some k =>
    let x := g.span n
    let l := (List.range (x.2 - x.1)).flatMap fun i => leBytes 4 (Store.get 0 g.words (x.1 + i)).toNat
    BitVec.ofNat 32 (leNat (((Config.textOpen k (g.off + 4 * x.1) l).drop (4 * (n - x.1))).take 4))

/-- Bytes of an instruction store (R1, R11). -/
def storeBytes : Nat := 512 * 1024

/-- Texts, the newest first, that fit in `room` bytes; that of image `h` has its place already. -/
def keepTexts (h : Nat) : Nat → List (Nat × Option Text) → List (Nat × Option Text)
  | _, [] => []
  | room, e :: t =>
    let n := 4 * ((e.2.map Text.len).getD 0)
    if e.1 = h then e :: keepTexts h room t
    else if n ≤ room then e :: keepTexts h (room - n) t
    else keepTexts h room t

/-- A Gecko loads a text into its instruction store; texts of earlier images give way for it (R11, R14).
DESIGN CHOICE, log 96. -/
def Cluster.loadText (k : Cluster) (h : Nat) (g : Text) : Cluster :=
  { k with
    istore := (keepTexts h (storeBytes - 4 * g.len) (Store.set none k.istore h (some g)).reverse).reverse
    textBad := k.textBad.filter fun x => decide (x.1 ≠ h) }

/-- Gecko brings the text that a context needs, where its instruction store has it no longer (R14).
DESIGN CHOICE, log 96. -/
def State.withText (s : State) (c : Nat) : State :=
  match s.text c, s.image c with
  | none, some g => s.updCluster (clusterOf c) fun k => k.loadText (s.ctx c).image g.text
  | _, _ => s

/-- Whether an address is a bundle start of a text (R21). -/
def Text.isStart (g : Text) (a : DWord) : Bool :=
  decide (a.toNat % 4 = 0) && decide (a.toNat / 4 ∈ g.starts) && decide (a.toNat / 4 < g.len)

/-- The header word at an address of a context's text. -/
def State.headerAt (s : State) (c : Nat) (a : DWord) : Word :=
  match s.text c with
  | some g => g.word (a.toNat / 4)
  | none => 0

/-- The bundle after the one at an address. -/
def State.bundleAfter (s : State) (c : Nat) (a : DWord) : DWord := nextBundle a (s.headerAt c a)

end Sys2Proof.Machine
end

