-- ==== Sys2Proof/Machine/Access.lean ====
section
/-!
DEFINITION. Synchronous memory accesses of a context: where an address goes (R39, R119, R147), what a
read returns, what a write changes, and how an access stays outstanding (R40, R122, R128).
-/
namespace Sys2Proof.Machine

open Sys2Proof

/-- Where one access unit goes, and what keeps it from going there. -/
inductive Route where
  /-- byte `o` of tile `th` of context `c`, which is FULL or DIRTY and not busy -/
  | stash (c th o : Nat)
  /-- a byte of memory -/
  | mem (key : Nat)
  /-- refused or sealed: reads all ones, drops writes, is logged (R119) -/
  | refused
  /-- an EMPTY backed tile: its fill starts and the bundle blocks (R160) -/
  | start (c th : Nat)
  /-- a FILLING or busy tile: the bundle blocks (R80) -/
  | wait
  /-- a line that a busy tile of another cluster shares: the bundle stalls until it is free (R160, R199) -/
  | busy
  | faulted
  | miss
  | prot
  | hostGone
  | poison
  deriving DecidableEq, Repr

/-- The route of an access through a tile (R158 to R160). -/
def Tile.route (t : Tile) (c th o : Nat) (read write : Bool) : Route :=
  if t.sealed then .refused
  else if t.busy ≠ [] then .wait
  else
    match t.st with
    | .empty => .start c th
    | .filling => .wait
    | .faulted => .faulted
    | .full | .dirty =>
      if write = true ∧ o / 128 ∈ t.ro then .prot
      else if read = true ∧ o / 128 ∈ t.poison then .poison
      else .stash c th o

/-- The route of an access that no tile of the cluster takes (R119, R120, R312). -/
def State.memRoute (s : State) (c : Nat) (a : DWord) (read write : Bool) : Route :=
  match s.xlate (s.ctx c).part a write with
  | .ok key w =>
    if write = true ∧ w = false then .prot
    else if s.lineBusy (key / 128) none write then .busy
    else if read = true ∧ s.lineBad (key / 128) = true then .poison
    else .mem key
  | .refused => .refused
  | .miss => .miss
  | .hostGone => .hostGone

/-- A line of a tile that is refused: a region sealed since covers the line that its fill recorded, or its fill was
refused it (R119, R162, R228). -/
def State.lineRefused (s : State) (t : Tile) (o j : Nat) : Bool :=
  match Store.get 0 t.phys j with
  | 0 => decide (s.xlate (s.ctx o).part (t.addrOf (128 * j)) true = .refused)
  | l + 1 => (s.sealedBy (linePlace l).1 (linePlace l).2).isSome

/-- A write to a line of a tile waits while a tile elsewhere that shares the line is busy. -/
def State.tileRoute (s : State) (t : Tile) (o th b : Nat) (read write : Bool) : Route :=
  let r := t.route o th b read write
  match r with
  | .stash _ _ _ | .prot | .poison =>
    if s.lineRefused t o (b / 128) then .refused
    else
      match r, Store.get 0 t.phys (b / 128) with
      | .stash _ _ _, l + 1 => if write = true ∧ s.lineBusy l (some (o, th)) true = true then .busy else r
      | _, _ => r
  | _ => r

/-- The route of an access of context `c` at an address. -/
def State.route (s : State) (c : Nat) (a : DWord) (read write : Bool) : Route :=
  match s.tileAt (clusterOf c) a with
  | some (o, th, b) =>
    match s.tile o th with
    | some t => s.tileRoute t o th b read write
    | none => .refused
  | none => s.memRoute c a read write

/-- The route of a byte further on in the same line. -/
def Route.plus (r : Route) (n : Nat) : Route :=
  match r with
  | .stash c th o => .stash c th (o + n)
  | .mem k => .mem (k + n)
  | r => r

/-- Whether the route leaves the cluster (R39). -/
def Route.isRemote : Route → Bool
  | .stash _ _ _ => false
  | _ => true

/-- The value that `n` bytes of one line read as. DESIGN CHOICE, log 6. -/
def State.readAt (s : State) (r : Route) (n : Nat) : Nat :=
  match r with
  | .stash c th o =>
    match s.tile c th with
    | some t => leNat (Store.list 0 t.data o n)
    | none => 2 ^ (8 * n) - 1
  | .mem k => leNat (s.rdLine k n)
  | _ => 2 ^ (8 * n) - 1

/-- A line of memory becomes the cluster's own: every other tile that shares it gives it up. -/
def State.ownLine (s : State) (c th j : Nat) : State :=
  match s.tile c th with
  | some t =>
    match Store.get 0 t.phys j with
    | 0 => s
    | l + 1 => s.recall l (some (c, th))
  | none => s

/-- Write bytes of one line. A write to a backed tile makes it DIRTY (R160). DESIGN CHOICE, log 6. -/
def State.writeAt (s : State) (r : Route) (l : List Byte) : State :=
  match r with
  | .stash c th o =>
    (s.ownLine c th (o / 128)).updTile c th fun t =>
      { t with data := Store.put 0 t.data o l, st := if t.scr then t.st else .dirty }
  | .mem k => s.wrLine k l
  | _ => s

/-- Log a refused access of the running context (R301). -/
def State.logMine (s : State) (a : DWord) : State :=
  s.logRefused s.me.part (reqOfCtx s.me.part s.cur) a.toNat

/-- Result number `id` in a register becomes usable `dt` cycles from now (R128, R151). -/
def State.pendAt (s : State) (reg : Option RegId) (id dt : Nat) : State :=
  match reg with
  | some r =>
    if dt ≤ 1 then s
    else (s.updMe fun c => { c with score := c.score ++ [⟨id, r⟩] }).schedule dt
      (.resultLanding s.cur id)
  | none => s

/-- Access number `id` is outstanding, where it is remote or later accesses wait for it; its first
completion point comes in `dt` cycles (R40, R122). -/
def State.holdAt (s : State) (kind : AccKind) (remote : Bool) (order id dt : Nat) : State :=
  if remote || decide (order ≠ 0) then
    (s.updMe fun c => { c with outst := c.outst ++ [⟨id, kind, remote, order, 0⟩] }).schedule dt
      (.accessCompletion s.cur id)
  else s

/-- The next open duration is used up where one is taken. -/
def State.spent (s : State) (isOpen : Bool) : State :=
  { s with delays := if isOpen then s.delays.drop 1 else s.delays }

/-- Keep a result pending and an access outstanding: `reg` is the register whose value is not there
yet, `remote` and `order` as in `Access`; the result lands and the access passes its first completion
point `least` cycles from now, or after an open duration beyond that (R122, R128, R151, R322).
DESIGN CHOICE, log 3, 6. -/
def State.track (s : State) (reg : Option RegId) (kind : AccKind) (remote : Bool) (order : Nat)
    (least : Nat) (isOpen : Bool) : State :=
  let dt := least + if isOpen then s.nextDelay else 0
  (((s.spent isOpen).pendAt reg s.nextIdent dt).holdAt kind remote order s.nextIdent dt).fresh

/-- What a route that is no place does to the slot; `none` for a place or a refusal. DEDUCED, log 32. -/
def State.badRoute (s : State) (r : Route) (a : DWord) (detail : Option DWord) : Option State :=
  match r with
  | .start c th => some (s.sets (.startFill c th)).blocks
  | .wait => some s.blocks
  | .busy => some s.stalls
  | .faulted => some (s.raise .fillFault (some a) detail)
  | .miss => some (s.raise .lateMiss (some a) detail)
  | .prot => some (s.raise .protection (some a) detail)
  | .hostGone => some (s.raise .hostGone (some a) detail)
  | .poison => some (s.raise .eccUncorrected (some a) detail)
  | .stash _ _ _ | .mem _ | .refused => none

end Sys2Proof.Machine
end

