-- ==== Sys2Proof/Machine/Control.lean ====
section
/-!
DEFINITION. Instructions of the CTL slot that steer a context (R95 to R110), but EXIT, which stands in
Retire.lean, and the frontier and terms instructions.
-/
namespace Sys2Proof.Machine

open Sys2Proof

/-- An empty bundle performs nothing; its issue counts it (R19). -/
def execEmptyBundle (_spix : BitVec 6) (_sp _st : Bool) (s : State) : Out := .next s
/-- The NOP of CTL: as an absent slot (R19, R95). -/
def execNopCtl (s : State) : Out := .next s

/-! ### Branches (R96 to R98) -/

/-- Where control goes once every slot of the bundle has performed (R96). -/
def State.goto (s : State) (t : DWord) : State := s.updIss fun i => { i with target := some t }

/-- BRC conditions on a signed value (R97). -/
def BrCond.holds (cc : Sys2Proof.BrCond) (x : DWord) : Bool :=
  match cc with
  | .eqz => decide (x = 0)
  | .nez => decide (x ≠ 0)
  | .ltz => x.slt 0
  | .gez => !x.slt 0
  | .gtz => BitVec.slt 0 x
  | .lez => !BitVec.slt 0 x

/-- BRP modes over all 128 bits (R97). -/
def PredMode.holds (m : Sys2Proof.PredMode) (p : PWord) : Bool :=
  match m with
  | .any => decide (p ≠ 0)
  | .all => decide (p = BitVec.allOnes 128)
  | .none => decide (p = 0)

/-- The link L of R98: the bundle that follows the calling bundle. -/
def State.link (s : State) : DWord := nextBundle s.iss.addr s.iss.hdr

/-- R97. -/
def execBr (off : BitVec 26) (s : State) : Out := .next (s.goto (branchTarget s.iss.addr off))
/-- R97. -/
def execBrc (cc : BrCond) (x : BitVec 6) (off : BitVec 17) (s : State) : Out :=
  .next (if BrCond.holds cc (s.opS x) then s.goto (branchTarget s.iss.addr off) else s)
/-- R97. -/
def execBrp (m : PredMode) (p : BitVec 4) (off : BitVec 20) (s : State) : Out :=
  .next (if PredMode.holds m (s.opP p) then s.goto (branchTarget s.iss.addr off) else s)
/-- R98. -/
def execJmpr (a : BitVec 6) (s : State) : Out := .next (s.goto (s.opS a))
/-- R98. -/
def execCall (off : BitVec 26) (s : State) : Out :=
  .next ((s.setS 62 s.link 1).goto (branchTarget s.iss.addr off))
/-- R98: the target is read before `s62` is written. -/
def execCallr (a : BitVec 6) (s : State) : Out := .next ((s.setS 62 s.link 1).goto (s.opS a))
/-- R98. -/
def execRet (s : State) : Out := .next (s.goto (s.opS 62))

/-! ### Loops (R78, R100, R101) -/

/-- The end bundle of a LOOP (R100). -/
def State.loopEnd (s : State) (e : BitVec 14) : DWord :=
  s.iss.addr + BitVec.ofNat 64 (4 * e.toNat)

/-- push(n, end) of R78. -/
def State.pushLoop (s : State) (n : Nat) (e : BitVec 14) : State :=
  if 65535 < n then s.raise .illegalOperand (some (BitVec.ofNat 64 n)) none
  else if n = 0 then s.goto (s.bundleAfter s.cur (s.loopEnd e))
  else if s.me.ldepth = 5 then s.raise .illegalOperand none none
  else
    s.updMe fun c =>
      { c with loops := c.loops ++ [⟨0, BitVec.ofNat 16 n, s.loopEnd e, s.link⟩] }

/-- R100. -/
def execLoop (a : BitVec 6) (e : BitVec 14) (s : State) : Out :=
  .next (s.pushLoop (s.opS a).toNat e)
/-- R100. -/
def execLoopi (n : BitVec 12) (e : BitVec 14) (s : State) : Out := .next (s.pushLoop n.toNat e)

/-- R101, with n held as n - 1. -/
def execBrkl (n : Fin 5) (s : State) : Out :=
  .next
    (let k := n.val + 1
     let depth := s.me.ldepth
     if depth < k then s.raise .illegalOperand (some (BitVec.ofNat 64 k)) none
     else
       match s.me.loops[depth - k]? with
       | some l =>
         (s.updMe fun c => { c with loops := c.loops.take (depth - k) }).goto
           (s.bundleAfter s.cur l.endA)
       | none => s)

/-! ### The format register (R67, R103, R110) -/

/-- A write to `fmt`: it is in force from the fourth bundle on (R67). -/
def State.setFmt (s : State) (w : BitVec 20) : State :=
  s.updMe fun c => { c with fmtPend := c.fmtPend ++ [(4, fmtWrite w)] }

/-- R103. -/
def execFmtset (val : BitVec 20) (s : State) : Out := .next (s.setFmt val)
/-- R103. -/
def execFmtsets (a : BitVec 6) (s : State) : Out := .next (s.setFmt ((s.opS a).setWidth 20))

/-! ### Tokens (R104, R166, R168) -/

/-- The commands in flight that produce a token of a context, but the one that the bundle in its issue
buffer has issued (R104). -/
def State.producers (s : State) (c k : Nat) : List Cmd :=
  (s.cores.flatMap fun e => e.2.journal).filter fun q =>
    decide (q.ctx = c ∧ q.tok.toNat = k ∧ (s.ctx c).iss.cmd ≠ some q.id)

/-- A token is pending with no failure mark. -/
def State.tokenRuns (s : State) (c k : Nat) : Bool :=
  let l := s.producers c k
  !l.isEmpty && l.all fun q => q.failed.isNone

/-- The trap cause of a failed command (R168). -/
def FailKind.cause : FailKind → Cause
  | .rights => .protection
  | .hostGone => .hostGone
  | .miss => .fillFault

def FailKind.rank : FailKind → Nat
  | .rights => 0
  | .hostGone => 1
  | .miss => 2

/-- The failed command to report: PROTECTION before HOST_GONE before FILL_FAULT (R168). -/
def worstFailure : List Cmd → Option (Cmd × FailKind × DWord)
  | [] => none
  | q :: t =>
    match q.failed with
    | none => worstFailure t
    | some (f, a) =>
      match worstFailure t with
      | some (q', f', a') => if f'.rank < f.rank then some (q', f', a') else some (q, f, a)
      | none => some (q, f, a)

/-- The fault that a wait on failed commands raises in slot 0 (R168). -/
def State.raiseFailed (s : State) (l : List Cmd) : Option State :=
  (worstFailure l).map fun x =>
    s.raise x.2.1.cause (some x.2.2) (some (BitVec.ofNat 64 (x.1.entry % 64 + 64)))

/-- WAITK and WAITKS on a set of tokens (R104, R168). -/
def State.waitTokens (s : State) (ks : List Nat) : State :=
  if ks.any fun k => s.tokenRuns s.cur k then s.blocks
  else
    match s.raiseFailed (ks.flatMap fun k => s.producers s.cur k) with
    | some t => t
    | none =>
      let mask : BitVec 31 := ks.foldl (fun m k => m ||| (1 : BitVec 31) <<< k) 0
      let bad := s.me.linkFail &&& mask
      if bad = 0 then s
      else
        (s.raise .linkFailed (some (bad.setWidth 64)) none).updMe fun c =>
          { c with linkFail := c.linkFail &&& ~~~ mask }

/-- R104; a field of 31 names no token. -/
def execWaitk (ka kb kc kd : BitVec 5) (s : State) : Out :=
  .next (s.waitTokens ([ka.toNat, kb.toNat, kc.toNat, kd.toNat].filter fun k => decide (k < 31)))
/-- R104: bit n of the scalar names `k`n. -/
def execWaitks (a : BitVec 6) (s : State) : Out :=
  .next (s.waitTokens ((List.range 31).filter fun k => (s.opS a).getLsbD k))

/-! ### Fences and drains (R46, R47, R106) -/

/-- Earlier accesses that a fence of a kind waits for (R46). -/
def FenceKind.covers (k : FenceKind) (a : Access) : Bool :=
  match k with
  | .acq => decide (a.kind ≠ .store)
  | .rel | .full => true

/-- R106: the fence comes into force as its bundle ends, so that the bundle's own accesses, replayed ones
among them, count as earlier; scope 0 orders nothing. -/
def execFence (sc : Scope) (k : FenceKind) (s : State) : Out :=
  .next (if sc = .ctx then s else s.updIss fun i => { i with fence := some (sc, k) })

/-- R106: as a fence. -/
def execDrain (sc : Scope) (s : State) : Out :=
  .next (if sc = .ctx then s else s.updIss fun i => { i with drain := some sc })

/-- The fence of a bundle that ends; one that nothing holds is none. -/
def Ctx.fenceNow (x : Ctx) : List FenceHold :=
  match x.iss.fence with
  | none => []
  | some (sc, k) =>
    match (x.outst.filter (FenceKind.covers k)).map Access.id with
    | [] => []
    | l => [⟨sc, k, l⟩]

/-- The drain of a bundle that ends. -/
def Ctx.drainNow (x : Ctx) : List DrainHold :=
  match x.iss.drain with
  | none => []
  | some sc =>
    match (x.outst.filter fun a => a.remote).map Access.id with
    | [] => []
    | l => [⟨sc, l⟩]

/-! ### Yield and trap (R107, R108) -/

/-- R107. -/
def execYield (s : State) : Out := .next (s.updIss fun i => { i with yield := true })

/-- R108: the trap is the effect of TRAP, so its performed bit is set. -/
def execTrap (imm : BitVec 16) (s : State) : Out :=
  .next ((s.raise .softwareTrap (some (imm.setWidth 64)) none).updIss fun i =>
    { i with performed := i.performed ||| 1 })

/-! ### Special registers (R93, R94, R110) -/

/-- The value of a special register for the bundle being issued. -/
def State.special (s : State) (r : BitVec 12) : DWord :=
  let t := s.iss.time
  match r.toNat with
  | 0x000 => t.e.setWidth 64
  | 0x001 => t.l1.setWidth 64
  | 0x002 => t.l2.setWidth 64
  | 0x003 => t.l3.setWidth 64
  | 0x004 => t.l4.setWidth 64
  | 0x005 => t.l5.setWidth 64
  | 0x010 => BitVec.ofNat 64 s.me.ldepth
  | 0x011 => (s.me.lb 1).setWidth 64
  | 0x012 => (s.me.lb 2).setWidth 64
  | 0x013 => (s.me.lb 3).setWidth 64
  | 0x014 => (s.me.lb 4).setWidth 64
  | 0x015 => (s.me.lb 5).setWidth 64
  | 0x020 => s.opFmt.setWidth 64
  | 0x030 => BitVec.ofNat 64 (s.cur % 4)
  | 0x031 => BitVec.ofNat 64 (s.cur / 4 % 8)
  | 0x032 => s.me.vcore.setWidth 64
  | 0x033 => s.me.vcluster.setWidth 64
  | 0x034 => BitVec.ofNat 64 (s.me.part % 16)
  | 0x035 => s.me.pri.setWidth 64
  | 0x040 => BitVec.ofNat 64 s.cycle
  | 0x041 => s.tclockWord
  | 0x050 => s.me.rt.e.setWidth 64
  | 0x051 => s.me.rt.l1.setWidth 64
  | 0x052 => s.me.rt.l2.setWidth 64
  | 0x053 => s.me.rt.l3.setWidth 64
  | 0x054 => s.me.rt.l4.setWidth 64
  | 0x055 => s.me.rt.l5.setWidth 64
  | _ => 0

/-- R110, R94. -/
def execMfs (d : BitVec 6) (r : BitVec 12) (s : State) : Out := .next (s.setS d (s.special r) 1)
/-- R110: `fmt` is written as FMTSETS does; every other register is read-only (R93). -/
def execMts (r : BitVec 12) (a : BitVec 6) (s : State) : Out :=
  .next (if r = 0x020 then s.setFmt ((s.opS a).setWidth 20) else s)

end Sys2Proof.Machine
end

