-- ==== Sys2Proof/Machine/Bulk.lean ====
section
/-!
DEFINITION. What the DM engines do to memory: reading and writing runs of bytes through translation
(R48, R162, R165), and the issue journal (R166, R167).
-/
namespace Sys2Proof.Machine

open Sys2Proof

/-- A run of bytes cut at line boundaries; `fuel` bounds the lines. -/
def chunksGo : Nat → DWord → Nat → List (DWord × Nat)
  | 0, _, _ => []
  | fuel + 1, a, n =>
    if n = 0 then []
    else
      let m := min n (128 - a.toNat % 128)
      (a, m) :: chunksGo fuel (a + BitVec.ofNat 64 m) (n - m)

/-- The pieces of a run, one a line. -/
def chunks (a : DWord) (n : Nat) : List (DWord × Nat) := chunksGo (n / 128 + 2) a n

/-- An address lies in a sealed tile that a cluster has mapped for partition `p` (R158). -/
def State.sealedTile (s : State) (cl p : Nat) (a : DWord) : Bool :=
  match s.tileAt cl a with
  | some (o, th, _) =>
    decide ((s.ctx o).part = p) &&
      match s.tile o th with
      | some t => t.sealed
      | none => false
  | none => false

/-- What translation and the checks make of an engine's access; a copy's access to the range of a sealed tile of
its own cluster `cl` is refused (R158). -/
def State.engXlate (s : State) (cl : Option Nat) (p : Nat) (a : DWord) (write : Bool) : XRes :=
  match cl with
  | none => s.xlate p a write
  | some k => if s.sealedTile k p a then .refused else s.xlate p a write

/-- Why an engine's access to a line fails, if it does (R165). -/
def State.bulkFail (s : State) (p : Nat) (a : DWord) (write : Bool) (cl : Option Nat := none) :
    Option FailKind :=
  match s.engXlate cl p a write with
  | .ok _ w => if write = true ∧ w = false then some .rights else none
  | .refused => none
  | .miss => some .miss
  | .hostGone => some .hostGone

/-- The first line of a run that fails, with its address. -/
def State.runFail (s : State) (p : Nat) (a : DWord) (n : Nat) (write : Bool) (cl : Option Nat := none) :
    Option (FailKind × DWord) :=
  (chunks a n).findSome? fun x => (s.bulkFail p x.1 write cl).map fun f => (f, x.1)

/-- A run meets a line that a busy tile keeps (R160, R197). -/
def State.runBusy (s : State) (p : Nat) (a : DWord) (n : Nat) (write : Bool) (cl : Option Nat := none) :
    Bool :=
  (chunks a n).any fun x =>
    match s.engXlate cl p x.1 write with
    | .ok key _ => s.lineBusy (key / 128) none write
    | _ => false

/-- Bytes of a run; a refused line reads all ones (R119, R162). -/
def State.bulkRead (s : State) (p : Nat) (a : DWord) (n : Nat) (cl : Option Nat := none) : List Byte :=
  (chunks a n).flatMap fun x =>
    match s.engXlate cl p x.1 false with
    | .ok key _ => s.rdLine key x.2
    | _ => List.replicate x.2 (BitVec.allOnes 8)

/-- Whether a run meets a poisoned line (R312). -/
def State.runPoison (s : State) (p : Nat) (a : DWord) (n : Nat) (cl : Option Nat := none) : Bool :=
  (chunks a n).any fun x =>
    match s.engXlate cl p x.1 false with
    | .ok key _ => s.lineBad (key / 128)
    | _ => false

/-- Log the refused lines of a run (R301). -/
def State.logRun (s : State) (p who : Nat) (a : DWord) (n : Nat) (write : Bool)
    (cl : Option Nat := none) : State :=
  (chunks a n).foldl (fun s x =>
    if s.engXlate cl p x.1 write = .refused then s.logRefused p who x.1.toNat else s) s

/-- Poison a line (R312). DESIGN CHOICE, log 33. -/
def State.poisonLine (s : State) (l : Nat) : State :=
  if l ∈ s.poison then s else { s with poison := s.poison ++ [l] }

/-- Write a run of bytes; a refused line is dropped and logged (R119). `bad` carries poison on.
DESIGN CHOICE, log 33. -/
def State.bulkWrite (s : State) (p who : Nat) (a : DWord) (l : List Byte) (bad : Bool)
    (cl : Option Nat := none) : State :=
  ((chunks a l.length).foldl (fun (x : State × List Byte) c =>
    let s := x.1
    let s1 :=
      match s.engXlate cl p c.1 true with
      | .ok key w =>
        let t := s.wrLine key (x.2.take c.2)
        if w = false then s else if bad then t.poisonLine (key / 128) else t
      | .refused => s.logRefused p who c.1.toNat
      | _ => s
    (s1, x.2.drop c.2)) (s, l)).1

/-- Write those bytes of a run that a free choice picks; `bad` carries poison on (R165, R312). A refused line is
logged once (R301). DESIGN CHOICE, log 4, 17. -/
def State.bulkSome (s : State) (p who : Nat) (a : DWord) (l : List Byte) (bad : Bool)
    (cl : Option Nat := none) : State :=
  let n := s.freeCtr
  let s1 := ((chunks a l.length).foldl (fun (x : State × Nat) c =>
    let picked := (List.range c.2).filter fun i => Config.freeBit (n + x.2 + i)
    let s := x.1
    let t :=
      if picked = [] then s
      else if s.engXlate cl p c.1 true = .refused then s.logRefused p who c.1.toNat
      else
        picked.foldl (fun s i =>
          s.bulkWrite p who (c.1 + BitVec.ofNat 64 i) ((l.drop (x.2 + i)).take 1) bad cl) s
    (t, x.2 + c.2)) (s, 0)).1
  { s1 with freeCtr := n + l.length }

/-! ### The issue journal -/

/-- Entries in use (R167). A fill that a touch started takes none. DESIGN CHOICE, log 7. -/
def Core.used (k : Core) : Nat := k.journal.countP fun q => decide (q.entry < 64)

/-- The lowest free entry. DESIGN CHOICE, log 7. -/
def Core.freeEntry (k : Core) : Nat :=
  ((List.range 64).find? fun i => k.journal.all fun q => decide (q.entry ≠ i)).getD 64

/-- A command of the running context enters the journal and will start (R166, R167). DESIGN CHOICE, log 7. -/
def State.issueCmd (s : State) (kind : CmdKind) (tok : BitVec 5) (waits : List Nat) : State :=
  let k := coreOf s.cur
  let q : Cmd :=
    { id := s.nextIdent, entry := (s.core k).freeEntry, ctx := s.cur, part := s.me.part,
      kind := kind, tok := tok, waits := waits, after := [], started := false, failed := none,
      killed := false }
  (((s.updIss fun i => { i with cmd := some q.id }).updCore k fun c =>
    { c with journal := c.journal ++ [q] }).after 0 (.dmCommandStart k q.id)).fresh

/-- An asynchronous command, once the journal has room (R167). -/
def State.async (s : State) (f : State → State) : State :=
  if 64 ≤ (s.core (coreOf s.cur)).used then s.stalls else f s

/-- The bundle that issued a command has an access still to perform, which comes first (R48, R54): a store
slot, or for a command that writes memory other than a tile's a load slot too. A command on one tile does
not wait for a replay that blocks, which may block on that very tile. DEDUCED, log 91. -/
def State.bundleOpen (s : State) (q : Cmd) : Bool :=
  let i := (s.ctx q.ctx).iss
  let tileOnly :=
    match q.kind with
    | .fill _ _ | .wb _ _ | .unmap _ _ => true
    | _ => false
  decide (i.cmd = some q.id) && !(tileOnly && i.replay && (s.ctx q.ctx).blocked) && i.slots.any fun p =>
    !i.performed.getLsbD p.1.index &&
      match Instr.access p.2 with
      | none => false
      | some .load => !tileOnly
      | some _ => true

/-- The command of an event. -/
def State.cmd (s : State) (k id : Nat) : Option Cmd :=
  (s.core k).journal.find? fun q => decide (q.id = id)

def State.updCmd (s : State) (k id : Nat) (f : Cmd → Cmd) : State :=
  s.updCore k fun c => { c with journal := c.journal.map fun q => if q.id = id then f q else q }

/-- A command completes and frees its entry; its token signals when no other producer is left
(R166, R167). -/
def State.endCmd (s : State) (k id : Nat) : State :=
  s.updCore k fun c => { c with journal := c.journal.filter fun q => decide (q.id ≠ id) }

/-- A command ends as failed: it stays in the journal with its mark (R165). A fill that a touch
started leaves only its tile FAULTED. -/
def State.failCmd (s : State) (k id : Nat) (f : FailKind) (a : DWord) : State :=
  match s.cmd k id with
  | none => s
  | some q =>
    if q.entry ≠ 64 then s.updCmd k id fun q => { q with failed := some (f, a) } else s.endCmd k id

/-- Both ends of a fill come in `d` cycles; the one that applies acts. DESIGN CHOICE, log 14. -/
def State.fillEnds (s : State) (d k id : Nat) : State :=
  (s.schedule d (.fillComplete k id)).schedule d (.fillFail k id)

/-- A fill begins (R159, R160): the tile is FILLING and busy, and both ends of the fill come after the same open
duration, seen from the following cycle on (R13); the one that applies acts. DESIGN CHOICE, log 14; DEDUCED, log 19.
-/
def State.beginFill (s : State) (k id owner th : Nat) (t : Tile) : State :=
  let s1 := s.setTile owner th (some { t with st := .filling, busy := [.fill] })
  let s2 := s1.updCmd k id fun x => { x with started := true }
  let d := s2.nextDelay + 1
  State.fillEnds { s2 with delays := s2.delays.drop 1 } d k id

/-- A write-back begins (R159, R160); `done` is its end. DEDUCED, log 19. -/
def State.beginFlush (s : State) (k id owner th : Nat) (t : Tile) (done : Instr) : State :=
  let s1 := s.updCmd k id fun x => { x with started := true }
  let s2 := if t.st = .dirty then s1.setTile owner th (some { t with busy := [.wb] }) else s1
  s2.after 0 done

/-- A fill that a touch starts (R160). DESIGN CHOICE, log 7. -/
def State.startFill (s : State) (owner th : Nat) : State :=
  match s.tile owner th with
  | none => s
  | some t =>
    if t.st = .empty ∧ t.scr = false ∧ t.busy = [] then
      let k := coreOf owner
      let q : Cmd :=
        { id := s.nextIdent, entry := 64, ctx := owner, part := (s.ctx owner).part,
          kind := .fill owner th, tok := 31, waits := [], after := [], started := true, failed := none,
          killed := false }
      ((s.updCore k fun c => { c with journal := c.journal ++ [q] }).fresh).beginFill k q.id owner th t
    else s

/-! ### The runs of a copy (R169, R172, R174) -/

/-- One run: its length, its destination offset, and its source address or the pad byte. -/
structure Run where
  n : Nat
  dof : DWord
  src : Option DWord
  pad : Byte
  deriving DecidableEq, Repr

/-- i times a stride, modulo 2^64. -/
def times (i : Nat) (st : BitVec 32) : DWord := BitVec.ofNat 64 i * st.signExtend 64

/-- A coordinate of convolution mode: origin plus i steps, exact. -/
def coord (x0 : BitVec 16) (i : Nat) (st : BitVec 32) : Int := x0.toInt + (i : Int) * st.toInt

/-- The run of one innermost iteration (R169). -/
def Staging.run (g : Staging) (i1 i2 i3 i4 i5 : Nat) : Run :=
  let dof := times i1 g.l1.ds + times i2 g.l2.ds + times i3 g.l3.ds + times i4 g.l4.ds +
    times i5 g.l5.ds
  match g.conv with
  | none =>
    ⟨g.c0, dof, some (g.sbase + times i1 g.l1.ss + times i2 g.l2.ss + times i3 g.l3.ss +
      times i4 g.l4.ss + times i5 g.l5.ss), 0⟩
  | some v =>
    let x := coord v.x0 i1 g.l1.ss
    let y := coord v.y0 i2 g.l2.ss
    let n := coord v.n0 i3 g.l3.ss
    if x < 0 ∨ v.w.toNat ≤ x ∨ y < 0 ∨ v.h.toNat ≤ y ∨ n < 0 ∨ v.n.toNat ≤ n then
      ⟨g.c0, dof, none, v.pad⟩
    else
      let px := ((n * v.h.toNat + y) * v.w.toNat + x) * v.pitch.toNat
      ⟨g.c0, dof, some (g.sbase + BitVec.ofInt 64 px + times i4 g.l4.ss + times i5 g.l5.ss), 0⟩

/-- Every run of a CPYGO, in loop order (R169). -/
def Staging.runs (g : Staging) : List Run :=
  (List.range g.l5.cnt.toNat).flatMap fun i5 =>
    (List.range g.l4.cnt.toNat).flatMap fun i4 =>
      (List.range g.l3.cnt.toNat).flatMap fun i3 =>
        (List.range g.l2.cnt.toNat).flatMap fun i2 =>
          (List.range g.l1.cnt.toNat).map fun i1 => g.run i1 i2 i3 i4 i5

/-- A count of zero at any level, level 0 included, makes the copy empty (R169). -/
def Staging.isEmpty (g : Staging) : Bool :=
  decide (g.c0 = 0) || [g.l1, g.l2, g.l3, g.l4, g.l5].any fun l => decide (l.cnt = 0)

/-- Runs that move bytes: a count of zero at any level, level 0 included, makes the copy empty. -/
def Staging.moves (g : Staging) : List Run := if g.c0 = 0 then [] else g.runs

/-- The least and greatest of `i * ds` for i below a count. -/
def spanLow (c : Nat) (ds : BitVec 32) : Int := min 0 (((c : Int) - 1) * ds.toInt)
def spanHigh (c : Nat) (ds : BitVec 32) : Int := max 0 (((c : Int) - 1) * ds.toInt)

/-- A copy or gather that moves no bytes (R169, R174). -/
def CmdKind.movesNothing (k : CmdKind) : Bool :=
  match k with
  | .copy g _ => g.isEmpty
  | .gath g _ n _ => decide (g.c0 = 0 ∨ n = 0)
  | _ => false

/-- A command whose token has not signalled is still in some journal (R166); the token of one that moves no bytes
signals as it starts (R169). -/
def State.cmdOpen (s : State) (id : Nat) : Bool :=
  s.cores.any fun k => k.2.journal.any fun q => decide (q.id = id) && !(q.started && q.kind.movesNothing)

/-- Whether every destination offset lies in a tile of `n` bytes (R173). -/
def Staging.fits (g : Staging) (n : Nat) : Bool :=
  let ls := [g.l1, g.l2, g.l3, g.l4, g.l5]
  if g.isEmpty then true
  else
    let lo := ls.foldl (fun z l => z + spanLow l.cnt.toNat l.ds) 0
    let hi := ls.foldl (fun z l => z + spanHigh l.cnt.toNat l.ds) 0
    decide (0 ≤ lo ∧ hi + g.c0 ≤ n)

/-- The runs of a GATH, from its index list (R174). -/
def Staging.gathRuns (g : Staging) (idx : List (BitVec 32)) : List Run :=
  if g.c0 = 0 then []
  else
    (List.range idx.length).map fun i =>
      ⟨g.c0, times i g.l1.ds,
        some (g.sbase + (idx.getD i 0).signExtend 64 * g.l1.ss.signExtend 64), 0⟩

/-- The 32-bit words of a list of bytes. -/
def words32 : Nat → List Byte → List (BitVec 32)
  | 0, _ => []
  | n + 1, l => BitVec.ofNat 32 (leNat (l.take 4)) :: words32 n (l.drop 4)

/-- Two byte ranges meet, modulo 2^64. -/
def meet (a : DWord) (n : Nat) (b : DWord) (m : Nat) : Bool :=
  decide ((b - a).toNat < n) || decide ((a - b).toNat < m)

/-- Whether the order of a command's runs can show: two of its destinations meet, or a source meets
a destination (R169). DESIGN CHOICE, log 16. -/
def runsMeet (dbase : DWord) (rs : List Run) : Bool :=
  let dst := fun (r : Run) => dbase + r.dof
  let rec go : List Run → Bool
    | [] => false
    | r :: t => (t.any fun q => meet (dst r) r.n (dst q) q.n) || go t
  go rs || rs.any fun r => rs.any fun q =>
    match q.src with
    | some a => meet (dst r) r.n a q.n
    | none => false

/-- Put runs in an order that free choices give (R169): any two of them may stand either way round.
DESIGN CHOICE, log 16. -/
def shuffleRuns (n : Nat) : List Run → List Run
  | [] => []
  | r :: t =>
    let l := shuffleRuns (n + 1) t
    if Config.freeBit n then r :: l else l ++ [r]

/-- The bytes of a run, read by a copy of cluster `cl`. -/
def State.runBytes (s : State) (cl p : Nat) (r : Run) : List Byte :=
  match r.src with
  | some a => s.bulkRead p a r.n (some cl)
  | none => List.replicate r.n r.pad

def State.runBad (s : State) (cl p : Nat) (r : Run) : Bool :=
  match r.src with
  | some a => s.runPoison p a r.n (some cl)
  | none => false

def State.logSrc (s : State) (cl p who : Nat) (r : Run) : State :=
  match r.src with
  | some a => s.logRun p who a r.n false (some cl)
  | none => s

/-- A run cut at the lines of its source, each of which brings its own poison (R312). -/
def Run.pieces (r : Run) : List Run :=
  match r.src with
  | none => [r]
  | some a =>
    ((chunks a r.n).foldl (fun (x : List Run × Nat) c =>
      (x.1 ++ [{ r with n := c.2, dof := r.dof + BitVec.ofNat 64 x.2, src := some c.1 }], x.2 + c.2)) ([], 0)).1

/-- Write a run that is read in `src`, by a copy of cluster `cl`. -/
def State.putRun (s src : State) (cl p who : Nat) (dbase : DWord) (r : Run) : State :=
  r.pieces.foldl (fun s q => s.bulkWrite p who (dbase + q.dof) (src.runBytes cl p q) (src.runBad cl p q) (some cl)) s

/-- Perform the runs of a copy to memory. Where their order or the moment of a read can show, each
run's place and whether it reads before or after the others is a free choice (R169).
DESIGN CHOICE, log 4, 16. -/
def State.copyRuns (s : State) (cl p who : Nat) (dbase : DWord) (rs : List Run) : State :=
  if runsMeet dbase rs then
    let n := s.freeCtr
    let old := { s with freeCtr := n + 2 * rs.length }
    let l := shuffleRuns n rs
    ((List.range l.length).foldl (fun (x : State) i =>
      match l[i]? with
      | none => x
      | some r =>
        let from_ := if Config.freeBit (n + rs.length + i) then old else x
        (x.logSrc cl p who r).putRun from_ cl p who dbase r)
      old)
  else
    rs.foldl (fun s r => (s.logSrc cl p who r).putRun s cl p who dbase r) s

/-- The contents of a ring tile that the runs write: every other byte is 0 (R173). -/
def State.ringData (s : State) (cl p : Nat) (rs : List Run) : Store Byte :=
  rs.foldl (fun d r => Store.put 0 d r.dof.toNat (s.runBytes cl p r)) []

/-- Lines of a ring tile that take poison along (R312). -/
def State.ringPoison (s : State) (cl p : Nat) (rs : List Run) : List Nat :=
  ((rs.flatMap Run.pieces).flatMap fun r =>
    if s.runBad cl p r then
      (List.range ((r.dof.toNat + r.n + 127) / 128 - r.dof.toNat / 128)).map fun i =>
        r.dof.toNat / 128 + i
    else []).eraseDups

/-- The first access of a copy's runs that fails (R165). -/
def State.copyFailure (s : State) (cl p : Nat) (dbase : Option DWord) (rs : List Run) :
    Option (FailKind × DWord) :=
  rs.findSome? fun r =>
    match r.src.bind fun a => s.runFail p a r.n false (some cl) with
    | some f => some f
    | none => dbase.bind fun d => s.runFail p (d + r.dof) r.n true (some cl)

/-- Some line of a copy's runs is kept by a busy tile. -/
def State.copyBusy (s : State) (cl p : Nat) (dbase : Option DWord) (rs : List Run) : Bool :=
  rs.any fun r =>
    (match r.src with
     | some a => s.runBusy p a r.n false (some cl)
     | none => false) ||
      match dbase with
      | some d => s.runBusy p (d + r.dof) r.n true (some cl)
      | none => false

end Sys2Proof.Machine
end

