-- ==== Sys2Proof/Machine/Terms.lean ====
section
/-!
DEFINITION. Use bindings and the terms unit as programs reach it (R204, R225, R230 to R235): USEOPEN,
USECLOSE, USEQ, the first beat on a sealed tile, the unit's answers and its persisted counts.
-/
namespace Sys2Proof.Machine

open Sys2Proof

/-! ### Handles, bindings, reservations -/

def State.handle (s : State) (h : Nat) : Option Handle := Store.get none s.terms.handles h

def State.setHandle (s : State) (h : Nat) (x : Option Handle) : State :=
  { s with terms := { s.terms with handles := Store.set none s.terms.handles h x } }

/-- Change an installed handle. -/
def State.updHandle (s : State) (h : Nat) (f : Handle → Handle) : State :=
  match s.handle h with
  | some x => s.setHandle h (some (f x))
  | none => s

def Ctx.binding (x : Ctx) (u : Nat) : Binding := Store.get Binding.none x.ub u
def Ctx.setBinding (x : Ctx) (u : Nat) (b : Binding) : Ctx :=
  { x with ub := Store.set Binding.none x.ub u b }

/-- Terms field of a trap record (R91): handle, binding, valid. -/
def termsField (handle : BitVec 12) (ub : BitVec 3) : Word :=
  BitVec.ofNat 32 (handle.toNat + 4096 * ub.toNat + 32768)

/-- State code of a binding (R230). -/
def BindSt.code (b : BindSt) : Nat :=
  match b with
  | .free => 0 | .reserved => 1 | .committed => 3

/-- Uses that remain (R231 check 6, R233). -/
def Handle.left (h : Handle) : Nat := h.body.maxUses - h.used - h.reserved

/-- The last value of an expiry or span field that means never (R222). -/
def neverExpires (x : Nat) : Bool := decide (x = 2 ^ 64 - 1)

/-- A holder gives up the use of a serial: a reservation returns, a committed use ends (R233). A serial
that the unit does not hold for this holder changes nothing (R230). -/
def State.endUse (s : State) (serial : BitVec 32) (holder : Nat) : State :=
  match s.terms.resv.find? fun r => decide (r.serial = serial ∧ r.holder = holder) with
  | none => s
  | some r =>
    let s1 : State := { s with terms := { s.terms with
      resv := s.terms.resv.filter fun q => decide (q ≠ r) } }
    if r.committed then s1 else s1.updHandle r.handle fun h => { h with reserved := h.reserved - 1 }

/-- Close a binding of a context (R233, R234). -/
def State.closeBinding (s : State) (c u : Nat) : State :=
  (s.updCtx c fun x => x.setBinding u Binding.none).endUse ((s.ctx c).binding u).serial
    (s.ctx c).identity

/-- The first serial from `n` on that may be issued (R231); `fuel` bounds the serials in use. -/
def nextSerial (used : List (BitVec 32)) : Nat → BitVec 32 → BitVec 32
  | 0, n => n
  | fuel + 1, n => if n = 0 ∨ n ∈ used then nextSerial used fuel (n + 1) else n

/-! ### Persisted counts (R235) -/

/-- Start a write of a raised N, if none is under way for the handle. -/
def State.raiseN (s : State) (h : Nat) (x : Handle) : State :=
  if s.terms.nv.any fun w => decide (w.handle = h) then s
  else
    let w : NvWrite := { handle := h, n := min x.body.maxUses (x.n + 64) }
    State.after { s with terms := { s.terms with nv := s.terms.nv ++ [w] } } 0
      (.nvStoreWriteComplete h)

/-! ### Questions to the unit -/

/-- The question that a slot of the running context has put. -/
def State.askOf (s : State) (sl : Slot) (kind : Nat) : Option Ask :=
  s.me.asks.find? fun a => decide (a.slot = sl ∧ a.kind = kind)

def Ctx.dropAsk (x : Ctx) (sl : Slot) : Ctx :=
  { x with asks := x.asks.filter fun a => decide (a.slot ≠ sl) }

/-- Stall for the terms unit's answer; with the answer, go on (R128, R231, R233, R204). -/
def State.consult (s : State) (ub : BitVec 3) (kind : Nat) (handle : BitVec 12)
    (f : Ask → State → State) : State :=
  match s.askOf s.slot kind with
  | none => (s.sets (.askTerms s.slot ub kind handle)).stalls
  | some a => if a.answered then f a (s.updMe fun c => c.dropAsk s.slot) else s.stalls

/-- The cause of a failed check of R231. -/
def openCause (check : Nat) : Cause :=
  if check ≤ 4 then .termsDenied else if check = 5 then .termsExpired else .termsExhausted

/-- R231. The operand of a failed check is the handle read (the trap records of R241 and R245). -/
def execUseopen (ub : BitVec 3) (a : BitVec 6) (s : State) : Out :=
  .next
    (let h := s.opS a
     if h.toNat / 4096 ≠ 0 then s.raise .illegalOperand (some h) none
     else if s.me.ubN ≤ ub.toNat ∨ (s.me.binding ub.toNat).st ≠ .free then
       s.raise .illegalOperand (some (ub.setWidth 64)) none
     else
       let hd : BitVec 12 := h.setWidth 12
       s.consult ub 0 hd fun q s =>
         if q.check = 0 then
           s.updMe fun c => c.setBinding ub.toNat ⟨.reserved, hd, q.serial, 0⟩
         else
           s.raiseT (openCause q.check) (some h)
             (some (BitVec.ofNat 64 (q.check + if q.unsync then 8 else 0))) (termsField hd ub))

/-- An MX instruction of the context that reads a sealed tile bound to `ub` has not ended (R233). -/
def State.beatsOn (s : State) (ub : BitVec 3) : Bool :=
  decide (s.cycle < s.me.mxUntil) &&
    (s.core (coreOf s.cur)).mxTiles.any fun x =>
      decide (x.1 = s.cur) &&
        match s.tile x.1 x.2 with
        | some t => t.sealed && decide (t.ub = ub)
        | none => false

/-- R233. -/
def execUseclose (ub : BitVec 3) (s : State) : Out :=
  .next
    (if s.me.ubN ≤ ub.toNat then s.raise .illegalOperand none none
     else if s.beatsOn ub then s.stalls
     else if (s.me.binding ub.toNat).st = .free then
       s.raiseT .useState none none (termsField (s.me.binding ub.toNat).handle ub)
     else s.closeBinding s.cur ub.toNat)

/-- R233. -/
def execUseq (d : BitVec 6) (ub : BitVec 3) (s : State) : Out :=
  .next
    (if s.me.ubN ≤ ub.toNat then s.raise .illegalOperand none none
     else s.consult ub 1 (s.me.binding ub.toNat).handle fun q s => s.setS d q.value 1)

/-- The range of a tile, line by line where translation puts it, lies within the sealed region of a handle (R232). -/
def State.inRegion (s : State) (p : Nat) (t : Tile) (h : Nat) : Bool :=
  match s.handle h with
  | some x =>
    match x.region with
    | some (q, base) =>
      decide (q = p) && (List.range t.lines).all fun j =>
        let a := (t.addrOf (128 * j)).toNat
        let e := (s.part p).page (a / 4096)
        let pa := e.ppage * 4096 + a % 4096
        !e.host && decide (base ≤ pa) && decide (pa + 128 ≤ base + x.body.length)
    | none => false
  | none => false

/-- What the terms unit says to a beat on a sealed tile (R204, R232, R233): the instruction goes on
by `f`, stalls, or faults. -/
def State.sealedBeat (s : State) (t : Tile) (f : State → State) : State :=
  let b := s.me.binding t.ub.toNat
  let op := some (t.ub.setWidth 64)
  let field := termsField b.handle t.ub
  if b.st = .free ∧ (s.askOf s.slot 2).isNone = true then s.raiseT .useState op none field
  else if (s.askOf s.slot 2).isNone = true ∧ s.inRegion s.me.part t b.handle.toNat = false then
    s.raiseT .useState op none field
  else
    s.consult t.ub 2 b.handle fun q s =>
      match q.check with
      | 0 => f s
      | 1 => s.raiseT .useState op none (termsField q.handle t.ub)
      | 2 => s.raiseT .termsExpired op none (termsField q.handle t.ub)
      | _ => s.raiseT .useSpan op none (termsField q.handle t.ub)

/-! ### The unit's answers (R225) -/

/-- Write the answer to a context's question. -/
def State.answer (s : State) (c : Nat) (sl : Slot) (f : Ask → Ask) : State :=
  s.updCtx c fun x => { x with asks := x.asks.map fun a => if a.slot = sl then f a else a }

/-- Checks 1 to 6 of R231: the first that fails, 0 for none, and whether check 5 failed for want of
synchronisation. -/
def State.openCheck (s : State) (c h : Nat) : Nat × Bool :=
  let P := s.part (s.ctx c).part
  match s.handle h with
  | none => (1, false)
  | some x =>
    if x.region.isNone then (1, false)
    else if P.policy.tenant = 0 ∨ x.body.licensee ≠ P.policy.tenant then (2, false)
    else
      let coded :=
        match s.image c with
        | some g => decide (g.digest ∈ x.codes)
        | none => false
      let based :=
        decide (x.body.flags % 2 = 0) || s.terms.handles.any fun e =>
          match e.2 with
          | some y => y.region.isSome && decide (y.body.tensor = x.body.dependsOn)
          | none => false
      if coded = false then (3, false)
      else if based = false then (4, false)
      else if neverExpires x.body.expiry = false ∧ s.terms.synced = false then (5, true)
      else if neverExpires x.body.expiry = false ∧ x.body.expiry ≤ s.tclock then (5, false)
      else if x.left = 0 then (6, false)
      else (0, false)

/-- The answer to a USEOPEN. -/
def State.answerOpen (s : State) (c : Nat) (a : Ask) : State :=
  let h := a.handle.toNat
  let k := s.openCheck c h
  if k.1 ≠ 0 then
    s.answer c a.slot fun q => { q with answered := true, check := k.1, unsync := k.2 }
  else
    match s.handle h with
    | none => s
    | some x =>
      if x.n < x.used + x.reserved + 1 then s.raiseN h x
      else
        let n := nextSerial (s.terms.resv.map Resv.serial) (s.terms.resv.length + 2) s.terms.nextSerial
        let x1 := { x with reserved := x.reserved + 1 }
        let r : Resv := { serial := n, handle := h, part := (s.ctx c).part, committed := false,
                          ctime := 0, holder := (s.ctx c).identity }
        let s0 : State := { s with terms := { s.terms with
          nextSerial := n + 1
          resv := s.terms.resv ++ [r] } }
        let s1 := s0.setHandle h (some x1)
        let s2 :=
          if x1.n ≤ x1.used + x1.reserved + 16 ∧ x1.n < x1.body.maxUses then s1.raiseN h x1 else s1
        s2.answer c a.slot fun q => { q with answered := true, check := 0, serial := n }

/-- The answer to a USEQ (R233). -/
def State.answerQuery (s : State) (c : Nat) (a : Ask) : State :=
  let b := (s.ctx c).binding a.ub.toNat
  let left :=
    match s.handle b.handle.toNat with
    | some x => x.left
    | none => 0
  let v :=
    if b.st = .free then 0
    else BitVec.ofNat 64 (b.st.code + 256 * b.handle.toNat + 2 ^ 32 * left)
  s.answer c a.slot fun q => { q with answered := true, check := 0, value := v }

/-- The answer to a beat on a sealed tile (R204). -/
def State.answerBeat (s : State) (c : Nat) (a : Ask) : State :=
  let u := a.ub.toNat
  let b := (s.ctx c).binding u
  let say := fun (k : Nat) (s : State) =>
    s.answer c a.slot fun q => { q with answered := true, check := k }
  match b.st, s.handle b.handle.toNat with
  | .free, _ => say 1 s
  | _, none => say 1 s
  | .reserved, some x =>
    if neverExpires x.body.expiry = false ∧ x.body.expiry ≤ s.tclock then
      say 2 (s.closeBinding c u)
    else
      let now := s.tclock
      let s1 := s.setHandle b.handle.toNat (some { x with
        reserved := x.reserved - 1
        used := x.used + 1
        meter := (x.meter + x.body.charge) % 2 ^ 64 })
      let s2 : State := { s1 with terms := { s1.terms with
        resv := s1.terms.resv.map fun (r : Resv) =>
          if r.serial = b.serial then { r with committed := true, ctime := now } else r } }
      say 0 (s2.updCtx c fun y =>
        y.setBinding u { b with st := .committed, ctime := BitVec.ofNat 64 now })
  | .committed, some x =>
    if x.body.span ≠ 0 ∧ b.ctime.toNat + x.body.span ≤ s.tclock then say 3 s else say 0 s

/-- R231, R233, R204: the terms unit answers the question of one slot of a context, at one point of
the handle's order. A question that waits for a write of N stays unanswered. An orderly shutdown that
came before no longer covers the unit's state (R235). -/
def execTermsUnitAnswer (ctx : Nat) (slot : Slot) (s : State) : Out :=
  .next
    (match (s.ctx ctx).asks.find? fun a => decide (a.slot = slot) && !a.answered with
     | none => s
     | some a =>
       let s1 : State := { s with terms := { s.terms with alive := true } }
       match a.kind with
       | 0 => s1.answerOpen ctx a
       | 1 => s1.answerQuery ctx a
       | _ => s1.answerBeat ctx a)

/-- The opens that wait for a write of N are answered at their next turn in the handle's order (R225, R235). -/
def State.wakeOpens (s : State) (h : Nat) : State :=
  s.ctxs.foldl (fun s e =>
    e.2.asks.foldl (fun s a =>
      if a.answered = false ∧ a.kind = 0 ∧ a.handle.toNat = h then s.schedule 0 (.termsUnitAnswer e.1 a.slot)
      else s) s) s

/-- R235: a raised N counts from now on; the opens that waited for it are answered. -/
def execNvStoreWriteComplete (handle : Nat) (s : State) : Out :=
  .next
    (match s.terms.nv.find? fun w => decide (w.handle = handle) with
     | none => s
     | some w =>
       let s0 : State := { s with terms := { s.terms with
         nv := s.terms.nv.filter fun q => decide (q.handle ≠ handle) } }
       (s0.updHandle handle fun h => { h with n := w.n }).wakeOpens handle)

end Sys2Proof.Machine
end

