-- ==== Sys2Proof/Machine/Vector.lean ====
section
/-!
DEFINITION. Instructions of the VA and VB slots over vector registers, predicates and accumulator rows
(R129 to R146). Result cycles are those of R151.
-/
namespace Sys2Proof.Machine

open Sys2Proof

/-- The NOP of VA: as an absent slot (R19). -/
def execNopVa (s : State) : Out := .next s
/-- The NOP of VB: as an absent slot (R19). -/
def execNopVb (s : State) : Out := .next s

/-! ### Elements and regions (R129 to R131) -/

/-- Element `e` of a type of `b` bits. -/
def elt (b : Nat) (x : VWord) (e : Nat) : Nat := (x.extractLsb' (b * e) b).toNat

/-- Values of `b` bits side by side, the first lowest. -/
def packBits (b : Nat) : List Nat → Nat
  | [] => 0
  | x :: t => x % 2 ^ b + 2 ^ b * packBits b t

/-- Bits `base` to `base + n - 1` replaced. -/
def splice (old : VWord) (base n x : Nat) : VWord :=
  (old &&& ~~~ (BitVec.ofNat 4096 (2 ^ n - 1) <<< base)) ||| (BitVec.ofNat 4096 (x % 2 ^ n) <<< base)

/-- First bit of a region. -/
def laneBase (l : Lanes) : Nat := 1024 * l.lg.toNat

/-- The elements of a region, by absolute element number (R131). -/
def regionElts (l : Lanes) (b : Nat) : List Nat :=
  (List.range (l.w.bits / b)).map fun i => laneBase l / b + i

/-- Whether a predicate governs element `e` (R130). -/
def governs (p : PWord) (b e : Nat) : Bool := p.getLsbD (b * e / 32)

/-- The register after a governed write of its region: `f e` is the new element `e` (R131). -/
def regionMap (l : Lanes) (b : Nat) (p : PWord) (old : VWord) (f : Nat → Nat) : VWord :=
  splice old (laneBase l) l.w.bits
    (packBits b ((regionElts l b).map fun e => if governs p b e then f e else elt b old e))

/-- The governing predicate of a slot's word. -/
def State.gov (s : State) (l : Lanes) : PWord := s.opP (s.slot.pred l.p)

/-- The vector type in force, where R57 admits it (R58). -/
def State.vt (s : State) : Option ETy := vtyOf (fmtVt s.opFmt)

/-- An instruction that consumes `fmt.vt` (R58, R129). -/
def State.withVt (s : State) (f : ETy → State) : State :=
  match s.vt with
  | some t => f t
  | none => s.raise .illegalFormat none none

/-- A governed element-wise result (R131). -/
def State.vmap (s : State) (d : BitVec 6) (l : Lanes) (b lat : Nat) (f : Nat → Nat) : State :=
  s.setV d (regionMap l b (s.gov l) (s.opV d) f) lat

/-! ### Arithmetic (R134) -/

/-- A floating result of an arithmetic instruction (R63, R64). -/
def vround (f : Word) (t : FTy) (x : Ext) : Nat := t.round (fmtRm f) (fmtSat f) x

/-- a + b. -/
def vaddE (f : Word) (t : ETy) (a b : Nat) : Nat :=
  match t with
  | .flt t => vround f t (Ext.add (fmtRm f) (t.decode a) (t.decode b))
  | .int n _ => (a + b) % 2 ^ n
  | .lut4 => 0

/-- a - b. -/
def vsubE (f : Word) (t : ETy) (a b : Nat) : Nat :=
  match t with
  | .flt t => vround f t (Ext.add (fmtRm f) (t.decode a) (t.decode b).neg)
  | .int n _ => (a + (2 ^ n - b)) % 2 ^ n
  | .lut4 => 0

/-- a * b. -/
def vmulE (f : Word) (t : ETy) (a b : Nat) : Nat :=
  match t with
  | .flt t => vround f t (Ext.mul (t.decode a) (t.decode b))
  | .int n _ => (a * b) % 2 ^ n
  | .lut4 => 0

/-- d + a * b, rounded once. -/
def vfmaE (f : Word) (t : ETy) (d a b : Nat) : Nat :=
  match t with
  | .flt t => vround f t (Ext.add (fmtRm f) (t.decode d) (Ext.mul (t.decode a) (t.decode b)))
  | .int n _ => (d + a * b) % 2 ^ n
  | .lut4 => 0

/-- d - a * b, rounded once. -/
def vfmsE (f : Word) (t : ETy) (d a b : Nat) : Nat :=
  match t with
  | .flt t => vround f t (Ext.add (fmtRm f) (t.decode d) (Ext.mul (t.decode a) (t.decode b)).neg)
  | .int n _ => (d + (2 ^ n - a * b % 2 ^ n)) % 2 ^ n
  | .lut4 => 0

/-- Order of two integer elements. -/
def iltE (n : Nat) (sg : Bool) (a b : Nat) : Bool := decide (ival n sg a < ival n sg b)

/-- The lesser element. -/
def vminE (t : ETy) (a b : Nat) : Nat :=
  match t with
  | .flt t => t.min a b
  | .int n sg => if iltE n sg b a then b else a
  | .lut4 => 0

/-- The greater element. -/
def vmaxE (t : ETy) (a b : Nat) : Nat :=
  match t with
  | .flt t => t.max a b
  | .int n sg => if iltE n sg a b then b else a
  | .lut4 => 0

/-- |a|. -/
def vabsE (f : Word) (t : ETy) (a : Nat) : Nat :=
  match t with
  | .flt t => vround f t (t.decode a).abs
  | .int n sg => if ival n sg a < 0 then (2 ^ n - a) % 2 ^ n else a
  | .lut4 => 0

/-- -a. -/
def vnegE (f : Word) (t : ETy) (a : Nat) : Nat :=
  match t with
  | .flt t => vround f t (t.decode a).neg
  | .int n _ => (2 ^ n - a) % 2 ^ n
  | .lut4 => 0

/-- An element-wise instruction of two sources. -/
def State.vbin (s : State) (d a b : BitVec 6) (l : Lanes) (lat : Nat) (f : ETy → Nat → Nat → Nat) :
    State :=
  s.withVt fun t =>
    s.vmap d l t.bits lat fun e => f t (elt t.bits (s.opV a) e) (elt t.bits (s.opV b) e)

/-- An element-wise instruction of the old destination and two sources. -/
def State.vtern (s : State) (d a b : BitVec 6) (l : Lanes) (lat : Nat)
    (f : ETy → Nat → Nat → Nat → Nat) : State :=
  s.withVt fun t =>
    s.vmap d l t.bits lat fun e =>
      f t (elt t.bits (s.opV d) e) (elt t.bits (s.opV a) e) (elt t.bits (s.opV b) e)

/-- An element-wise instruction of one source. -/
def State.vun (s : State) (d a : BitVec 6) (l : Lanes) (lat : Nat) (f : ETy → Nat → Nat) : State :=
  s.withVt fun t => s.vmap d l t.bits lat fun e => f t (elt t.bits (s.opV a) e)

/-- R134. -/
def execVadd (d a b : BitVec 6) (l : Lanes) (s : State) : Out :=
  .next (s.vbin d a b l 2 (vaddE s.opFmt))
/-- R134. -/
def execVsub (d a b : BitVec 6) (l : Lanes) (s : State) : Out :=
  .next (s.vbin d a b l 2 (vsubE s.opFmt))
/-- R134. -/
def execVmul (d a b : BitVec 6) (l : Lanes) (s : State) : Out :=
  .next (s.vbin d a b l 3 (vmulE s.opFmt))
/-- R134. -/
def execVfma (d a b : BitVec 6) (l : Lanes) (s : State) : Out :=
  .next (s.vtern d a b l 4 (vfmaE s.opFmt))
/-- R134. -/
def execVfms (d a b : BitVec 6) (l : Lanes) (s : State) : Out :=
  .next (s.vtern d a b l 4 (vfmsE s.opFmt))
/-- R134. -/
def execVmin (d a b : BitVec 6) (l : Lanes) (s : State) : Out := .next (s.vbin d a b l 2 vminE)
/-- R134. -/
def execVmax (d a b : BitVec 6) (l : Lanes) (s : State) : Out := .next (s.vbin d a b l 2 vmaxE)
/-- R134. -/
def execVabs (d a : BitVec 6) (l : Lanes) (s : State) : Out := .next (s.vun d a l 1 (vabsE s.opFmt))
/-- R134. -/
def execVneg (d a : BitVec 6) (l : Lanes) (s : State) : Out := .next (s.vun d a l 1 (vnegE s.opFmt))

/-! ### Compares and predicates (R135 to R137) -/

/-- A VCMP condition on two elements (R135). -/
def condE (t : ETy) (cc : VCond) (a b : Nat) : Bool :=
  match t with
  | .flt t =>
    let x := t.decode a
    let y := t.decode b
    match cc with
    | .eq => Ext.eq x y
    | .ne => !Ext.eq x y
    | .lt => decide (Ext.lt x y = some true)
    | .le => decide (Ext.lt y x = some false)
    | .gt => decide (Ext.lt y x = some true)
    | .ge => decide (Ext.lt x y = some false)
    | .gtn => decide (Ext.lt y x = some true) || (!x.isNaN && y.isNaN)
    | .un => x.isNaN || y.isNaN
  | .int n sg =>
    match cc with
    | .eq => decide (a = b)
    | .ne => decide (a ≠ b)
    | .lt => iltE n sg a b
    | .le => !iltE n sg b a
    | .gt => iltE n sg b a
    | .ge => !iltE n sg a b
    | .gtn => iltE n sg b a
    | .un => false
  | .lut4 => false

/-- Lanes of a region. -/
def inRegion (l : Lanes) (n : Nat) : Bool :=
  decide (32 * l.lg.toNat ≤ n) && decide (n < 32 * l.lg.toNat + 32 * l.w.groups)

/-- A predicate register from its 128 bits, lane 0 first. -/
def packPred (f : Nat → Bool) : PWord :=
  BitVec.ofNat 128 (packBits 1 ((List.range 128).map fun n => if f n then 1 else 0))

/-- R135. -/
def execVcmp (pd : BitVec 3) (cc : VCond) (a b : BitVec 6) (l : Lanes) (s : State) : Out :=
  .next (s.withVt fun t =>
    let n := 32 / t.bits
    let lane := fun i =>
      (List.range n).all fun j =>
        condE t cc (elt t.bits (s.opV a) (i * n + j)) (elt t.bits (s.opV b) (i * n + j))
    let d := s.slot.pred pd
    s.setP d (packPred fun i =>
      if inRegion l i then (s.gov l).getLsbD i && lane i else (s.opP d).getLsbD i) 2)

/-- R136. -/
def execPlog (pd pa pb : BitVec 3) (tt : BitVec 4) (s : State) : Out :=
  .next (s.setP (s.slot.pred pd) (packPred fun n =>
    tt.getLsbD ((if (s.opP (s.slot.pred pa)).getLsbD n then 2 else 0) +
      if (s.opP (s.slot.pred pb)).getLsbD n then 1 else 0)) 1)

/-- R137. -/
def execPxfer (pd : BitVec 3) (ps : BitVec 4) (s : State) : Out :=
  .next (s.setP (s.slot.pred pd) (s.opP ps) 1)

/-! ### Selection, logic, shifts (R138 to R140) -/

/-- R138: the predicate selects, every lane of the region is written. -/
def execVsel (d a b : BitVec 6) (l : Lanes) (s : State) : Out :=
  .next (s.setV d (regionMap l 32 (BitVec.allOnes 128) (s.opV d) fun e =>
    if (s.gov l).getLsbD e then elt 32 (s.opV a) e else elt 32 (s.opV b) e) 1)

/-- R138. -/
def execVswp (d a : BitVec 6) (l : Lanes) (s : State) : Out :=
  .next ((s.vmap d l 32 1 (elt 32 (s.opV a))).setV a
    (regionMap l 32 (s.gov l) (s.opV a) (elt 32 (s.opV d))) 1)

/-- The bits of one row of a truth table over three words (R139). -/
def logTerm (tt : BitVec 8) (d a b : VWord) (k : Nat) : VWord :=
  if tt.getLsbD k then
    (if k / 4 % 2 = 1 then d else ~~~ d) &&& (if k / 2 % 2 = 1 then a else ~~~ a) &&&
      (if k % 2 = 1 then b else ~~~ b)
  else 0

/-- R139. -/
def execVlog3 (d a b : BitVec 6) (tt : BitVec 8) (s : State) : Out :=
  .next (s.setV d ((List.range 8).foldl
    (fun x k => x ||| logTerm tt (s.opV d) (s.opV a) (s.opV b) k) 0) 1)

/-- R140. -/
def vshlE (t : ETy) (a b : Nat) : Nat := if t.bits ≤ b then 0 else a * 2 ^ b % 2 ^ t.bits
/-- R140. -/
def vshrE (t : ETy) (a b : Nat) : Nat := if t.bits ≤ b then 0 else a / 2 ^ b
/-- R140. -/
def vsraE (t : ETy) (a b : Nat) : Nat :=
  wrap t.bits (sval t.bits a / (2 ^ (min b t.bits) : Nat))

/-- R140. -/
def execVshl (d a b : BitVec 6) (l : Lanes) (s : State) : Out := .next (s.vbin d a b l 1 vshlE)
/-- R140. -/
def execVshr (d a b : BitVec 6) (l : Lanes) (s : State) : Out := .next (s.vbin d a b l 1 vshrE)
/-- R140. -/
def execVsra (d a b : BitVec 6) (l : Lanes) (s : State) : Out := .next (s.vbin d a b l 1 vsraE)

/-! ### Conversion (R141) -/

/-- R141. DESIGN CHOICE, log 36. -/
def execVcvt (d a : BitVec 6) (ty : BitVec 4) (r : RndSel) (l : Lanes) (s : State) : Out :=
  .next (s.withVt fun t =>
    match vtyOf ty.toNat with
    | none => s.raise .illegalFormat none none
    | some u =>
      let cv := convert t u (rndOf s.opFmt r) (fmtSat s.opFmt)
      if t.bits = u.bits then s.vmap d l t.bits 3 fun e => cv (elt t.bits (s.opV a) e)
      else if l.p ≠ 0 then s.raise .illegalOperand none none
      else
        let m := l.w.bits / Max.max t.bits u.bits
        let xs := (List.range m).map fun i => cv (elt t.bits (s.opV a) (laneBase l / t.bits + i))
        let n := if u.bits < t.bits then l.w.bits else m * u.bits
        s.setV d (splice (s.opV d) (laneBase l) n (packBits u.bits xs)) 3)

/-! ### Lanes and scalars (R142 to R145) -/

/-- R142: every governed element of the region takes the scalar's low bits. -/
def execVbcast (d x : BitVec 6) (l : Lanes) (s : State) : Out :=
  .next (s.withVt fun t => s.vmap d l t.bits 1 fun _ => (s.opS x).toNat % 2 ^ t.bits)

/-- R142. -/
def execVget (d a b : BitVec 6) (s : State) : Out :=
  .next (s.withVt fun t =>
    let i := (s.opS b).toNat
    if 4096 / t.bits ≤ i then s.raise .illegalOperand (some (s.opS b)) none
    else
      let x := elt t.bits (s.opV a) i
      s.setS d
        (match t with
         | .int n true => BitVec.ofInt 64 (sval n x)
         | _ => BitVec.ofNat 64 x) 3)

/-- R142. -/
def execViota (d : BitVec 6) (l : Lanes) (s : State) : Out :=
  .next (s.withVt fun t =>
    match t with
    | .int n _ => s.vmap d l n 1 fun e => e % 2 ^ n
    | _ => s.raise .illegalFormat none none)

/-- R143. -/
def execVperm (d a b : BitVec 6) (l : Lanes) (s : State) : Out :=
  .next (s.withVt fun t =>
    let m := l.w.bits / t.bits
    s.vmap d l t.bits 3 fun e =>
      elt t.bits (s.opV a) (laneBase l / t.bits + elt t.bits (s.opV b) e % m))

/-- One node of the reduction tree (R144). An operand with no partner passes as it is, so a single governed
NaN keeps its bits: R144 reduces nothing there, and the default NaN of R62 is for results of arithmetic.
DEDUCED, log 90. -/
def redNode (op : Nat → Nat → Nat) (u v : Option Nat) : Option Nat :=
  match u, v with
  | none, v => v
  | u, none => u
  | some u, some v => some (op u v)

/-- One level of the tree. -/
def redLevel (op : Nat → Nat → Nat) : List (Option Nat) → List (Option Nat)
  | u :: v :: t => redNode op u v :: redLevel op t
  | l => l

/-- `n` levels of the tree. -/
def redTree (op : Nat → Nat → Nat) : Nat → List (Option Nat) → List (Option Nat)
  | 0, l => l
  | n + 1, l => redTree op n (redLevel op l)

/-- The operation of a VRED function (R144). -/
def redOp (f : Word) (t : ETy) : RedFn → Nat → Nat → Nat
  | .add => vaddE f t
  | .min => vminE t
  | .max => vmaxE t

/-- R144. -/
def execVred (fn : RedFn) (d a : BitVec 6) (l : Lanes) (s : State) : Out :=
  .next (s.withVt fun t =>
    let b := t.bits
    let lv := Nat.log2 (l.w.bits / b)
    let xs := (regionElts l b).map fun e =>
      if governs (s.gov l) b e then some (elt b (s.opV a) e) else none
    let x := ((redTree (redOp s.opFmt t fn) lv xs).headD none).getD 0
    s.setV d (splice (s.opV d) (laneBase l) l.w.bits x) (2 + 2 * lv))

/-- The class code of an element (R145). -/
def classE (t : ETy) (a : Nat) : Nat :=
  match t with
  | .flt f =>
    let sub := decide (a / 2 ^ f.fbits % 2 ^ f.ebits = 0)
    match f.decode a with
    | .nan => 0
    | .inf neg => if neg then 1 else 8
    | .fin neg m _ =>
      if m = 0 then (if neg then 4 else 5)
      else if sub then (if neg then 3 else 6)
      else if neg then 2 else 7
  | .int n sg => if ival n sg a = 0 then 5 else if ival n sg a < 0 then 2 else 7
  | .lut4 => 0

/-- R145. -/
def execVclass (d a : BitVec 6) (l : Lanes) (s : State) : Out := .next (s.vun d a l 2 classE)

/-! ### Accumulator rows (R146) -/

/-- The row that a word names. -/
def State.rowOf (s : State) : RowSel → Nat
  | .imm r => r.toNat
  | .reg x => (s.opS x).toNat

/-- The checks of VACR and VACW (R146): the accumulator granted, then its busy bit, since a blocked bundle
raises no fault (R80), then the row below 128. -/
def State.withRow (s : State) (acc : BitVec 3) (row : RowSel) (f : Nat → State) : State :=
  if s.me.accN ≤ acc.toNat then s.raise .illegalOperand (some (acc.setWidth 64)) none
  else if acc.toNat ∈ s.me.accBusy then s.blocks
  else if 128 ≤ s.rowOf row then s.raise .illegalOperand (some (BitVec.ofNat 64 (s.rowOf row))) none
  else f (s.rowOf row)

/-- R146, R312. -/
def execVacr (v : BitVec 6) (acc : BitVec 3) (row : RowSel) (s : State) : Out :=
  .next (s.withRow acc row fun r =>
    if acc.toNat * 128 + r ∈ s.iss.latch.bad then s.raise .eccUncorrected none none
    else s.setV v (s.iss.latch.accRow acc.toNat r) 4)

/-- R146. -/
def execVacw (v : BitVec 6) (acc : BitVec 3) (row : RowSel) (s : State) : Out :=
  .next (s.withRow acc row fun r =>
    s.updMe fun c =>
      { c with
        acc := Store.set 0 c.acc (acc.toNat * 128 + r) (s.opV v)
        accBad := c.accBad.filter fun q => decide (q ≠ acc.toNat * 128 + r) })

end Sys2Proof.Machine
end

