-- ==== Sys2Proof/Machine/Matrix.lean ====
section
/-!
DEFINITION. Instructions of the MX slot (R191 to R206), the sums inside one of them (R68 to R74), and
the events that end them (R197, R199, R206).
-/
namespace Sys2Proof.Machine

open Sys2Proof

/-- The NOP of MX: as an absent slot (R19). -/
def execNopMx (s : State) : Out := .next s

/-! ### Spacing, engine, busy bits (R197 to R199) -/

/-- Another context of the core holds the matrix engine (R80). -/
def State.engineTaken (s : State) : Bool :=
  let k := s.core (coreOf s.cur)
  match k.mxHolder with
  | some c => decide (c ≠ s.cur) && decide (s.cycle < k.mxUntil)
  | none => false

/-- What every MX instruction meets first: its spacing, then the waits for the engine and for the
accumulator it names (R198, R199, R202). DEDUCED, log 84. -/
def State.withEngine (s : State) (acc : Option (BitVec 3)) (f : State) : State :=
  if s.cycle < s.me.mxUntil then
    s.raise .schedule (some (BitVec.ofNat 64 (s.me.mxUntil - s.cycle))) none
  else if s.engineTaken then s.blocks
  else
    match acc with
    | some a => if a.toNat ∈ s.me.accBusy then s.blocks else f
    | none => f

/-- The accumulator must be granted (R192). -/
def State.withAcc (s : State) (acc : BitVec 3) (f : State) : State :=
  if s.me.accN ≤ acc.toNat then s.raise .illegalOperand (some (acc.setWidth 64)) none else f

/-- What the instruction holds from its issue (R197, R199); the issue logic sets the busy bits once
the bundle has performed. DEDUCED, log 80. -/
def State.holds (s : State) (cycles : Nat) (acc : Option (BitVec 3)) (tiles : List Nat)
    (store : Option Nat) : State :=
  let h : MxHold :=
    { cycles := cycles
      acc := acc.map BitVec.toNat
      tiles := tiles.map fun t => (s.cur, t)
      store := store.map fun t => (s.cur, t) }
  s.updIss fun i => { i with hold := some h }

/-! ### Tile operands (R161, R194) -/

/-- The tile that a handle field names; a ring alias keeps the tile it resolved to when the bundle
first issued (R161, R194). -/
def State.resolve (s : State) (h : Nat) : Option Nat :=
  if h < 24 then (if (s.me.tile h).isSome then some h else none)
  else
    match Store.get 0 s.iss.aliases (32 * s.slot.index + h) with
    | t + 1 => some t
    | 0 =>
      match Store.get none s.me.rings (h - 24) with
      | some r => r.members[r.rd]?
      | none => none

/-- Keep what an alias resolved to for a replay (R194). -/
def State.noteAlias (s : State) (h : Nat) : State :=
  match s.resolve h with
  | some t =>
    if h < 24 then s
    else s.updIss fun i =>
      { i with aliases := Store.set 0 i.aliases (32 * s.slot.index + h) (t + 1) }
  | none => s

/-- Whether a matrix read of a tile has to wait (R80, R202); a fill starts for an EMPTY backed tile.
DEDUCED, log 84. -/
def State.matWait (s : State) (th : Option Nat) : Option State :=
  match th with
  | none => none
  | some h =>
    match s.me.tile h with
    | none => none
    | some t =>
      if t.busy ≠ [] then some s.blocks
      else
        match t.st with
        | .empty => some (if t.scr then s.blocks else (s.sets (.startFill s.cur h)).blocks)
        | .filling => some s.blocks
        | _ => none

/-! ### Elements of a tile -/

/-- Row `i` of a tile as a number, element 0 lowest. -/
def Tile.row (t : Tile) (i : Nat) : Nat :=
  leNat (Store.list 0 t.data (i * rowBytes t.ty) (rowBytes t.ty))

/-- Element `k` of a row of elements of `b` bits. -/
def rowElt (b row k : Nat) : Nat := row / 2 ^ (b * k) % 2 ^ b

/-- Elements of the type of a code, in order. -/
def Tile.rowElts (t : Tile) (b i : Nat) : List Nat :=
  let r := t.row i
  (List.range 128).map fun k => rowElt b r k

/-- Columns of a 128-row block of elements given row by row. -/
def columns {α : Type} (d : α) (rows : List (List α)) : List (List α) :=
  (List.range 128).map fun j => rows.map fun r => r.getD j d

/-! ### Sums (R68 to R72) -/

/-- A K-block partial: the exact sum of exact products, rounded once; an exact zero is +0 (R68,
R69). -/
def kblock (a b : List Ext) : Nat :=
  match (List.zipWith Ext.mul a b).foldl (Ext.add .rne) (Ext.zero false) with
  | .fin _ 0 _ => 0
  | x => round32 x

/-- An exact integer sum of products (R71). -/
def ksum (a b : List Int) : Int := (List.zipWith (· * ·) a b).foldl (· + ·) 0

/-- t or t + D, rounded once (R70, R72). -/
def promote (z : Bool) (t : Ext) (old : Nat) : Nat :=
  if z then round32 t else round32 (Ext.add .rne t (f32 old))

/-- Lane `j` of an accumulator row. -/
def lane32 (row : VWord) (j : Nat) : Nat := elt 32 row j

/-- Which of the three multiplies an instruction is. -/
inductive MmaKind where
  | plain | int4 | lut4
  deriving DecidableEq, Repr

/-- Beats for each row of A, for the operand pairs of R195. -/
def mmaRate (k : MmaKind) (a b : Nat) : Option Nat :=
  match k with
  | .plain =>
    if (a = 8 ∨ a = 9) ∧ (b = 8 ∨ b = 9) then some 2
    else if a = 2 ∧ b = 2 then some 2
    else if (a = 6 ∧ b = 6) ∨ (a = 7 ∧ b = 7) then some 4
    else none
  | .int4 => if b ≠ 3 then none else if a = 8 ∨ a = 9 then some 1 else if a = 6 then some 2 else none
  | .lut4 => if b ≠ 10 then none else if a = 8 ∨ a = 9 then some 1 else if a = 6 then some 2 else none

/-- A floating element of a type code. -/
def fltElt (code x : Nat) : Ext :=
  match etyOf code with
  | some (.flt t) => t.decode x
  | _ => .nan

/-- Entry `e` of a codebook (R74). -/
def Codebook.entry (b : Codebook) (e : Nat) : Ext :=
  let x := (b.entries.extractLsb' (16 * e) 16).toNat
  if b.e4m3 then FTy.e4m3.decode (x % 256) else FTy.bf16.decode x

/-- The value of a B element of a floating multiply (R72, R74). -/
def mmaB (k : MmaKind) (f : Word) (cb : Codebook) (x : Nat) : Ext :=
  match k with
  | .plain => fltElt (fmtMxb f) x
  | .int4 => Ext.ofInt (if fmtZq f then (x : Int) else sval 4 x)
  | .lut4 => cb.entry x

/-- Everything an MMA-family instruction captures at issue (R193, R203). -/
structure MmaCap where
  kind : MmaKind
  f : Word
  cb : Codebook
  stab : Nat
  sa : VWord
  z : Bool
  deriving DecidableEq, Repr

/-- round32(sa[i] * stab[sidx]), or 1 (R70, R72). -/
def MmaCap.scale (m : MmaCap) (i : Nat) : Ext :=
  if fmtBs m.f then f32 (round32 (Ext.mul (f32 (lane32 m.sa i)) (f32 m.stab))) else .fin false 1 0

/-- Row `i` of D after the instruction, from row `i` of A (R70 to R72, R74). -/
def MmaCap.rowD (m : MmaCap) (cols : List (List Ext)) (icols : List (List Int)) (i : Nat)
    (a : List Nat) (old : VWord) : VWord :=
  let xs :=
    if fmtMxa m.f = 2 then
      (List.range 128).map fun j =>
        wrap 32 ((if m.z then 0 else (lane32 old j : Int)) +
          ksum (a.map (sval 8)) (icols.getD j []))
    else
      let av := a.map (fltElt (fmtMxa m.f))
      (List.range 128).map fun j =>
        promote m.z (Ext.mul (f32 (kblock av (cols.getD j []))) (m.scale i)) (lane32 old j)
  BitVec.ofNat 4096 (packBits 32 xs)

/-- rs[i] after an MMAQ (R72). -/
def MmaCap.rowSum (m : MmaCap) (i : Nat) (a : List Nat) (old : Nat) : Nat :=
  let av := a.map (fltElt (fmtMxa m.f))
  promote m.z (Ext.mul (f32 (kblock av (av.map fun _ => .fin false 1 0))) (m.scale i)) old

/-- The rows and the row sums that the instruction writes (R203). DEDUCED, log 80. -/
def State.mmaWrite (s : State) (m : MmaCap) (acc : Nat) (ta tb : Tile) (rows : Nat) : State :=
  let ab := (8 * rowBytes ta.ty) / 128
  let bb := (8 * rowBytes tb.ty) / 128
  let brows := (List.range 128).map fun k => tb.rowElts bb k
  let bcols := columns 0 brows
  let cols := bcols.map fun c => c.map (mmaB m.kind m.f m.cb)
  let icols := bcols.map fun c => c.map (sval 8)
  let l := s.iss.latch
  let out := (List.range rows).map fun i => m.rowD cols icols i (ta.rowElts ab i) (l.accRow acc i)
  let s1 := s.updMe fun c => { c.mendAcc acc rows with acc := Store.put 0 c.acc (acc * 128) out }
  if m.kind = .int4 then
    let old := l.accRs acc
    let sums := (List.range 128).map fun i =>
      if i < rows then m.rowSum i (ta.rowElts ab i) (lane32 old i) else lane32 old i
    s1.updMe fun c => { c with rs := Store.set 0 c.rs acc (BitVec.ofNat 4096 (packBits 32 sums)) }
  else s1

/-- An uncorrectable error in an operand: the accumulator's contents, its row sums among them, are undefined (R200).
DESIGN CHOICE, log 4, 81. -/
def State.eccMma (s : State) (acc : Nat) : State :=
  let n := s.freeCtr
  let rows := (List.range 128).map fun i => Config.freeRow (128 * n + i)
  let s1 := s.raise .eccUncorrected none none
  { s1.updMe fun c =>
      { c with
        acc := Store.put 0 c.acc (acc * 128) rows
        rs := Store.set 0 c.rs acc (Config.freeRow (128 * n + 128)) } with freeCtr := n + 2 }

/-- Rows 0 to n − 1 of a tile hold poison (R200). -/
def Tile.badRows (t : Tile) (n : Nat) : Bool := t.poison.any fun j => decide (128 * j < n * rowBytes t.ty)

/-- What reads an accumulator finds an uncorrectable error in it, or goes on by `f` (R200). -/
def State.unlessBad (s : State) (acc : BitVec 3) (f : State) : State :=
  if s.iss.latch.accBad acc.toNat 128 then s.eccMma acc.toNat else f

/-- Two operands in one bank group: the operand field is one of the two handle fields, which of them
is open (R202 check 8). DESIGN CHOICE, log 31. -/
def State.bankConflict (s : State) (a b : DWord) : State :=
  let d := s.drawBit
  d.2.raise .bankConflict (some (if d.1 then a else b)) none

/-- A multiply past its waits: checks 2 to 10 of R202, then its effect (R203). DEDUCED, log 32, 80, 84. -/
def State.mmaGo (s : State) (k : MmaKind) (m : MmaArgs) : State :=
  let f := s.opFmt
  let beats := m.beats1.toNat + 1
  let fa : DWord := m.ta.setWidth 64
  let fb : DWord := m.tb.setWidth 64
  s.withAcc m.acc
    (match mmaRate k (fmtMxa f) (fmtMxb f) with
     | none => s.raise .illegalFormat (some (f.setWidth 64)) none
     | some r =>
       if fmtMxa f = 2 ∧ fmtBs f = true then s.raise .illegalFormat (some (f.setWidth 64)) none
       else if beats % r ≠ 0 ∨ 128 < beats / r then
         s.raise .illegalOperand (some (BitVec.ofNat 64 beats)) none
       else
         match s.resolve m.ta.toNat, s.resolve m.tb.toNat with
         | none, _ => s.raise .illegalOperand (some fa) none
         | _, none => s.raise .illegalOperand (some fb) none
         | some ha, some hb =>
           match s.me.tile ha, s.me.tile hb with
           | none, _ => s.raise .illegalOperand (some fa) none
           | _, none => s.raise .illegalOperand (some fb) none
           | some ta, some tb =>
             if ta.ty.toNat ≠ fmtMxa f then s.raise .illegalFormat (some fa) none
             else if tb.ty.toNat ≠ fmtMxb f then s.raise .illegalFormat (some fb) none
             else if ta.sealed then s.raise .protection (some fa) none
             else if ta.bankY = tb.bankY then s.bankConflict fa fb
             else if ta.st = .faulted then s.raise .fillFault (some ta.gva) (some 0)
             else if tb.st = .faulted then s.raise .fillFault (some tb.gva) (some 0)
             else
               let go := fun (s : State) =>
                 if ta.badRows (beats / r) = true ∨ tb.badRows 128 = true ∨
                     (m.z = false ∧ s.iss.latch.accBad m.acc.toNat (beats / r) = true) then s.eccMma m.acc.toNat
                 else
                   let core := s.core (coreOf s.cur)
                   let cap : MmaCap :=
                     { kind := k
                       f := f
                       cb := Store.get Codebook.zero core.cb (m.sidx.toNat % 4)
                       stab := (core.stab.extractLsb' (32 * m.sidx.toNat) 32).toNat
                       sa := core.sa
                       z := m.z }
                   (s.mmaWrite cap m.acc.toNat ta tb (beats / r)).holds beats (some m.acc) [ha, hb]
                     none
               if tb.sealed then s.sealedBeat tb go else go s)

/-- The MMA family: spacing and waits, then the checks (R202). DEDUCED, log 84. -/
def State.mmaRun (s0 : State) (k : MmaKind) (m : MmaArgs) : State :=
  let s := (s0.noteAlias m.ta.toNat).noteAlias m.tb.toNat
  s.withEngine (some m.acc)
    (match s.matWait (s.resolve m.ta.toNat), s.matWait (s.resolve m.tb.toNat) with
     | some t, none => t
     | none, some t => t
     | some t, some u =>
       t.updIss fun i => { i with later := i.later ++ u.iss.later.drop s.iss.later.length }
     | none, none => s.mmaGo k m)

/-- R201 to R204. -/
def execMma (m : MmaArgs) (s : State) : Out := .next (s.mmaRun .plain m)
/-- R201 to R204. -/
def execMmaq (m : MmaArgs) (s : State) : Out := .next (s.mmaRun .int4 m)
/-- R201 to R204. -/
def execMmal (m : MmaArgs) (s : State) : Out := .next (s.mmaRun .lut4 m)

/-! ### The other MX instructions (R205, R206) -/

/-- R205. -/
def execMxz (acc : BitVec 3) (s : State) : Out :=
  .next (s.withEngine (some acc) (s.withAcc acc
    ((s.updMe fun c =>
      { c.mendAcc acc.toNat 128 with
        acc := Store.put 0 c.acc (acc.toNat * 128) (List.replicate 128 0)
        rs := Store.set 0 c.rs acc.toNat 0 }).holds 1 (some acc) [] none)))

/-- One element of an epilogue (R73). -/
def epilogue (scol zp rs d : Nat) : Nat :=
  let t1 := round32 (Ext.mul (f32 zp) (f32 rs))
  let t2 := round32 (Ext.add .rne (f32 d) (f32 t1).neg)
  round32 (Ext.mul (f32 scol) (f32 t2))

/-- R73, R200, R205. -/
def execMxepi (acc : BitVec 3) (vs vz : BitVec 6) (s : State) : Out :=
  .next (s.withEngine (some acc) (s.withAcc acc
    (s.unlessBad acc <|
     let l := s.iss.latch
     let rs := l.accRs acc.toNat
     let rows := (List.range 128).map fun i =>
       let row := l.accRow acc.toNat i
       BitVec.ofNat 4096 (packBits 32 ((List.range 128).map fun j =>
         epilogue (lane32 (s.opV vs) j) (lane32 (s.opV vz) j) (lane32 rs i) (lane32 row j)))
     (s.updMe fun c => { c with acc := Store.put 0 c.acc (acc.toNat * 128) rows }).holds 64
       (some acc) [] none)))

/-- Entry `e` of a codebook as MXCB loads it (R205). -/
def cbEntry (e4m3 : Bool) (x : VWord) (e : Nat) : Nat := if e4m3 then elt 8 x e else elt 16 x e

/-- R205. -/
def execMxcb (cb : BitVec 2) (a : BitVec 6) (s : State) : Out :=
  .next (s.withEngine none
    (if 2 ≤ fmtCbf s.opFmt then s.raise .illegalFormat none none
     else
       let e4m3 := decide (fmtCbf s.opFmt = 1)
       let xs := (List.range 16).map (cbEntry e4m3 (s.opV a))
       let new : Codebook := ⟨e4m3, BitVec.ofNat 256 (packBits 16 xs)⟩
       (s.updCore (coreOf s.cur) fun k =>
         { k with cb := Store.set Codebook.zero k.cb cb.toNat new, cfgOwner := some s.cur }).holds 1
           none [] none))

/-- R205. -/
def execMxrs (d : BitVec 6) (acc : BitVec 3) (s : State) : Out :=
  .next (s.withEngine (some acc) (s.withAcc acc
    ((s.setV d (s.iss.latch.accRs acc.toNat) 4).holds 1 (some acc) [] none)))

/-- R205. -/
def execMxsa (a : BitVec 6) (s : State) : Out :=
  .next (s.withEngine none
    ((s.updCore (coreOf s.cur) fun k => { k with sa := s.opV a, cfgOwner := some s.cur }).holds 1
      none [] none))

/-- One element that MXST stores (R206). -/
def storeElt (t : ETy) (mode : Rnd) (sat : Bool) (d : Nat) : Nat :=
  match t with
  | .flt f => f.round mode sat (f32 d)
  | .int b sg => narrow b sg sat (sval 32 d)
  | .lut4 => 0

/-- The whole tile that MXST writes. -/
def Latch.storeTile (l : Latch) (acc : Nat) (t : ETy) (mode : Rnd) (sat : Bool) : List Byte :=
  (List.range 128).flatMap fun i =>
    let row := l.accRow acc i
    leBytes (16 * t.bits)
      (packBits t.bits ((List.range 128).map fun j => storeElt t mode sat (lane32 row j)))

/-- R200, R206. DESIGN CHOICE, log 31; DEDUCED, log 80. -/
def execMxst (acc : BitVec 3) (th : BitVec 5) (ty : BitVec 4) (r : RndSel) (s : State) : Out :=
  .next (s.withEngine (some acc)
    (let h := th.toNat
     let busy :=
       match s.me.tile h with
       | some t => decide (t.busy ≠ []) || decide (t.st = .filling)
       | none => false
     if h < 24 ∧ busy = true then s.blocks
     else
       s.withAcc acc
         (match (if h < 24 then s.me.tile h else none) with
          | none => s.raise .illegalOperand none none
          | some t =>
            match vtyOf ty.toNat with
            | none => s.raise .illegalFormat none none
            | some e =>
              if t.ty ≠ ty then s.raise .illegalFormat none none
              else if t.sealed then s.raise .protection none none
              else
                s.unlessBad acc <|
                let bytes := s.iss.latch.storeTile acc.toNat e (rndOf s.opFmt r) (fmtSat s.opFmt)
                (s.setTile s.cur h (some { t with pend := Store.put 0 [] 0 bytes })).holds 64
                  (some acc) [h] (some h))))

/-! ### Ends (R197, R199, R206) -/

/-- One busy mark less. -/
def Tile.unbusy (t : Tile) (b : BusyBy) : Tile := { t with busy := t.busy.erase b }

/-- R197, R199: the occupancy of the core's MX instruction ends; its busy bits clear. The tile of an
MXST becomes FULL when it is scratch; a backed one stays busy until its lines are written (R206).
DEDUCED, log 80. -/
def execMxOccupancyEnd (core : Nat) (s : State) : Out :=
  .next
    (let k := s.core core
     match k.mxHolder with
     | none => s
     | some c =>
       if s.cycle < k.mxUntil then s
       else
         let s1 := k.mxTiles.foldl (fun s x =>
           match s.tile x.1 x.2 with
           | none => s
           | some t =>
             if BusyBy.mxst ∈ t.busy then
               if t.scr then s.setTile x.1 x.2 (some (t.stored .full))
               else s.after 0 (.mxstTileWriteDone x.1 x.2)
             else s.setTile x.1 x.2 (some (t.unbusy .mx))) s
         (s1.updCore core fun k => { k with mxHolder := none, mxTiles := [] }).updCtx c fun x =>
           { x with accBusy := [] })

/-- The line of memory that line `j` of a backed tile stands for: the one its fill recorded, else by
translation (R158). DESIGN CHOICE, log 37. -/
def State.tileLine (s : State) (c : Nat) (t : Tile) (j : Nat) : XRes :=
  match Store.get 0 t.phys j with
  | l + 1 => .ok (128 * l) (decide (j ∉ t.ro))
  | 0 => s.xlate (s.ctx c).part (t.addrOf (128 * j)) true

/-- Tiles elsewhere that share a line with a tile and are busy (R206). -/
def State.sharedBusy (s : State) (c th : Nat) (lines : List Nat) : Bool :=
  lines.any fun l =>
    (s.sharers l).any fun x =>
      !(x.1 == c && x.2.1 == th) &&
        match s.tile x.1 x.2.1 with
        | some t => decide (t.busy ≠ [])
        | none => false

/-- R206: every line of an MXST's backed tile has been written, each held exclusive; the tile becomes
DIRTY. While a tile elsewhere that shares a line is busy, or a line's slice is being moved, the write waits (R279,
R280). DESIGN CHOICE, log 37. -/
def execMxstTileWriteDone (ctx th : Nat) (s : State) : Out :=
  .next
    (match s.tile ctx th with
     | none => s
     | some t =>
       if BusyBy.mxst ∉ t.busy ∨ (ctx, th) ∈ (s.core (coreOf ctx)).mxTiles then s
       else
         let ls := (List.range t.lines).filterMap fun j =>
           match s.tileLine ctx t j with
           | .ok key _ => some (j, key / 128)
           | _ => none
         if s.sharedBusy ctx th (ls.map Prod.snd) = true ∨ (ls.any fun x => s.reqWaits x.2) = true then
           s.schedule 1 (.mxstTileWriteDone ctx th)
         else
           let s1 := ls.foldl (fun s x => s.recall x.2 (some (ctx, th))) s
           s1.setTile ctx th (some
             { t.stored .dirty with
               phys := ls.map fun x => (x.1, x.2 + 1)
               ro := (List.range t.lines).filter fun j =>
                 match s.tileLine ctx t j with
                 | .ok _ w => !w
                 | _ => false }))

end Sys2Proof.Machine
end

