-- ==== Sys2Proof/Machine/Dm.lean ====
section
/-!
DEFINITION. Instructions of the DM slot (R155 to R181), but ENQ and DEQ, which stand with the frontier
unit.
-/
namespace Sys2Proof.Machine

open Sys2Proof

/-- The NOP of DM: as an absent slot (R19). -/
def execNopDm (s : State) : Out := .next s

/-! ### Synchronous reads of a DM instruction -/

/-- The running context's next bundle waits until a line that was read has come, an open duration (R170, R322).
DESIGN CHOICE, log 3. -/
def State.takesTime (s : State) : State :=
  let t := s.cycle + s.nextDelay
  (s.updMe fun c => { c with stallTo := t }).spent true

/-- Read `n` bytes of one line for a DM instruction (R48, R162): LATE_MISS, HOST_GONE and
ECC_UNCORRECTED are precise; a refused read, or one of the range of a sealed tile of the cluster, gives all ones
(R158). DEDUCED, log 32. -/
def State.dmRead (s : State) (a : DWord) (n : Nat) (f : List Byte → State → State) : State :=
  match (if s.sealedTile (clusterOf s.cur) s.me.part a then .refused else s.memRoute s.cur a true false) with
  | .miss => s.raise .lateMiss (some a) none
  | .hostGone => s.raise .hostGone (some a) none
  | .poison => s.raise .eccUncorrected (some a) none
  | .busy => s.stalls
  | .mem k => f (s.rdLine k n) s
  | _ => f (List.replicate n (BitVec.allOnes 8)) (s.logMine a)

/-! ### Tiles (R156, R157, R175) -/

/-- A tile as a descriptor gives it, EMPTY (R156). -/
def tileOf (d : BitVec 256) : Tile :=
  { gva := d.extractLsb' 0 64
    rstride := d.extractLsb' 64 32
    ty := d.extractLsb' 104 4
    unit := d.extractLsb' 112 8
    bankY := d.getLsbD 129
    scr := d.getLsbD 130
    sealed := d.getLsbD 131
    bv := d.getLsbD 132
    ub := d.extractLsb' 133 3
    st := .empty
    busy := []
    data := []
    pend := []
    poison := []
    ro := []
    phys := []
    bad := 0 }

/-- Reserved descriptor fields (R156). -/
def descReserved (d : BitVec 256) : Bool :=
  decide (d.extractLsb' 96 8 ≠ 0) || decide (d.extractLsb' 108 4 ≠ 0) ||
    decide (d.extractLsb' 120 8 ≠ 0) || d.getLsbD 128 || decide (d.extractLsb' 136 120 ≠ 0)

/-- The units that a tile holds in its bank group. -/
def Tile.unitsMeet (t q : Tile) : Bool :=
  decide (t.bankY = q.bankY) && decide (t.unit.toNat < q.unit.toNat + tileUnits q.ty) &&
    decide (q.unit.toNat < t.unit.toNat + tileUnits t.ty)

/-- Types that `fmt.mxb` admits (R57). -/
def inMxb (ty : BitVec 4) : Bool := decide (ty.toNat ∈ [2, 3, 6, 7, 8, 9, 10])

/-- The checks of R157 on a descriptor's fields: the row and the cause of the first that fails. -/
def State.tileCheck (s : State) (d : BitVec 256) : Option (Nat × Cause) :=
  let t := tileOf d
  let x := s.me
  let grant := if t.bankY then x.unitY.2 else x.unitX.2
  let mapped := x.tiles.filterMap fun e => if e.1 < 32 then e.2 else none
  let rs := t.rstride.toNat
  if descReserved d then some (3, .illegalOperand)
  else if (etyOf t.ty.toNat).isNone then some (4, .illegalFormat)
  else if t.sealed = true ∧ inMxb t.ty = false then some (5, .illegalFormat)
  else if t.sealed = true ∧ t.bv = false then some (6, .illegalOperand)
  else if t.scr = true ∧ (t.gva ≠ 0 ∨ t.rstride ≠ 0) then some (7, .illegalOperand)
  else if rs ≠ 0 ∧ (rs % 128 ≠ 0 ∨ rs < rowBytes t.ty ∨ rowBytes t.ty = 64) then
    some (8, .illegalOperand)
  else if t.gva.toNat % 128 ≠ 0 then some (9, .align)
  else if grant < t.unit.toNat + tileUnits t.ty ∨ (mapped.any t.unitsMeet) = true then
    some (10, .illegalOperand)
  else if t.scr = false ∧ ((clusterCtxs (clusterOf s.cur)).any fun c =>
      (s.ctx c).tiles.any fun e =>
        decide (e.1 < 32) &&
          match e.2 with
          | some q => (List.range t.lines).any fun j => (q.offsetOf (t.addrOf (128 * j))).isSome
          | none => false) = true then some (11, .illegalOperand)
  else none

/-- Units that a tile needs are still held by one being unmapped (R175). DEDUCED, log 22. -/
def State.unitsHeld (s : State) (t : Tile) : Bool :=
  s.me.tiles.any fun e =>
    decide (32 ≤ e.1) &&
      match e.2 with
      | some q => t.unitsMeet q
      | none => false

/-- R156, R157, R175. -/
def execTmap (th : BitVec 5) (a : BitVec 6) (s : State) : Out :=
  .next
    (let da := s.opS a
     let bad := fun (s : State) (row : Nat) (c : Cause) =>
       s.raise c (some da) (some (BitVec.ofNat 64 row))
     if 24 ≤ th.toNat ∨ (s.me.tile th.toNat).isSome = true then bad s 1 .illegalOperand
     else if da.toNat % 32 ≠ 0 then bad s 2 .align
     else
       s.dmRead da 32 fun bytes s =>
         let d := BitVec.ofNat 256 (leNat bytes)
         match s.tileCheck d with
         | some (row, c) => bad s row c
         | none =>
           if s.unitsHeld (tileOf d) then s.stalls
           else (s.setTile s.cur th.toNat (some (tileOf d))).takesTime)

/-- The tile of a direct handle (R175); ILLEGAL_OPERAND where there is none. -/
def State.direct (s : State) (th : BitVec 5) (f : Tile → State) : State :=
  if 24 ≤ th.toNat then s.raise .illegalOperand none none
  else
    match s.me.tile th.toNat with
    | none => s.raise .illegalOperand none none
    | some t => f t

/-- The tile of a direct handle or of a ring alias (R161, R175). -/
def State.aliased (s : State) (th : BitVec 5) (f : Nat → Tile → State) : State :=
  match s.resolve th.toNat with
  | none => s.raise .illegalOperand none none
  | some h =>
    match s.me.tile h with
    | none => s.raise .illegalOperand none none
    | some t => f h t

/-- A member of an initialised ring (R175). -/
def Ctx.ringMember (x : Ctx) (h : Nat) : Bool :=
  x.rings.any fun e =>
    match e.2 with
    | some r => decide (h ∈ r.members)
    | none => false

/-- The command of a fill or write-back of one tile goes on under another key. -/
def CmdKind.rename (k : CmdKind) (c th key : Nat) : CmdKind :=
  match k with
  | .fill o h => if o = c ∧ h = th then .fill o key else k
  | .wb o h => if o = c ∧ h = th then .wb o key else k
  | _ => k

/-- The handle is free at once; its tile stands under the number of the unmap command (R175).
DEDUCED, log 22. -/
def State.detach (s : State) (th : Nat) (t : Tile) : State :=
  let k := coreOf s.cur
  let key := 32 + s.nextIdent
  let s1 := (s.setTile s.cur th none).setTile s.cur key (some t)
  let s2 := s1.updCore k fun c =>
    { c with
      mxTiles := c.mxTiles.map fun x => if x = (s.cur, th) then (s.cur, key) else x
      journal := c.journal.map fun q => { q with kind := q.kind.rename s.cur th key } }
  let s3 := s2.updIss fun i =>
    { i with hold := i.hold.map fun h =>
        { h with
          tiles := h.tiles.map fun x => if x = (s.cur, th) then (s.cur, key) else x
          store := h.store.map fun x => if x = (s.cur, th) then (s.cur, key) else x } }
  if BusyBy.mxst ∈ t.busy then s3.after 0 (.mxstTileWriteDone s.cur key) else s3

/-- R175. -/
def execTunmap (th k : BitVec 5) (s : State) : Out :=
  .next (s.direct th fun t =>
    if s.me.ringMember th.toNat then s.raise .illegalOperand none none
    else
      s.async fun s =>
        let key := 32 + s.nextIdent
        (s.detach th.toNat t).issueCmd (.unmap s.cur key) k [])

/-- R160, R175. A scratch tile is never filled from memory. A tile that is not busy is FILLING from the
issue on. DEDUCED, log 19, 21; DESIGN CHOICE, log 36. -/
def execTfill (th k : BitVec 5) (s : State) : Out :=
  .next (s.aliased th fun h t =>
    if t.scr = true ∧ (t.st = .empty ∨ t.st = .faulted) then s.raise .illegalOperand none none
    else
      s.async fun s =>
        let s1 := s.issueCmd (.fill s.cur h) k []
        if (t.st = .empty ∨ t.st = .faulted) ∧ t.busy = [] then
          s1.beginFill (coreOf s.cur) s.nextIdent s.cur h t
        else s1)

/-- R160, R175. A DIRTY tile that is not busy is being written back from the issue on. DEDUCED, log 19. -/
def execTwb (th k : BitVec 5) (s : State) : Out :=
  .next (s.aliased th fun h t =>
    s.async fun s =>
      let core := coreOf s.cur
      let id := s.nextIdent
      let s1 := s.issueCmd (.wb s.cur h) k []
      if t.st = .dirty ∧ t.busy = [] then
        s1.beginFlush core id s.cur h t (.writeBackComplete core id)
      else s1)

/-- R160, R175. -/
def execTinv (th : BitVec 5) (s : State) : Out :=
  .next (s.direct th fun t =>
    if t.busy ≠ [] then s.blocks else s.setTile s.cur th.toNat (some t.emptied))

/-- A FULL tile of zeros (R160). -/
def Tile.zeroed (t : Tile) : Tile := { t with st := .full, data := [], poison := [] }

/-- R160, R175. -/
def execTsetf (th : BitVec 5) (f : Bool) (s : State) : Out :=
  .next (s.direct th fun t =>
    if t.scr = false then s.raise .illegalOperand none none
    else if t.busy ≠ [] then s.blocks
    else
      s.setTile s.cur th.toNat (some
        (if f then (if t.st = .full then t else t.zeroed) else t.emptied)))

/-! ### Probes (R163, R164, R176) -/

/-- Pages of a range. -/
def pagesOf (a : DWord) (n : Nat) : List Nat :=
  (List.range ((a.toNat % 4096 + n + 4095) / 4096)).map fun i => (a.toNat / 4096 + i) % 2 ^ 52

/-- What one page does to a PROBE. -/
inductive ProbeRes where
  | ok | waits
  | bad (c : Cause)
  deriving DecidableEq, Repr

/-- A page request of the running context: its status is 0 while outstanding, 3 while outstanding for
the second time, 1 when it failed, 2 when the returned page failed its check (R291, R308). -/
def State.pageReq (s : State) (vp : Nat) : Option Nat :=
  (s.host.pri.find? fun r => decide (r.1 = s.cur ∧ r.2.1 = vp)).map fun r => r.2.2

/-- R162, R164, R292. DEDUCED, log 39. -/
def State.probePage (s : State) (vp : Nat) (write : Bool) : ProbeRes :=
  let e := (s.part s.me.part).page vp
  if e.host = true ∧ s.hostGone s.me.part = true then .bad .hostGone
  else if e.present then
    if write = true ∧ e.writable = false then .bad .protection else .ok
  else if s.pageReq vp = some 2 then .bad .integrity
  else if e.host then (if s.pageReq vp = some 1 then .bad .lateMiss else .waits)
  else .bad .lateMiss

/-- Address of a page within a range that starts at `a`. DEDUCED, log 39. -/
def pageAddr (a : DWord) (vp : Nat) : DWord :=
  if a.toNat / 4096 = vp then a else BitVec.ofNat 64 (vp * 4096)

/-- R163, R164, R176: a PROBE that faults keeps the pages that have resolved pinned; its walks take an open
duration, in which the context's bundles stall (R322). DESIGN CHOICE, log 36;
DEDUCED, log 39. -/
def execProbe (w : Bool) (a b : BitVec 6) (s : State) : Out :=
  .next
    (let start := s.opS a
     let n := (s.opS b).toNat
     if n = 0 ∨ 2 ^ 30 < n then s.raise .illegalOperand none none
     else if 16 ≤ s.me.probes.length then s.raise .illegalOperand none none
     else
       let ps := pagesOf start n
       match ps.findSome? fun vp =>
           match s.probePage vp w with
           | .bad c => some (c, vp)
           | _ => none with
       | some (c, vp) =>
         let s1 : State := { s with host := { s.host with
           pri := s.host.pri.filter fun r => decide (r.1 ≠ s.cur) } }
         let held := ps.filter fun vp => decide (s.probePage vp w = .ok)
         (s1.updMe fun c => { c with pins := (c.pins ++ held).eraseDups }).raise c
           (some (pageAddr start vp)) none
       | none =>
         match ps.filter fun vp => decide (s.probePage vp w = .waits) with
         | [] => (s.updMe fun c =>
           { c with
             probes := c.probes ++ [⟨start, n, w⟩]
             pins := c.pins.filter fun vp => decide (vp ∉ ps) }).takesTime
         | l => (l.foldl (fun s vp => s.sets (.pageRequest vp)) s).blocks)

/-- R176. -/
def execUnprobe (a b : BitVec 6) (s : State) : Out :=
  .next
    (let start := s.opS a
     let n := (s.opS b).toNat
     if n = 0 ∨ 2 ^ 30 < n then s.raise .illegalOperand none none
     else
       match s.me.probes.find? fun q => decide (q.start = start ∧ q.len = n) with
       | none => s.raise .illegalOperand none none
       | some q => s.updMe fun c => { c with probes := c.probes.erase q })

/-! ### Copy staging (R169, R171, R172) -/

def State.updStaging (s : State) (f : Staging → Staging) : State :=
  s.updMe fun c => { c with staging := f c.staging }

/-- R171. -/
def execCpylv (l : Fin 6) (a b : BitVec 6) (s : State) : Out :=
  .next
    (let n := s.opS a
     let lv : CpLevel :=
       ⟨n.setWidth 16, (s.opS b).extractLsb' 0 32, (s.opS b).extractLsb' 32 32⟩
     if (if l = 0 then 65536 else 65535) < n.toNat then s.raise .illegalOperand (some n) none
     else
       s.updStaging fun g =>
         match l.val with
         | 0 => { g with c0 := n.toNat }
         | 1 => { g with l1 := lv }
         | 2 => { g with l2 := lv }
         | 3 => { g with l3 := lv }
         | 4 => { g with l4 := lv }
         | _ => { g with l5 := lv })

/-- R171. -/
def execCpybs (a b : BitVec 6) (s : State) : Out :=
  .next (s.updStaging fun g => { g with sbase := s.opS a, dbase := s.opS b })

/-- The geometry that three scalars give, if they select a mode (R172). -/
def convOf (o e p : DWord) : Option (Option ConvGeom) :=
  let w : BitVec 16 := e.extractLsb' 0 16
  let h : BitVec 16 := e.extractLsb' 16 16
  let n : BitVec 16 := e.extractLsb' 32 16
  if o.extractLsb' 48 16 ≠ 0 ∨ e.extractLsb' 56 8 ≠ 0 then none
  else if w = 0 then (if h = 0 ∧ n = 0 ∧ o = 0 then some none else none)
  else if h = 0 ∨ n = 0 ∨ p = 0 ∨ 2 ^ 32 < p.toNat then none
  else
    some (some
      { x0 := o.extractLsb' 0 16, y0 := o.extractLsb' 16 16, n0 := o.extractLsb' 32 16,
        w := w, h := h, n := n, pad := e.extractLsb' 48 8, pitch := p })

/-- R172. -/
def execCpycv (d a b : BitVec 6) (s : State) : Out :=
  .next
    (match convOf (s.opS d) (s.opS a) (s.opS b) with
     | none => s.raise .illegalOperand none none
     | some v => s.updStaging fun g => { g with conv := v })

/-! ### Copies and gathers (R173, R174) -/

def Ctx.ring (x : Ctx) (q : Nat) : Option Ring := Store.get none x.rings q
def Ctx.setRing (x : Ctx) (q : Nat) (r : Option Ring) : Ctx :=
  { x with rings := Store.set none x.rings q r }

/-- Claim the tile at the write pointer of a ring (R161). -/
def State.claim (s : State) (q : Nat) (r : Ring) : State :=
  s.updMe fun c => c.setRing q (some { r with wr := (r.wr + 1) % r.members.length })

/-- The tile that a command aimed at a ring claims. -/
def Ring.slot (r : Ring) : Nat := r.members.getD r.wr 0

/-- Bytes of a claimed tile. -/
def State.slotBytes (s : State) (h : Nat) : Nat :=
  match s.me.tile h with
  | some t => tileBytes t.ty
  | none => 0

/-- Convolution mode with a run longer than a pixel (R173). -/
def Staging.badConv (g : Staging) : Bool :=
  match g.conv with
  | some v => decide (v.pitch.toNat < g.c0)
  | none => false

/-- The commands that a consumer of a token waits for (R166). -/
def State.waitsFor (s : State) (ks : List (BitVec 5)) : List Nat :=
  ((s.cores.flatMap fun e => e.2.journal).filter fun q =>
    decide (q.ctx = s.cur ∧ q.tok ≠ 31 ∧ q.tok ∈ ks)).map Cmd.id

/-- R173. -/
def execCpygo (kp ka kb kc : BitVec 5) (ring : Option (BitVec 3)) (s : State) : Out :=
  .next
    (let g := s.me.staging
     match ring with
     | none =>
       if g.badConv then s.raise .illegalOperand none none
       else s.async fun s => s.issueCmd (.copy g none) kp (s.waitsFor [ka, kb, kc])
     | some q =>
       match s.me.ring q.toNat with
       | none => s.raise .illegalOperand none none
       | some r =>
         if g.fits (s.slotBytes r.slot) = false ∨ g.badConv = true then
           s.raise .illegalOperand none none
         else
           s.async fun s =>
             (s.claim q.toNat r).issueCmd (.copy g (some (q.toNat, r.slot))) kp
               (s.waitsFor [ka, kb, kc]))

/-- Whether the rows of a GATH lie in a tile of `n` bytes (R173, R174). -/
def Staging.gathFits (g : Staging) (rows n : Nat) : Bool :=
  if g.c0 = 0 ∨ rows = 0 then true
  else decide (0 ≤ spanLow rows g.l1.ds ∧ spanHigh rows g.l1.ds + g.c0 ≤ n)

/-- R174. DESIGN CHOICE, log 30, 36. -/
def execGath (a b : BitVec 6) (k : BitVec 5) (ring : Option (BitVec 3)) (s : State) : Out :=
  .next
    (let g := s.me.staging
     let n := (s.opS b).toNat
     let one := fun (l : CpLevel) => decide (l.cnt = 1)
     if (s.opS a).toNat % 4 ≠ 0 then s.raise .align (some (s.opS a)) none
     else if 65536 ≤ n then s.raise .illegalOperand none none
     else if g.conv.isSome ∨ (one g.l2 && one g.l3 && one g.l4 && one g.l5) = false then
       s.raise .illegalOperand none none
     else
       match ring with
       | none => s.async fun s => s.issueCmd (.gath g (s.opS a) n none) k []
       | some q =>
         match s.me.ring q.toNat with
         | none => s.raise .illegalOperand none none
         | some r =>
           if g.gathFits n (s.slotBytes r.slot) = false then s.raise .illegalOperand none none
           else
             s.async fun s =>
               (s.claim q.toNat r).issueCmd (.gath g (s.opS a) n (some (q.toNat, r.slot))) k [])

/-! ### Rings (R161, R177, R178) -/

/-- The ring number that a command aims at. -/
def CmdKind.ringNo (k : CmdKind) : Option Nat :=
  match k with
  | .copy _ (some r) => some r.1
  | .gath _ _ _ (some r) => some r.1
  | _ => none

/-- A command in flight of the running context aims at a ring, one that has failed and waits to be restarted among
them (R165, R177, R178). DEDUCED, log 38. -/
def State.aimedAt (s : State) (q : Nat) : Bool :=
  (s.core (coreOf s.cur)).journal.any fun c =>
    decide (c.ctx = s.cur) && decide (c.kind.ringNo = some q)

/-- A matrix instruction holds a member of a ring (R178). DEDUCED, log 38. -/
def State.membersBusy (s : State) (ms : List Nat) : Bool :=
  ms.any fun h =>
    match s.me.tile h with
    | some t => decide (t.busy ≠ [])
    | none => false

/-- The members that a scalar names (R177). -/
def ringMembers (x : DWord) (n : Nat) : List Nat :=
  (List.range n).map fun k => (x.extractLsb' (5 * k) 5).toNat

/-- Whether a tile may be a member of ring `q` (R177). DEDUCED, log 38. -/
def State.mayJoin (s : State) (q h : Nat) : Bool :=
  decide (h < 24) &&
    (match s.me.tile h with
     | some t => t.scr
     | none => false) &&
    s.me.rings.all fun e =>
      decide (e.1 = q) ||
        match e.2 with
        | some r => decide (h ∉ r.members)
        | none => true

/-- R177, R178. DESIGN CHOICE, log 36; DEDUCED, log 38. -/
def execRbinit (rb : BitVec 3) (a b : BitVec 6) (s : State) : Out :=
  .next
    (let q := rb.toNat
     let n := (s.opS b).toNat
     let ms := ringMembers (s.opS a) (if 8 < n then 0 else n)
     let old :=
       match s.me.ring q with
       | some r => r.members
       | none => []
     if s.aimedAt q then s.stalls
     else if s.membersBusy old then s.stalls
     else if n = 0 then s.updMe fun c => c.setRing q none
     else if 8 < n ∨ (s.opS a).toNat / 2 ^ (5 * n) ≠ 0 ∨ (ms.all fun h => s.mayJoin q h) = false ∨
         ¬ ms.Nodup then
       s.raise .illegalOperand none none
     else if s.membersBusy ms then s.blocks
     else
       let s1 := ms.foldl (fun s h => s.updTile s.cur h Tile.emptied) s
       s1.updMe fun c => c.setRing q (some ⟨ms, 0, 0⟩))

/-- The read slot of a ring (R161). -/
def State.readSlot (s : State) (rb : BitVec 3) (f : Ring → Nat → Tile → State) : State :=
  match s.me.ring rb.toNat with
  | none => s.raise .illegalOperand none none
  | some r =>
    let h := r.members.getD r.rd 0
    match s.me.tile h with
    | none => s.raise .illegalOperand none none
    | some t => f r h t

/-- R177. DESIGN CHOICE, log 31. -/
def execRbwait (rb : BitVec 3) (s : State) : Out :=
  .next (s.readSlot rb fun _ _ t =>
    if t.st = .faulted then s.raise .fillFault none none
    else if t.isFull = false then s.blocks
    else s)

/-- R160, R177. -/
def execRbrel (rb : BitVec 3) (s : State) : Out :=
  .next (s.readSlot rb fun r h t =>
    if t.busy ≠ [] then s.blocks
    else if t.st ≠ .full then s.raise .illegalOperand none none
    else
      (s.setTile s.cur h (some t.emptied)).updMe fun c =>
        c.setRing rb.toNat (some { r with rd := (r.rd + 1) % r.members.length }))

/-! ### Scale table, collectives, L2 locks (R179 to R181) -/

/-- R179. -/
def execSctld (a : BitVec 6) (s : State) : Out :=
  .next
    (let da := s.opS a
     if da.toNat % 64 ≠ 0 then s.raise .align (some da) none
     else
       s.dmRead da 64 fun bytes s =>
         (s.updCore (coreOf s.cur) fun k =>
           { k with stab := BitVec.ofNat 512 (leNat bytes), cfgOwner := some s.cur }).takesTime)

/-- R180. -/
def execColl (a : BitVec 6) (k : BitVec 5) (s : State) : Out :=
  .next
    (if (s.opS a).toNat % 64 ≠ 0 then s.raise .align (some (s.opS a)) none
     else s.async fun s => s.issueCmd (.coll (s.opS a)) k [])

/-- Ways of an L2 set (R11). -/
def l2Ways : Nat := 16

/-- The line that an address of the context stands for, where it has one: partition and line.
DEDUCED, log 40. -/
def State.lockLine (s : State) (a : DWord) : Option Nat :=
  match s.xlate s.me.part a false with
  | .ok key _ => some (key / 128)
  | _ => none

/-- Lines of a range. DEDUCED, log 40. -/
def State.lockRange (s : State) (a : DWord) (n : Nat) : List Nat :=
  ((List.range (n / 128)).filterMap fun i => s.lockLine (a + BitVec.ofNat 64 (128 * i))).eraseDups

/-- Locked lines of a set, whoever locked them. DESIGN CHOICE, log 25. -/
def State.lockedIn (s : State) (set : Option Nat × Nat) : List Nat :=
  ((s.locks.filter fun k => decide (s.setOf k.line = set)).map Lock.line).eraseDups

/-- The lines of `new` that L2LOCK locks, and whether a set was left without an unlocked way (R181).
DESIGN CHOICE, log 25; DEDUCED, log 40. -/
def State.lockable (s : State) (new : List Nat) : List Nat × Bool :=
  let ok := fun (l : Nat) =>
    let set := s.setOf l
    let mine := new.filter fun x => decide (s.setOf x = set)
    decide ((s.lockedIn set ++ mine).eraseDups.length < l2Ways)
  (new.filter ok, !(new.all ok))

/-- The checks of L2LOCK and L2UNLK (R181). -/
def State.withRange (s : State) (a b : BitVec 6) (f : List Nat → State) : State :=
  let da := s.opS a
  let n := (s.opS b).toNat
  if da.toNat % 128 ≠ 0 then s.raise .align (some da) none
  else if n = 0 ∨ n % 128 ≠ 0 then s.raise .illegalOperand none none
  else f (s.lockRange da n)

/-- R181: the lines that are locked are fetched, which takes an open duration (R170, R322). DEDUCED, log 40. -/
def execL2lock (d a b : BitVec 6) (s : State) : Out :=
  .next (s.withRange a b fun ls =>
    let me := s.me.identity
    let new := ls.filter fun l => s.locks.all fun k => decide (¬ (k.line = l ∧ k.ctx = me))
    if s.me.quota = 0 ∨ s.me.quota < s.me.locked + 128 * new.length then s.setS d 2 1
    else
      let r := s.lockable new
      let s1 : State := { s with locks := s.locks ++ r.1.map fun l => ⟨s.me.part, l, me⟩ }
      let s2 := (s1.updMe fun c => { c with locked := c.locked + 128 * r.1.length }).setS d
        (BitVec.ofNat 64 (r.1.length * 2 ^ 32 + if r.2 then 1 else 0)) 1
      if r.1 = [] then s2 else s2.takesTime)

/-- R181. DEDUCED, log 40. -/
def execL2unlk (d a b : BitVec 6) (s : State) : Out :=
  .next (s.withRange a b fun ls =>
    let mine := s.locks.filter fun k => decide (k.ctx = s.me.identity ∧ k.line ∈ ls)
    let s1 : State := { s with locks := s.locks.filter fun k => decide (k ∉ mine) }
    (s1.updMe fun c => { c with locked := c.locked - 128 * mine.length }).setS d
      (BitVec.ofNat 64 mine.length) 1)

end Sys2Proof.Machine
end

