-- ==== Sys2Proof/Machine/Engine.lean ====
section
/-!
DEFINITION. What the engines do after a bundle has issued: the starts and ends of DM commands (R160,
R161, R165 to R169, R175), results that land and accesses that complete (R40, R128, R151), and lines
that another agent writes or reads (R160).
-/
namespace Sys2Proof.Machine

open Sys2Proof

/-! ### Fills (R158, R160, R228) -/

/-- One line of a fill: its bytes, the line of memory recorded (0 for none), whether it is read-only
and whether it is poisoned. -/
structure FillLine where
  bytes : List Byte
  phys : Nat
  ro : Bool
  bad : Bool
  deriving DecidableEq, Repr

/-- The cluster whose engine runs a command. -/
def Cmd.cluster (q : Cmd) : Nat := clusterOf (q.ctx % 2048)

/-- A line that reads all ones; `phys` as in `FillLine`. -/
def FillLine.onesAt (phys : Nat) : FillLine := ⟨List.replicate 128 (BitVec.allOnes 8), phys, false, false⟩
def FillLine.ones : FillLine := .onesAt 0

/-- What the fill of a sealed tile makes of an address: refused, or the line, with the region that covers it
(R158, R228). A tile that fills a sealed region reads memory itself; only tiles filled before it was bound hold lines
of it (R228). -/
inductive SealedRes where
  | refused
  | bare (key : Nat)
  | covered (key off : Nat) (cek : BitVec 256)
  deriving DecidableEq, Repr

def State.sealedAt (s : State) (p : Nat) (a : DWord) : SealedRes :=
  let e := (s.part p).page (a.toNat / 4096)
  let pa := e.ppage * 4096 + a.toNat % 4096
  if e.host then .bare (keyOf hostSpace pa)
  else if s.walled p pa then .refused
  else
    match s.sealedBy p pa with
    | some (_, h) =>
      match h.region with
      | some (_, base) => .covered (keyOf p pa) (pa - base) h.key
      | none => .bare (keyOf p pa)
    | none => .bare (keyOf p pa)

/-- A line of a sealed tile: opened as it is filled, with the content key of the region that covers it; poison
stays, and one that no region covers reads all ones (R228, R302, R312). -/
def State.sealedLine (s : State) (p : Nat) (a : DWord) : FillLine :=
  match s.sealedAt p a with
  | .refused => .ones
  | .bare key => .onesAt (key / 128 + 1)
  | .covered key off cek =>
    ⟨Config.xtsOpen cek off (s.rdMem key 128), key / 128 + 1, false, decide (key / 128 ∈ s.poison)⟩

/-- A line of any tile, as its fill finds it. -/
def State.fillLine (s : State) (p : Nat) (t : Tile) (j : Nat) : FillLine :=
  let a := t.addrOf (128 * j)
  if t.sealed then s.sealedLine p a
  else
    match s.xlate p a false with
    | .ok key w => ⟨s.rdLine key 128, key / 128 + 1, !w, s.lineBad (key / 128)⟩
    | _ => .ones

/-- Why a fill fails, if it does (R165). DEDUCED, log 65. -/
def State.fillFailure (s : State) (p : Nat) (t : Tile) : Option (FailKind × DWord) :=
  (List.range t.lines).findSome? fun j =>
    let a := t.addrOf (128 * j)
    let e := (s.part p).page (a.toNat / 4096)
    if e.host = true ∧ s.hostGone p = true then some (.hostGone, a)
    else if e.present = false then some (.miss, a)
    else none

/-- A tile that its fill has filled (R158, R160). -/
def State.filled (s : State) (p : Nat) (t : Tile) : Tile :=
  let ls := (List.range t.lines).map fun j => (j, s.fillLine p t j)
  { t with
    st := .full
    busy := t.busy.erase .fill
    data := Store.put 0 [] 0 (ls.flatMap fun x => x.2.bytes)
    ro := (ls.filter fun x => x.2.ro).map Prod.fst
    phys := ls.filterMap fun x => if x.2.phys = 0 then none else some (x.1, x.2.phys)
    poison := (ls.filter fun x => x.2.bad).map Prod.fst }

/-- The place in memory that a fill reads a line from, where it reads one (R158, R228). -/
def State.fillKey (s : State) (p : Nat) (t : Tile) (j : Nat) : Option Nat :=
  let a := t.addrOf (128 * j)
  if t.sealed then
    match s.sealedAt p a with
    | .covered key _ _ => some key
    | _ => none
  else
    match s.xlate p a false with
    | .ok key _ => some key
    | _ => none

/-- A line of a fill is refused (R162, R228). -/
def State.fillRefused (s : State) (p : Nat) (t : Tile) (j : Nat) : Bool :=
  let a := t.addrOf (128 * j)
  if t.sealed then decide (s.sealedAt p a = .refused) else decide (s.xlate p a false = .refused)

/-- A fill has to wait for a busy tile that keeps one of its lines, or for a slice that is being moved (R160, R279,
R280). -/
def State.fillBusy (s : State) (p : Nat) (t : Tile) : Bool :=
  (List.range t.lines).any fun j => (s.fillKey p t j).any fun key => s.lineBusy (key / 128) none false

/-- Log the refused lines of a fill (R162, R301). -/
def State.logFill (s : State) (p c : Nat) (t : Tile) : State :=
  (List.range t.lines).foldl (fun s j =>
    if s.fillRefused p t j then s.logRefused p (reqOfCtx p c) (t.addrOf (128 * j)).toNat else s) s

/-- The fill commands under way for a tile: the one that fills it and those that wait for it.
DEDUCED, log 20. -/
def Core.fillsOf (k : Core) (o th : Nat) : List Cmd :=
  k.journal.filter fun q => decide (q.kind = .fill o th) && q.started && q.failed.isNone

/-- R160: a fill completes, if every page of the tile translates. DEDUCED, log 20. -/
def execFillComplete (core id : Nat) (s : State) : Out :=
  .next
    (match s.cmd core id with
     | none => s
     | some q =>
       match q.kind with
       | .fill o th =>
         match s.tile o th with
         | none => s.endCmd core id
         | some t =>
           if q.started = false ∨ q.failed.isSome = true ∨ t.st ≠ .filling ∨
               (s.fillFailure q.part t).isSome = true then s
           else if s.bundleOpen q = true ∨ s.fillBusy q.part t = true then s.fillEnds 1 core id
           else
             ((s.core core).fillsOf o th).foldl (fun s x => s.endCmd core x.id)
               ((s.logFill q.part o t).setTile o th (some (s.filled q.part t)))
       | _ => s)

/-- R165: a fill fails where a page of the tile does not translate. DEDUCED, log 20. -/
def execFillFail (core id : Nat) (s : State) : Out :=
  .next
    (match s.cmd core id with
     | none => s
     | some q =>
       match q.kind with
       | .fill o th =>
         match s.tile o th with
         | none => s.endCmd core id
         | some t =>
           match s.fillFailure q.part t with
           | none => s
           | some (f, a) =>
             if q.started = false ∨ q.failed.isSome = true ∨ t.st ≠ .filling then s
             else if s.bundleOpen q then s.fillEnds 1 core id
             else
               ((s.core core).fillsOf o th).foldl (fun s x => s.failCmd core x.id f a)
                 (s.setTile o th (some
                   { t with st := .faulted, busy := t.busy.erase .fill, bad := a }))
       | _ => s)

/-! ### Write-backs and unmaps (R158, R160, R165, R175) -/

/-- Why a write-back fails, if it does (R165). -/
def State.flushFailure (s : State) (c : Nat) (t : Tile) : Option (FailKind × DWord) :=
  (List.range t.lines).findSome? fun j =>
    match s.tileLine c t j with
    | .ok _ w => if w then none else some (.rights, t.addrOf (128 * j))
    | .miss => some (.miss, t.addrOf (128 * j))
    | .hostGone => some (.hostGone, t.addrOf (128 * j))
    | .refused => none

/-- The lines that a write-back writes. -/
def State.flushLines (s : State) (c : Nat) (t : Tile) : Store Nat :=
  (List.range t.lines).filterMap fun j =>
    match s.tileLine c t j with
    | .ok key _ => some (j, key / 128 + 1)
    | _ => none

/-- A DIRTY tile's contents go to their homes; lines that no fill recorded are taken from others that
share them, and refused lines are dropped and logged (R119, R158, R160). DESIGN CHOICE, log 37. -/
def State.flush (s : State) (c th : Nat) (t : Tile) : State :=
  let p := (s.ctx c).part
  let ls := s.flushLines c t
  let t1 := { t with phys := ls }
  let s1 := (List.range t.lines).foldl (fun s j =>
    if s.tileLine c t j = .refused then
      s.logRefused p (reqOfCtx p c) (t.addrOf (128 * j)).toNat
    else s) s
  let s2 := ls.foldl (fun s x =>
    if Store.get 0 t.phys x.1 = 0 then s.recall (x.2 - 1) (some (c, th)) else s) s1
  (s2.writeBack (reqOfCtx p c) t1).setTile c th (some { t1 with st := .full })

/-- A write-back has to wait for a busy tile elsewhere that keeps a line which no fill has recorded, or for a slice
that is being moved (R160, R279, R280). -/
def State.flushBusy (s : State) (c th : Nat) (t : Tile) : Bool :=
  (s.flushLines c t).any fun x =>
    s.reqWaits (x.2 - 1) || decide (Store.get 0 t.phys x.1 = 0) && s.lineBusy (x.2 - 1) (some (c, th)) true

/-- R160, R165, R175: a write-back completes or fails; one that fails has written none of its bytes and leaves the
tile DIRTY. Which bytes a failed one has written is not defined. DESIGN CHOICE, log 17. -/
def execWriteBackComplete (core id : Nat) (s : State) : Out :=
  .next
    (match s.cmd core id with
     | none => s
     | some q =>
       match q.kind with
       | .wb o th =>
         if q.started = false ∨ q.failed.isSome = true then s
         else if s.bundleOpen q then s.schedule 1 (.writeBackComplete core id)
         else
           match s.tile o th with
           | none => s.endCmd core id
           | some t =>
             let t1 := t.unbusy .wb
             if t.st ≠ .dirty then (s.setTile o th (some t1)).endCmd core id
             else if s.flushBusy o th t then s.schedule 1 (.writeBackComplete core id)
             else
               match s.flushFailure o t with
               | some (f, a) => (s.setTile o th (some t1)).failCmd core id f a
               | none => (s.flush o th t1).endCmd core id
       | _ => s)

/-- R175: after any write-back, the units of an unmapped tile are freed and its token signals.
DEDUCED, log 22; DESIGN CHOICE, log 17. -/
def execUnmapComplete (core id : Nat) (s : State) : Out :=
  .next
    (match s.cmd core id with
     | none => s
     | some q =>
       match q.kind with
       | .unmap o key =>
         if q.started = false ∨ q.failed.isSome = true then s
         else if s.bundleOpen q then s.schedule 1 (.unmapComplete core id)
         else
           match s.tile o key with
           | none => s.endCmd core id
           | some t =>
             let t1 := t.unbusy .wb
             if t.st ≠ .dirty then (s.setTile o key none).endCmd core id
             else if s.flushBusy o key t then s.schedule 1 (.unmapComplete core id)
             else
               match s.flushFailure o t with
               | some (f, a) => (s.setTile o key (some t1)).failCmd core id f a
               | none => ((s.flush o key t1).setTile o key none).endCmd core id
       | _ => s)

/-! ### Copies and gathers (R161, R165, R169, R173, R174) -/

/-- The runs of a copy or gather as it reads them now. DESIGN CHOICE, log 16. -/
def State.cmdRuns (s : State) (q : Cmd) : List Run :=
  match q.kind with
  | .copy g _ => g.moves
  | .gath g list n _ => g.gathRuns (words32 n (s.bulkRead q.part list (4 * n) (some q.cluster)))
  | _ => []

/-- The destination base of a copy or gather to memory. -/
def CmdKind.toMemory (k : CmdKind) : Option DWord :=
  match k with
  | .copy g none => some g.dbase
  | .gath g _ _ none => some g.dbase
  | _ => none

/-- Why a copy or gather fails, if it does. -/
def State.cmdFailure (s : State) (q : Cmd) : Option (FailKind × DWord) :=
  let list :=
    match q.kind with
    | .gath _ l n _ => s.runFail q.part l (4 * n) false (some q.cluster)
    | _ => none
  match list with
  | some f => some f
  | none => s.copyFailure q.cluster q.part q.kind.toMemory (s.cmdRuns q)

/-- A copy or gather has to wait for a busy tile that keeps one of its lines (R160, R197). -/
def State.cmdBusy (s : State) (q : Cmd) : Bool :=
  (match q.kind with
   | .gath _ l n _ => s.runBusy q.part l (4 * n) false (some q.cluster)
   | _ => false) || s.copyBusy q.cluster q.part q.kind.toMemory (s.cmdRuns q)

/-- Log what a copy or gather reads and is refused, the index list of a gather included (R301). -/
def State.logReads (s : State) (q : Cmd) (rs : List Run) : State :=
  let who := reqOfCtx q.part q.ctx
  let s1 :=
    match q.kind with
    | .gath _ l n _ => s.logRun q.part who l (4 * n) false (some q.cluster)
    | _ => s
  rs.foldl (fun s r => s.logSrc q.cluster q.part who r) s1

/-- Whether a command may end now: a copy to memory once it has started, one to a ring once it writes
its tile. -/
def State.copying (s : State) (q : Cmd) : Bool :=
  q.started && q.failed.isNone &&
    match q.kind.ringTile with
    | none => q.kind.toMemory.isSome
    | some th =>
      match s.tile q.ctx th with
      | some t => decide (BusyBy.copy ∈ t.busy)
      | none => false

/-- Both ends of a copy or gather come in `d` cycles; the one that applies acts. DESIGN CHOICE, log 14. -/
def State.copyEndsIn (s : State) (d core id : Nat) : State :=
  (s.schedule d (.copyComplete core id)).schedule d (.copyFail core id)

/-- R169, R173: a copy or gather completes. DESIGN CHOICE, log 16. -/
def execCopyComplete (core id : Nat) (s : State) : Out :=
  .next
    (match s.cmd core id with
     | none => s
     | some q =>
       if s.copying q = false ∨ (s.cmdFailure q).isSome = true then s
       else if s.cmdBusy q then s.copyEndsIn 1 core id
       else
         let rs := s.cmdRuns q
         let who := reqOfCtx q.part q.ctx
         match q.kind.ringTile, q.kind.toMemory with
         | some th, _ =>
           ((s.logReads q rs).updTile q.ctx th fun t =>
             { t with
               st := .full
               busy := t.busy.erase .copy
               data := s.ringData q.cluster q.part rs
               poison := s.ringPoison q.cluster q.part rs }).endCmd core id
         | none, some d => ((s.logReads q []).copyRuns q.cluster q.part who d rs).endCmd core id
         | none, none => s)

/-- R165: a copy or gather stops, having written some of its bytes; which is open. DESIGN CHOICE, log 17. -/
def execCopyFail (core id : Nat) (s : State) : Out :=
  .next
    (match s.cmd core id with
     | none => s
     | some q =>
       match s.cmdFailure q with
       | none => s
       | some (f, a) =>
         if s.copying q = false then s
         else if s.cmdBusy q then s.copyEndsIn 1 core id
         else
           let who := reqOfCtx q.part q.ctx
           let read := (s.cmdRuns q).filter fun r =>
             (r.src.bind fun x => s.runFail q.part x r.n false (some q.cluster)).isNone
           match q.kind.ringTile, q.kind.toMemory with
           | some th, _ =>
             ((s.logReads q read).updTile q.ctx th fun t =>
               { t with st := .faulted, busy := t.busy.erase .copy }).failCmd core id f a
           | none, some d =>
             ((read.flatMap Run.pieces).foldl (fun s r =>
               s.bulkSome q.part who (d + r.dof) (s.runBytes q.cluster q.part r)
                 (s.runBad q.cluster q.part r) (some q.cluster)) (s.logReads q read)).failCmd core id f a
           | none, none => s)

/-- Both ends of a copy come after the same open duration, seen from the following cycle on (R13); the one that
applies acts. DESIGN CHOICE, log 14. -/
def State.copyEnds (s : State) (core id : Nat) : State :=
  let d := s.nextDelay + 1
  State.copyEndsIn { s with delays := s.delays.drop 1 } d core id

/-- R161: a copy or gather aimed at a ring writes its claimed tile once that tile is EMPTY. -/
def execRingSlotWriteStart (core id : Nat) (s : State) : Out :=
  .next
    (match s.cmd core id with
     | none => s
     | some q =>
       match q.kind.ringTile with
       | none => s
       | some th =>
         match s.tile q.ctx th with
         | none => s
         | some t =>
           if q.started = false ∨ q.failed.isSome = true then s
           else if t.st = .empty ∧ t.busy = [] then
             (s.setTile q.ctx th (some { t with busy := [.copy] })).copyEnds core id
           else s.schedule 1 (.ringSlotWriteStart core id))

/-! ### Starts (R160, R166) -/

/-- Start a fill command (R160). DEDUCED, log 20, 21. -/
def State.startFillCmd (s : State) (core : Nat) (q : Cmd) (o th : Nat) (t : Tile) : State :=
  match t.st with
  | .filling => s.updCmd core q.id fun x => { x with started := true }
  | .full | .dirty => if t.busy ≠ [] then s.schedule 1 (.dmCommandStart core q.id) else s.endCmd core q.id
  | .empty | .faulted =>
    if t.busy ≠ [] then s.schedule 1 (.dmCommandStart core q.id)
    else if t.scr then s.endCmd core q.id
    else s.beginFill core q.id o th t

/-- Start a write-back or an unmap once the tile is not busy (R160, R175). -/
def State.startFlush (s : State) (core : Nat) (q : Cmd) (o th : Nat) (done : Instr) : State :=
  match s.tile o th with
  | none => s.endCmd core q.id
  | some t =>
    if t.busy ≠ [] ∨ t.st = .filling then s.schedule 1 (.dmCommandStart core q.id)
    else s.beginFlush core q.id o th t done

/-- A copy or gather starts. The token of an empty one signals at once; the ring tile that it has claimed becomes
FULL of zeros all the same, once it is EMPTY (R161, R169, R173). -/
def State.startCopy (s : State) (core : Nat) (q : Cmd) : State :=
  let go := s.updCmd core q.id fun x =>
    { x with started := true, tok := if x.kind.movesNothing then 31 else x.tok }
  if q.kind.toMemory.isSome then
    if q.kind.movesNothing then s.endCmd core q.id else go.copyEnds core q.id
  else go.schedule 0 (.ringSlotWriteStart core q.id)

/-- A reissued command that waits for an entry of the journal takes one that is free (R167). -/
def State.takeEntry (s : State) (core : Nat) (q : Cmd) : State :=
  if (s.core core).used < 64 then
    (s.updCmd core q.id fun x => { x with entry := (s.core core).freeEntry }).schedule 0
      (.dmCommandStart core q.id)
  else s.schedule 1 (.dmCommandStart core q.id)

/-- R166: a command starts once every producer of the tokens it consumes has completed, and every access of
its own bundle has performed (R48). -/
def execDmCommandStart (core id : Nat) (s : State) : Out :=
  .next
    (match s.cmd core id with
     | none => s
     | some q =>
       if q.entry = 65 then s.takeEntry core q
       else if q.started = true ∨ q.failed.isSome = true then s
       else if q.waits.any s.cmdOpen = true ∨ s.bundleOpen q = true then
         s.schedule 1 (.dmCommandStart core id)
       else
         let go := s.updCmd core id fun x => { x with started := true }
         match q.kind with
         | .fill o th =>
           match s.tile o th with
           | none => s.endCmd core id
           | some t => s.startFillCmd core q o th t
         | .wb o th => s.startFlush core q o th (.writeBackComplete core id)
         | .unmap o key => s.startFlush core q o key (.unmapComplete core id)
         | .copy _ _ | .gath _ _ _ _ => s.startCopy core q
         | .enq _ _ _ => (s.updCmd core id fun x =>
             { x with started := true, after := (s.ctx q.ctx).outst.map Access.id }).after 0
             (.enqAppend core id)
         | .coll _ => go.after 0 (.collDescriptorRead core id))

/-! ### Completions of accesses and results (R40, R128, R151) -/

/-- What fences and drains still wait for. -/
def Ctx.dropHolds (x : Ctx) : Ctx :=
  let live := fun (l : List Nat) => l.filter fun i => x.outst.any fun a => decide (a.id = i)
  { x with
    fences := (x.fences.map fun f => { f with ids := live f.ids }).filter fun f => decide (f.ids ≠ [])
    drain := (x.drain.map fun f => { f with ids := live f.ids }).filter fun f => decide (f.ids ≠ []) }

/-- R40: an access passes its next completion point, a local one all of them; fences and drains wait no
longer for an access that has completed. Each further point comes after an open duration.
DESIGN CHOICE, log 3, 88. -/
def execAccessCompletion (ctx id : Nat) (s : State) : Out :=
  .next
    (match (s.ctx ctx).outst.find? fun a => decide (a.id = id) with
     | none => s
     | some a =>
       if a.remote = true ∧ a.stage < 2 then
         (s.updCtx ctx fun c =>
           { c with outst := c.outst.map fun b =>
               if b.id = id then { b with stage := b.stage + 1 } else b }).after 0
           (.accessCompletion ctx id)
       else
         s.updCtx ctx fun c =>
           { c with outst := c.outst.filter fun b => decide (b.id ≠ id) }.dropHolds)

/-- R128, R151: a result lands, and bundles that depend on it may issue. -/
def execResultLanding (ctx id : Nat) (s : State) : Out :=
  .next (s.updCtx ctx fun c => { c with score := c.score.filter fun p => decide (p.id ≠ id) })

/-! ### Lines that other agents write and read (R160) -/

/-- The checks of memory refuse another agent's access to a line of a space: host memory has none (R56). -/
def State.foreignRefused (s : State) (space addr : Nat) (write : Bool) : Bool :=
  decide (space < 16) && s.refuses space addr write

/-- A refused access of an agent goes to the log of the partition that its requester field names, or to the device
log where there is none (R301, R304). -/
def State.logAgent (s : State) (who addr : Nat) : State :=
  if (s.part (who % 16)).live then s.logRefused (who % 16) who addr else s.logDevRefused who addr

/-- R56, R160: another agent writes a line of a partition's memory (spaces 0 to 15) or of host memory (16), once
no tile that shares it is busy. A write that the checks refuse is dropped and logged against the agent (R119, R301).
DESIGN CHOICE, log 83. -/
def execForeignLineWrite (agent : Agent) (addr : Nat) (data : BitVec 1024) (s : State) : Out :=
  .next
    (let p := agent.space
     if addr % 128 ≠ 0 ∨ 16 < p then s
     else if s.foreignRefused p addr true then s.logAgent agent.who addr
     else if s.lineBusy (keyOf p addr / 128) none true then s.schedule 1 (.foreignLineWrite agent addr data)
     else s.wrLine (keyOf p addr) (leBytes 128 data.toNat))

/-- R160: another agent reads a line, once no tile that is its home is busy; a DIRTY tile supplies it and stays
DIRTY. A read that the checks refuse is logged (R301). DESIGN CHOICE, log 83. -/
def execForeignLineRead (agent : Agent) (addr : Nat) (s : State) : Out :=
  .next
    (let p := agent.space
     if 16 < p then s
     else if s.foreignRefused p addr false then s.logAgent agent.who addr
     else if s.lineBusy (keyOf p addr / 128) none false then s.schedule 1 (.foreignLineRead agent addr)
     else s)

end Sys2Proof.Machine
end

