-- ==== Sys2Proof/Machine/Frontier.lean ====
section
/-!
DEFINITION. The frontier unit and Chorus (R246 to R263): capabilities, frontiers, queues, the rounds,
and the instructions CAPHOLD, CAPADV, CAPDROP, AWAITF, TESTF, ENQ and DEQ.
-/
namespace Sys2Proof.Machine

open Sys2Proof

/-! ### Ports (R246, R259) -/

/-- The partition port that an image port is bound to; 255 stands for unbound (R216). -/
def Ctx.port (x : Ctx) (n : BitVec 6) : Option (BitVec 6) :=
  let p := Store.get 255 x.ports n.toNat
  if n.toNat < x.portN ∧ p < 64 then some (BitVec.ofNat 6 p) else none

def Part.port (P : Part) (n : BitVec 6) : Port := Store.get Port.progress P.ports n.toNat
def Part.setPort (P : Part) (n : BitVec 6) (x : Port) : Part :=
  { P with ports := Store.set Port.progress P.ports n.toNat x }

/-- Lines in a queue. -/
def Port.count (x : Port) : Nat := x.times.length

/-- The clusters that take part in a partition's rounds; one that arrives in a resize joins at COMMIT
(R263). DEDUCED, log 61. -/
def State.clustersOf (s : State) (p : Nat) : List Nat :=
  (List.range 64).filter fun k =>
    (s.part p).clusters.getLsbD k && decide ((s.cluster k).cond = .held p)

/-- The clusters that a partition holds, those that arrive in a resize among them (R274). -/
def State.clustersIn (s : State) (p : Nat) : List Nat :=
  (List.range 64).filter fun k => decide ((s.cluster k).cond = .held p)

/-! ### Counts and frontiers (R248, R249) -/

/-- Add `n` at (port, time); a pair whose sum is 0 is not listed. -/
def addCount (l : List Delta) (d : Delta) : List Delta :=
  let old := (l.find? fun e => decide (e.port = d.port ∧ e.t = d.t)).map Delta.n
  let rest := l.filter fun e => decide (¬ (e.port = d.port ∧ e.t = d.t))
  let n := old.getD 0 + d.n
  if n = 0 then rest else rest ++ [{ d with n := n }]

/-- Field `d` of a time raised by `c`, held at its greatest value (R249). -/
def LTime.addField (t : LTime) (d c : Nat) : LTime :=
  let up := fun (x : BitVec 16) => BitVec.ofNat 16 (min (x.toNat + c) 65535)
  match d with
  | 0 => { t with e := BitVec.ofNat 32 (min (t.e.toNat + c) (2 ^ 32 - 1)) }
  | 1 => { t with l1 := up t.l1 }
  | 2 => { t with l2 := up t.l2 }
  | 3 => { t with l3 := up t.l3 }
  | 4 => { t with l4 := up t.l4 }
  | _ => { t with l5 := up t.l5 }

/-- S(t) of an installed summary; none where there is no path (R249). -/
def Summary.apply (x : Summary) (t : LTime) : Option LTime :=
  match x.kind with
  | 1 => some t
  | 2 => some (t.trunc x.d)
  | 3 => some (LTime.addField t x.d x.c)
  | _ => none

/-- The times at which one outstanding pair holds port `p` back (R248). -/
def Part.holdsAt (P : Part) (p : BitVec 6) (e : Delta) : List LTime :=
  (if e.port = p then [e.t] else []) ++ P.sums.filterMap fun x =>
    if x.src = e.port.toNat ∧ x.dst = p.toNat then x.apply e.t else none

/-- The lesser of two frontiers. -/
def leastTime : List LTime → Frontier
  | [] => .inf
  | t :: r =>
    match leastTime r with
    | .inf => .fin t
    | .fin u => .fin (if Sys2Proof.LTime.lt u t then u else t)

/-- F(P) over a list of sums (R248). -/
def Part.frontier (P : Part) (counts : List Delta) (p : BitVec 6) : Frontier :=
  leastTime ((counts.filter fun e => decide (0 < e.n)).flatMap (P.holdsAt p))

/-- Some outstanding pair bears on the port (R253). -/
def Part.bears (P : Part) (counts : List Delta) (p : BitVec 6) : Bool :=
  (counts.filter fun e => decide (0 < e.n)).any fun e => !(P.holdsAt p e).isEmpty

/-- The greater of two frontiers. -/
def Frontier.max (a b : Frontier) : Frontier :=
  match a, b with
  | .inf, _ => .inf
  | _, .inf => .inf
  | .fin t, .fin u => .fin (if Sys2Proof.LTime.lt t u then u else t)

/-- F passes t (R248). -/
def Frontier.passes (f : Frontier) (t : LTime) : Bool :=
  match f with
  | .inf => true
  | .fin u => Sys2Proof.LTime.lt t u

/-- F reaches t at depth d (R248). -/
def Frontier.reaches (f : Frontier) (t : LTime) (d : Nat) : Bool :=
  match f with
  | .inf => true
  | .fin u => Sys2Proof.LTime.le (t.trunc d) (u.trunc d)

/-! ### Changes and rounds (R252 to R254) -/

/-- The next round starts after an open duration, no later than 256 cycles after the last announcement was applied,
or at once where they have passed (R253). DESIGN CHOICE, log 3. -/
def State.nextRound (s : State) (p : Nat) : State :=
  let left := (s.part p).appliedAt + 256 - s.cycle
  { s with delays := s.delays.drop 1 }.schedule (min s.nextDelay left) (.chorusRoundStart p)

/-- A change is pending: a round starts if none is under way (R253). -/
def State.noteChange (s : State) (p : Nat) : State :=
  let P := s.part p
  let s1 := s.updPart p fun P => { P with changed := true }
  if P.changed = true ∨ P.closed.isSome = true ∨ P.pendingAnn = true then s1 else s1.nextRound p

/-- A decrement joins the batch of a cluster (R252). -/
def State.decrement (s : State) (cl p : Nat) (port : BitVec 6) (t : LTime) : State :=
  (s.updCluster cl fun k => { k with batch := addCount k.batch ⟨port, t, -1⟩ }).noteChange p

/-- An increment is counted at Chorus (R252). -/
def State.increment (s : State) (p : Nat) (port : BitVec 6) (t : LTime) (n : Int) : State :=
  (s.updPart p fun P => { P with counts := addCount P.counts ⟨port, t, n⟩ }).noteChange p

/-- The fault of a frozen partition (R254). DESIGN CHOICE, log 42. -/
def State.underflow (s : State) (x : BitVec 6 × LTime) : State :=
  s.raise .frontierUnderflow (some (x.1.setWidth 64))
    (some (BitVec.ofNat 64 (x.2.toNat / 2 ^ 48)))

/-- The port of a field, then the freeze (R246, R254). -/
def State.withPort (s : State) (n : BitVec 6) (f : BitVec 6 → State) : State :=
  match s.me.port n with
  | none => s.raise .illegalOperand (some (n.setWidth 64)) none
  | some p =>
    match (s.part s.me.part).underflow with
    | some x => s.underflow x
    | none => f p

/-- The increment that a slot of the running context has sent. -/
def State.incOf (s : State) (sl : Slot) : Option Inc := s.me.incs.find? fun i => decide (i.slot = sl)

def Ctx.dropInc (x : Ctx) (sl : Slot) : Ctx :=
  { x with incs := x.incs.filter fun i => decide (i.slot ≠ sl) }

/-- Send +1 at (port, t) and stall for Chorus's acknowledgement (R252); then go on. -/
def State.counted (s : State) (p : BitVec 6) (t : LTime) (hold : Bool) (f : State → State) : State :=
  match s.incOf s.slot with
  | none => (s.sets (.increment s.slot p t hold)).stalls
  | some i =>
    match i.st with
    | .acked => f (s.updMe fun c => c.dropInc s.slot)
    | .ackedRefused =>
      (s.updMe fun c => c.dropInc s.slot).raise .frontierOrder none (some 1)
    | _ => s.stalls

/-- A held capability on a partition port. -/
def Ctx.cap (x : Ctx) (p : BitVec 6) : Option Cap := x.caps.find? fun k => decide (k.port = p)

def State.ownTime (s : State) : LTime := s.iss.time

/-- Earlier synchronous accesses that have not completed at partition scope (R52); those of the own bundle are not
among them. DEDUCED, log 103. -/
def State.accessesOpen (s : State) : Bool := s.me.openAt 2

/-! ### Instructions (R255 to R258) -/

/-- R255. -/
def execCaphold (port : BitVec 6) (d : Depth) (s : State) : Out :=
  .next (s.withPort port fun p =>
    if (s.me.cap p).isSome ∨ 16 ≤ s.me.caps.length then
      s.raise .illegalOperand (some (port.setWidth 64)) none
    else
      let t := s.ownTime.trunc d.val
      s.counted p t true fun s =>
        s.updMe fun c => { c with caps := c.caps ++ [⟨p, port, d.val, t⟩] })

/-- R256. DEDUCED, log 103. -/
def execCapadv (port : BitVec 6) (s : State) : Out :=
  .next (s.withPort port fun p =>
    match s.me.cap p with
    | none => s.raise .illegalOperand (some (port.setWidth 64)) none
    | some k =>
      let n := s.ownTime.trunc k.depth
      if Sys2Proof.LTime.lt n k.t then s.raise .frontierOrder none (some 2)
      else if n = k.t then s
      else if s.accessesOpen = true ∧ (s.incOf s.slot).isNone = true then s.stalls
      else
        s.counted p n false fun s =>
          (s.decrement (clusterOf s.cur) s.me.part p k.t).updMe fun c =>
            { c with caps := c.caps.map fun x => if x.port = p then { x with t := n } else x })

/-- R257. DESIGN CHOICE, log 31; DEDUCED, log 103. -/
def execCapdrop (port : BitVec 6) (s : State) : Out :=
  .next (s.withPort port fun p =>
    match s.me.cap p with
    | none => s.raise .illegalOperand none none
    | some k =>
      if s.accessesOpen then s.stalls
      else
        (s.decrement (clusterOf s.cur) s.me.part p k.t).updMe fun c =>
          { c with caps := c.caps.filter fun x => decide (x.port ≠ p) })

/-- The condition C of R258, from the announcement that the cluster has applied. -/
def State.passed (s : State) (p : BitVec 6) (d : Depth) : Bool :=
  match Store.get none (s.cluster (clusterOf s.cur)).ann p.toNat with
  | some f => f.reaches s.ownTime d.val
  | none => false

/-- R258. -/
def execAwaitf (port : BitVec 6) (d : Depth) (s : State) : Out :=
  .next (s.withPort port fun p => if s.passed p d then s else s.blocks)

/-- R258. -/
def execTestf (rd : BitVec 6) (port : BitVec 6) (d : Depth) (s : State) : Out :=
  .next (s.withPort port fun p => s.setS rd (if s.passed p d then 1 else 0) 1)

/-! ### Queues (R259 to R261) -/

/-- R260. -/
def execEnq (port : BitVec 6) (a : BitVec 6) (k : BitVec 5) (s : State) : Out :=
  .next (s.withPort port fun p =>
    let t := s.ownTime
    let late :=
      match s.me.cap p with
      | none => true
      | some c => Sys2Proof.LTime.lt t c.t
    if ((s.part s.me.part).port p).queue = false then
      s.raise .illegalOperand (some (port.setWidth 64)) none
    else if (s.opS a).toNat % 128 ≠ 0 then s.raise .align (some (s.opS a)) none
    else if late then s.raise .frontierOrder none (some 3)
    else
      s.async fun s =>
        s.counted p t false fun s => s.issueCmd (.enq p (s.opS a) t) k [])

/-- The agent's write of a queue's storage: dropped and logged where a sealed region covers it (R228); tiles that
share the line give it up (R160). DEDUCED, log 41. -/
def State.queueWrite (s : State) (p who a : Nat) (l : List Byte) : State :=
  if (s.sealedBy p a).isSome then s.logRefused p who a else s.wrLine (keyOf p a) l

/-- The agent's read of a queue's line; a sealed one reads all ones (R228). -/
def State.queueRead (s : State) (p a : Nat) : List Byte :=
  if (s.sealedBy p a).isSome then List.replicate 128 (BitVec.allOnes 8) else s.rdMem (keyOf p a) 128

/-- The entry of a queue that the next line takes. -/
def Port.tail (x : Port) : Nat := (x.head + x.count) % x.cap

/-- Where the line and the time of an entry of a queue stand (R259). -/
def Port.places (x : Port) (i : Nat) : List Nat := [x.base + 128 * i, x.base + 128 * x.cap + 16 * i]

/-- Put a line and its time behind the last entry of a queue, for a requester (R259). DEDUCED, log 41. -/
def State.append (s : State) (p who : Nat) (port : BitVec 6) (line : List Byte) (t : LTime) : State :=
  let x := (s.part p).port port
  ((s.queueWrite p who (x.base + 128 * x.tail) line).queueWrite p who (x.base + 128 * x.cap + 16 * x.tail)
    (leBytes 16 t.toNat)).updPart p fun P =>
      P.setPort port { x with times := x.times ++ [t] }

/-- The storage of an entry of a queue is backed by host memory that is out of reach (R263). DEDUCED, log 41. -/
def State.queueGone (s : State) (p : Nat) (x : Port) (i : Nat) : Bool :=
  ((x.places i).any fun a => ((s.part p).page (a / 4096)).host) && s.hostGone p

/-- The storage of an entry of a queue lies in a line that a busy tile keeps, or whose slice is being moved (R160,
R279, R280). -/
def State.queueBusy (s : State) (p : Nat) (x : Port) (i : Nat) (write : Bool) : Bool :=
  (x.places i).any fun a => s.lineBusy (keyOf p a / 128) none write

/-- The queue of an image port of a context is empty, as a DEQ finds it (R80, R261). -/
def State.queueEmpty (s : State) (c : Nat) (n : BitVec 6) : Bool :=
  match (s.ctx c).port n with
  | some p => ((s.part (s.ctx c).part).port p).times.isEmpty
  | none => false

/-- An earlier ENQ of the same context to the same port that has not appended, on whatever core (R259). -/
def State.enqBefore (s : State) (q : Cmd) (port : BitVec 6) : Bool :=
  s.cores.any fun k => k.2.journal.any fun r =>
    decide (r.ctx = q.ctx ∧ r.id < q.id) &&
      match r.kind with
      | .enq p _ _ => decide (p = port)
      | _ => false

/-- R52, R260, R263: once the accesses that came before it have completed at partition scope and the queue has
room, the line and its time are appended and the token signals. A read that misses translation, or storage that
the host has taken along, fails the command (R165, R168); one whose context has ended tries again. -/
def execEnqAppend (core id : Nat) (s : State) : Out :=
  .next
    (match s.cmd core id with
     | none => s
     | some q =>
       match q.kind with
       | .enq port src t =>
         let x := (s.part q.part).port port
         if q.started = false ∨ q.failed.isSome = true then s
         else
           let fails :=
             if s.queueGone q.part x x.tail then some (.hostGone, BitVec.ofNat 64 (x.base + 128 * x.tail))
             else s.runFail q.part src 128 false
           match fails with
           | some (f, a) => if q.killed then s.schedule 1 (.enqAppend core id) else s.failCmd core id f a
           | none =>
             if x.cap ≤ x.count ∨ s.enqBefore q port = true ∨
                 (s.ctx q.ctx).openOf q.after 2 = true ∨ s.runBusy q.part src 128 false = true ∨
                 s.queueBusy q.part x x.tail true = true then
               s.schedule 1 (.enqAppend core id)
             else
               let who := reqOfCtx q.part q.ctx
               ((s.logRun q.part who src 128 false).append q.part who port
                 (s.bulkRead q.part src 128) t).endCmd core id
       | _ => s)

/-- R261, R263. DEDUCED, log 41. -/
def execDeq (port : BitVec 6) (a : BitVec 6) (s : State) : Out :=
  .next (s.withPort port fun p =>
    let pt := s.me.part
    let x := (s.part pt).port p
    let da := s.opS a
    if x.queue = false then s.raise .illegalOperand none none
    else if da.toNat % 128 ≠ 0 then s.raise .align (some da) none
    else if s.queueGone pt x x.head then s.raise .hostGone none none
    else
      match x.times with
      | [] => s.blocks
      | t :: rest =>
        if s.queueBusy pt x x.head false then s.stalls
        else
        let r := s.route s.cur da false true
        match s.badRoute r da none with
        | some u => u
        | none =>
          let line := s.queueRead pt (x.base + 128 * x.head)
          let s1 := if r = .refused then s.logMine da else s.writeAt r line
          let s2 := s1.updPart pt fun P =>
            P.setPort p { x with head := (x.head + 1) % x.cap, times := rest }
          let s3 := (s2.decrement (clusterOf s.cur) pt p t).updMe fun c => { c with rt := t }
          s3.track none .store r.isRemote 0 1 r.isRemote)

/-! ### Chorus (R252 to R255) -/

/-- An increment that another of the cluster's has been sent before is still on its way behind it: each cluster has
one ordered channel to Chorus (R252). -/
def State.incBehind (s : State) (ctx : Nat) (i : Inc) : Bool :=
  (clusterCtxs (clusterOf ctx)).any fun d => (s.ctx d).incs.any fun j => decide (j.st = .sent ∧ j.id < i.id)

/-- R252, R255: an increment reaches Chorus, behind those that its cluster has sent before it, and is counted; a
CAPHOLD whose time the announcement last computed passes is refused. -/
def execIncrementArrival (ctx : Nat) (slot : Slot) (s : State) : Out :=
  .next
    (match (s.ctx ctx).incs.find? fun i => decide (i.slot = slot ∧ i.st = .sent) with
     | none => s
     | some i =>
       if s.incBehind ctx i then s.schedule 1 (.incrementArrival ctx slot)
       else
       let p := (s.ctx ctx).part
       let passed :=
         match Store.get none (s.part p).ann i.port.toNat with
         | some f => f.passes i.t
         | none => false
       let mark := fun (st : IncSt) (s : State) =>
         (s.updCtx ctx fun c =>
           { c with incs := c.incs.map fun x => if x.slot = slot then { x with st := st } else x }
           ).after 0 (.incrementAck ctx slot)
       if i.hold = true ∧ passed = true then mark .refused s
       else mark .counted (s.increment p i.port i.t 1))

/-- R252: Chorus's answer reaches the frontier unit and the instruction goes on. -/
def execIncrementAck (ctx : Nat) (slot : Slot) (s : State) : Out :=
  .next (s.updCtx ctx fun c =>
    { c with incs := c.incs.map fun x =>
        if x.slot = slot then
          { x with st :=
              match x.st with
              | .counted => .acked
              | .refused => .ackedRefused
              | st => st }
        else x })

/-- The numbers of a partition's increments that are on their way to Chorus (R252). -/
def State.incsSent (s : State) (p : Nat) : List Nat :=
  (s.ctxs.filter fun e => decide (e.2.part = p)).flatMap fun e =>
    (e.2.incs.filter fun i => decide (i.st = .sent)).map Inc.id

/-- R253 step 1: every cluster of the partition closes its batch. -/
def execChorusRoundStart (part : Nat) (s : State) : Out :=
  .next
    (let P := s.part part
     if P.live = false ∨ P.changed = false ∨ P.closed.isSome = true ∨ P.pendingAnn = true ∨
         P.underflow.isSome = true then s
     else
       let cls := s.clustersOf part
       let batch := cls.flatMap fun k => (s.cluster k).batch
       let s1 := cls.foldl (fun s k => s.updCluster k fun c => { c with batch := [] }) s
       (s1.updPart part fun P =>
         { P with closed := some batch, ahead := s.incsSent part, changed := false }).after 0
         (.roundCompute part))

/-- The announcement of a port after a round (R253). -/
def Part.announce (P : Part) (counts : List Delta) (p : Nat) : Option Frontier :=
  let port := BitVec.ofNat 6 p
  let f := P.frontier counts port
  match Store.get none P.ann p with
  | some g => some (Frontier.max g f)
  | none => if P.bears counts port then some f else none

/-- R253 steps 2 and 3: the batches apply, each behind the increments that were sent before it on its cluster's
channel (R252), and the frontiers are computed and delivered. A negative
sum freezes the partition's frontiers (R254). DESIGN CHOICE, log 42. -/
def execRoundCompute (part : Nat) (s : State) : Out :=
  .next
    (let P := s.part part
     match P.closed with
     | none => s
     | some batch =>
       let wait := P.ahead.filter fun x => decide (x ∈ s.incsSent part)
       if wait ≠ [] then
         (s.updPart part fun P => { P with ahead := wait }).schedule 1 (.roundCompute part)
       else
       let counts := batch.foldl addCount P.counts
       match counts.find? fun e => decide (e.n < 0) with
       | some e =>
         s.updPart part fun P =>
           { P with counts := counts, closed := none, underflow := some (e.port, e.t) }
       | none =>
         let ann := (List.range 64).foldl
           (fun a p => Store.set none a p (P.announce counts p)) P.ann
         (s.updPart part fun P =>
           { P with counts := counts, closed := none, ann := ann, pendingAnn := true,
                    round := P.round + 1 }).after 0 (.announcementApply part))

/-- R253 step 4: every frontier unit applies the announcement, that of a cluster which is arriving too; a pending change
starts the next round. DEDUCED, log 61. -/
def execAnnouncementApply (part : Nat) (s : State) : Out :=
  .next
    (let P := s.part part
     if P.pendingAnn = false then s
     else
       let s1 := (s.clustersIn part).foldl
         (fun s k => s.updCluster k fun c => { c with ann := P.ann }) s
       let s2 := s1.updPart part fun P =>
         { P with pendingAnn := false, applied := P.ann, appliedAt := s.cycle }
       if P.changed then s2.nextRound part else s2)

/-- Every capability of a context is dropped, and every increment of it that was counted is taken back, but the
acknowledged one of an ENQ, whose line is still to come (R109, R234, R260). DESIGN CHOICE, log 43. -/
def State.dropCaps (s : State) (c : Nat) : State :=
  let x := s.ctx c
  let s1 := x.caps.foldl (fun s k => s.decrement (clusterOf c) x.part k.port k.t) s
  let s2 := x.incs.foldl (fun s i =>
    match i.st with
    | .counted => s.decrement (clusterOf c) x.part i.port i.t
    | .acked => if i.slot = .dm then s else s.decrement (clusterOf c) x.part i.port i.t
    | _ => s) s1
  s2.updCtx c fun y => { y with caps := [], incs := [] }

end Sys2Proof.Machine
end

