-- ==== Sys2Proof/Machine/Retire.lean ====
section
/-!
DEFINITION. How a context ends: EXIT (R109), a kill (R234), and what both give back (R178, R181, R189,
R217).
-/
namespace Sys2Proof.Machine

open Sys2Proof

/-! ### Tiles, commands, questions -/

/-- A tile of a context that ends may be unmapped: no matrix instruction keeps it, and no busy tile elsewhere keeps
a line that its write-back takes (R160, R175, R197). -/
def State.mayRelease (s : State) (c th : Nat) (t : Tile) : Bool :=
  decide (BusyBy.mx ∉ t.busy ∧ BusyBy.mxst ∉ t.busy) && !(decide (t.st = .dirty) && s.flushBusy c th t)

/-- A write-back of a context that ends has begun: it performs at system scope after an open duration (R40, R322).
DESIGN CHOICE, log 3, 45. -/
def State.awaitFlush (s : State) (c : Nat) : State :=
  let d := s.cycle + s.nextDelay
  State.updCtx { s with delays := s.delays.drop 1 } c fun x =>
    { x with ending := x.ending.map fun e => (max e.1 d, e.2) }

/-- A tile of a context that ends is unmapped as TUNMAP does, once it may be: a DIRTY one is written back (R234).
A write-back that fails translation is given up. DESIGN CHOICE, log 45. -/
def State.releaseTile (s : State) (c th : Nat) : State :=
  match s.tile c th with
  | none => s
  | some t =>
    if s.mayRelease c th t = false then s
    else if t.st = .dirty ∧ (s.flushFailure c t).isNone = true then
      ((s.flush c th t).setTile c th none).awaitFlush c
    else s.setTile c th none

def State.releaseTiles (s : State) (c : Nat) : State :=
  (s.ctx c).tiles.foldl (fun s e => s.releaseTile c e.1) s

/-- The command is an ENQ. -/
def CmdKind.isEnq (k : CmdKind) : Bool :=
  match k with
  | .enq _ _ _ => true
  | _ => false

/-- The register that names the line of an ENQ. -/
def Instr.enqSource (i : Instr) : Option (BitVec 6) :=
  match i with
  | .enq _ a _ => some a
  | _ => none

/-- What becomes of a command when its context ends (R109, R234, R260): copies that nothing tracks,
ENQ and COLL run on; every other command is discarded. After a kill copies are discarded too.
DEDUCED, log 34, 79. -/
def Cmd.afterEnd (q : Cmd) (kill : Bool) (c identity : Nat) : Option Cmd :=
  let on : Cmd := { q with ctx := orphanOf c identity, killed := kill }
  if q.ctx ≠ c then some q
  else
    match q.kind with
    | .coll _ => some on
    | .enq _ _ _ => some { on with tok := 31, failed := none, killed := true }
    | .copy _ none => if kill = true ∨ q.failed.isSome = true then none else some on
    | .gath _ _ _ none => if kill = true ∨ q.failed.isSome = true then none else some on
    | _ => none

/-- A scalar as a slot that has not performed reads it: as it was latched, where its bundle has begun to perform
(R90). -/
def Ctx.opNow (x : Ctx) (a : BitVec 6) : DWord := if x.frozen || x.iss.replay then x.iss.latch.rdS a else x.rdS a

/-- An ENQ that has its increment acknowledged but has not issued its command when its context ends runs on to its
append, with the address that its bundle has latched (R90, R260); one whose line could not be read tries again.
DESIGN CHOICE, log 43. -/
def State.keepEnqs (s : State) (c identity : Nat) : State :=
  let x := s.ctx c
  let again := s.cores.flatMap fun e => (e.2.journal.filter fun q =>
    decide (q.ctx = c) && q.failed.isSome && q.kind.isEnq).map fun q => (e.1, q.id)
  let s1 := again.foldl (fun (s : State) r => s.schedule 0 (.enqAppend r.1 r.2)) s
  match x.incs.find? fun i => decide (i.slot = .dm ∧ i.st = .acked),
      x.iss.slots.findSome? fun p => Instr.enqSource p.2 with
  | some i, some a =>
    let k := coreOf c
    let q : Cmd :=
      { id := s.nextIdent, entry := 64, ctx := orphanOf c identity, part := x.part,
        kind := .enq i.port (x.opNow a) i.t, tok := 31, waits := [], after := [], started := true,
        failed := none, killed := true }
    ((s1.updCore k fun r => { r with journal := r.journal ++ [q] }).after 0 (.enqAppend k q.id)).fresh
  | _, _ => s1

/-- Every core's journal goes through a change of its commands. -/
def State.mapJournals (s : State) (f : Cmd → Option Cmd) : State :=
  s.cores.foldl (fun s e => s.updCore e.1 fun k => { k with journal := k.journal.filterMap f }) s

/-- The questions of a context to the terms unit are withdrawn; a reservation that an answer made
returns. -/
def State.dropAsks (s : State) (c : Nat) : State :=
  ((s.ctx c).asks.foldl (fun s a =>
    if a.answered = true ∧ a.kind = 0 ∧ a.check = 0 then s.endUse a.serial (s.ctx c).identity
    else s) s).updCtx c fun x => { x with asks := [] }

/-- Close every binding of a context (R109, R234). -/
def State.closeBindings (s : State) (c : Nat) : State :=
  (List.range 8).foldl (fun s u => s.closeBinding c u) s

/-- Every member of a collective, ending ones among them, goes through a change. -/
def State.mapColls (s : State) (f : CollMember → CollMember) : State :=
  { s with host := { s.host with
      colls := s.host.colls.map fun g => { g with members := g.members.map f }
      collEnds := s.host.collEnds.map fun e => { e with member := f e.member } } }

/-- Members of collectives in flight follow their commands; those that peer devices have sent have none. -/
def State.orphanColls (s : State) (kill : Bool) (c identity : Nat) : State :=
  s.mapColls fun m =>
    if m.ctx = c ∧ m.peer.isNone = true then { m with ctx := orphanOf c identity, killed := kill } else m

/-! ### The core and Gecko -/

/-- A core forgets a context that leaves it. A matrix instruction of a killed context keeps the engine
until its beats have ended (R234). -/
def State.leaveCore (s : State) (c identity : Nat) : State :=
  s.updCore (coreOf c) fun k =>
    { k with
      running := if k.running = some c then none else k.running
      pair := if k.running = some c then none else k.pair
      cfgOwner := if k.cfgOwner = some c then none else k.cfgOwner
      mxHolder := if k.mxHolder = some c then some (orphanOf c identity) else k.mxHolder
      mxTiles := k.mxTiles.filter fun x => decide (x.1 ≠ c) }

/-- Fields of CTXCMD (R210). -/
def ctxCmd (op ctx : Nat) (busy : Bool) : Word :=
  BitVec.ofNat 32 (op * 2 ^ 24 + ctx % 32 * 2 ^ 16 + if busy then 1 else 0)

def Cluster.busy (k : Cluster) : Bool := k.ctxcmd.getLsbD 0
/-- The context that CTXCMD names, within the cluster. -/
def Cluster.cmdCtx (k : Cluster) : Nat := (k.ctxcmd.extractLsb' 16 5).toNat

/-- The command that Gecko waits for has finished (R210). -/
def State.geckoDone (s : State) (c : Nat) : State :=
  s.updCluster (clusterOf c) fun k =>
    if k.busy = true ∧ k.cmdCtx = c % 32 then { k with ctxcmd := k.ctxcmd &&& ~~~ (1 : Word) } else k

/-! ### Completion of a launch (R217) -/

/-- The status word of a member lies in a line that a busy tile keeps (R160). -/
def State.statusBusy (s : State) (c : Nat) : Bool :=
  let x := s.ctx c
  decide (x.statusAddr ≠ 0) && s.runBusy x.part x.statusAddr 8 true

/-- Write the status word of a member. -/
def State.writeStatus (s : State) (c v : Nat) : State :=
  let x := s.ctx c
  if x.statusAddr = 0 then s
  else s.bulkWrite x.part (reqOfCtx x.part c) x.statusAddr (leBytes 8 v) false

/-- One member of a gang has ended; with the last, the gang's capability on the done port drops. -/
def State.memberEnds (s : State) (c : Nat) : State :=
  let x := s.ctx c
  match (s.part x.part).running.find? fun g => decide (g.id = x.gang) with
  | none => s
  | some g =>
    if 1 < g.left then
      s.updPart x.part fun P => { P with running := P.running.map fun q =>
        if q.id = g.id then { q with left := q.left - 1 } else q }
    else
      let s1 := s.updPart x.part fun P =>
        { P with running := P.running.filter fun q => decide (q.id ≠ g.id) }
      if g.donePort < 64 then
        s1.decrement (clusterOf c) x.part (BitVec.ofNat 6 g.donePort) ⟨g.epoch, 0, 0, 0, 0, 0⟩
      else s1

/-- A slot whose context has ended: its registers, accumulators and position stay as they were until the next dispatch
(R209, R217, R267, R286); the loop stack is discarded (R109). DEDUCED, log 102. -/
def Ctx.ended (x : Ctx) : Ctx :=
  { Ctx.free with
    pc := x.pc, lc0 := x.lc0, rt := x.rt, s := x.s, v := x.v, p := x.p, acc := x.acc, rs := x.rs,
    accBad := x.accBad, regBad := x.regBad, fmt := x.fmt }

/-- What a context that ends discards at once: the loop stack, results to come, its rings, probed ranges and
transposer, what it was about to issue and what it was asked to do (R109, R234). -/
def Ctx.stripped (x : Ctx) (status now : Nat) : Ctx :=
  { x with
    loops := [], rings := [], probes := [], pins := [], tr := .empty, sf := [], iss := .empty, frozen := false,
    groupLen := 0, groupR := [], groupW := [], score := [], outst := [], fences := [], drain := [], incs := [],
    stallTo := 0, afterSafe := false, blocked := false, stopReq := none, ending := some (now, status) }

/-- The last of it: the status word is written, the gang counts one member less, the slot is free (R109, R217). -/
def State.finishEnd (s : State) (c status : Nat) : State :=
  let x := s.ctx c
  let t := ((s.writeStatus c status).memberEnds c).leaveCore c x.identity
  ((t.geckoDone c).setCtx c x.ended).after 0 (.gangPlacement x.part)

/-- A context that ends gives up the tiles that it may by now, and is gone once it has none, its matrix instruction
has ended its beats, its write-backs have performed at system scope, and no busy tile keeps the line of its status
word (R109, R160, R234). -/
def State.endStep (s : State) (c : Nat) : State :=
  let t := s.releaseTiles c
  let x := t.ctx c
  match x.ending with
  | none => t
  | some e =>
    if x.tiles ≠ [] ∨ t.cycle < e.1 ∨ t.cycle < x.mxUntil ∨ t.statusBusy c = true then t else t.finishEnd c e.2

/-- Contexts that are ending go on with it. -/
def State.finishEnds (s : State) : State :=
  (s.ctxs.filter fun e => e.2.ending.isSome).foldl (fun s e => s.endStep e.1) s

/-- LAUNCH COMPLETION (R109, R217, R234): everything that the context held goes back, then its status word is
written and its slot is free. `status` is the value of the status word. DEDUCED, log 34. -/
def State.endContext (s : State) (c : Nat) (kill : Bool) (status : Nat) : State :=
  let x := s.ctx c
  let s1 := ((s.keepEnqs c x.identity).dropAsks c).closeBindings c
  let s2 := (s1.dropCaps c).updCtx c fun y => y.stripped status s1.cycle
  let s3 := (s2.mapJournals fun q => q.afterEnd kill c x.identity).orphanColls kill c x.identity
  State.endStep { s3 with
    locks := s3.locks.filter fun l => decide (l.ctx ≠ x.identity)
    host := { s3.host with pri := s3.host.pri.filter fun r => decide (r.1 ≠ c) } } c

/-! ### EXIT (R109) -/

/-- The commands of a context that keep a token pending, those of EXIT's own bundle among them (R109). -/
def State.tokenCmds (s : State) (c : Nat) : List Cmd :=
  (s.cores.flatMap fun e => e.2.journal).filter fun q => decide (q.ctx = c ∧ q.tok ≠ 31)

/-- A token of a context is neither signalled nor marked. -/
def State.tokensRun (s : State) (c : Nat) : Bool :=
  let l := s.tokenCmds c
  l.any fun q => l.all fun r => decide (r.tok ≠ q.tok) || r.failed.isNone

/-- Failed commands whose tokens are tracked. -/
def State.tokensFailed (s : State) (c : Nat) : List Cmd := (s.tokenCmds c).filter fun q => q.failed.isSome

/-- A tile of the context is busy or FILLING: its unmapping waits (R175). -/
def State.tilesRun (s : State) (c : Nat) : Bool :=
  (s.ctx c).tiles.any fun e =>
    match e.2 with
    | some t => decide (t.busy ≠ []) || decide (t.st = .filling)
    | none => false

/-- R109. The issue logic runs it after every other slot of its bundle has performed. -/
def execExit (s : State) : Out :=
  .next
    (if s.cycle < s.me.mxUntil ∨ s.tokensRun s.cur = true ∨ s.me.openAt 2 = true then s.blocks
     else
       match s.raiseFailed (s.tokensFailed s.cur) with
       | some t => t
       | none => if s.tilesRun s.cur then s.blocks else s.endContext s.cur false 0)

/-! ### Kill (R212, R234) -/

/-- The last trap cause of a context, 0 for none. DEDUCED, log 86. -/
def Ctx.lastCause (x : Ctx) : Nat :=
  match x.trap with
  | some r => r.cause.code
  | none => 0

/-- A write to a register of a Gecko; of a cluster in transit it is dropped and logged (R268). DESIGN CHOICE, log
74, 83. -/
def State.geckoWrite (s : State) (cl : Nat) (f : State) : State :=
  if (s.cluster cl).cond = .transit then s.logDevRefused (cl * 2 ^ 16) 0 else f

/-- CTXCMD takes a command unless it is busy (R210) or its cluster is in transit (R268). DEDUCED, log 87. -/
def State.gecko (s : State) (op ctx : Nat) (busy : Bool) (f : State → State) : State :=
  s.geckoWrite (clusterOf ctx) <|
  if (s.cluster (clusterOf ctx)).busy then s
  else f (s.updCluster (clusterOf ctx) fun k => { k with ctxcmd := ctxCmd op ctx busy })

/-- A command of CTXCMD that may have to wait: while it does, it goes on when its event comes again (R210). -/
def State.geckoOn (s : State) (op ctx : Nat) (f : State → State) : State :=
  let k := s.cluster (clusterOf ctx)
  s.geckoWrite (clusterOf ctx) <|
  if k.busy = true ∧ k.ctxcmd ≠ ctxCmd op ctx true then s
  else f (s.updCluster (clusterOf ctx) fun k => { k with ctxcmd := ctxCmd op ctx true })

/-- R234: Gecko ends any resident context at once; the command has finished when the context is gone. One that is
ending already goes on with that. DESIGN CHOICE, log 74; DEDUCED, log 86. -/
def execCtxKill (ctx : Nat) (s : State) : Out :=
  .next (s.gecko 2 ctx true fun s =>
    if (s.ctx ctx).occupied = false then s.geckoDone ctx
    else if (s.ctx ctx).ending.isSome then s
    else s.endContext ctx true ((s.ctx ctx).lastCause * 256 + 2))

end Sys2Proof.Machine
end

