-- ==== Sys2Proof/Machine/Save.lean ====
section
/-!
DEFINITION. How a context is stopped with a save and restored (R83, R85, R167, R189, R193, R212, R220,
R251, R275 to R277): CONTEXT_STOP, CTX_SAVE, CTX_RESTORE.
-/
namespace Sys2Proof.Machine

open Sys2Proof

/-! ### Room on a core and its cluster (R155, R192, R218, R278) -/

def coreCtxs (k : Nat) : List Nat := (List.range 4).map fun i => k * 4 + i

/-- Accumulators of a core that its contexts hold. -/
def State.accsHeld (s : State) (k : Nat) : Nat :=
  (coreCtxs k).foldl (fun n c => n + if (s.ctx c).occupied then (s.ctx c).accN else 0) 0

/-- The lowest base at which `n` units fit beside the ranges in use. DESIGN CHOICE, log 29. -/
def freeRange (used : List (Nat × Nat)) (n : Nat) : Option Nat :=
  if n = 0 then some 0
  else
    (List.range (257 - n)).find? fun b => used.all fun u =>
      decide (u.2 = 0) || decide (b + n ≤ u.1) || decide (u.1 + u.2 ≤ b)

/-- A range of units lies beside the ranges in use. -/
def rangeFree (used : List (Nat × Nat)) (r : Nat × Nat) : Bool :=
  decide (r.2 = 0) || used.all fun u => decide (u.2 = 0) || decide (r.1 + r.2 ≤ u.1) || decide (u.1 + u.2 ≤ r.1)

/-- The runs of free units between the ranges in use, base and size, the highest first. -/
def gapsOf (used : List (Nat × Nat)) : List (Nat × Nat) :=
  ((List.range 256).filter fun u => rangeFree used (u, 1)).foldl (fun l u =>
    match l with
    | (b, n) :: t => if b + n = u then (b, n + 1) :: t else (u, 1) :: l
    | [] => [(u, 1)]) []

/-- Bases at which grants of these sizes lie apart in gaps, found wherever there are any (R278). -/
def packs : List Nat → List (Nat × Nat) → Option (List Nat)
  | [], _ => some []
  | n :: t, gaps =>
    if n = 0 then (packs t gaps).map (0 :: ·)
    else
      (List.range gaps.length).findSome? fun i =>
        match gaps[i]? with
        | some g => if n ≤ g.2 then (packs t (gaps.set i (g.1 + n, g.2 - n))).map (g.1 :: ·) else none
        | none => none

/-- Ranges of a bank group that the contexts of a cluster hold. -/
def State.unitsUsed (s : State) (cl : Nat) (y : Bool) : List (Nat × Nat) :=
  (clusterCtxs cl).filterMap fun c =>
    let x := s.ctx c
    if x.occupied then some (if y then x.unitY else x.unitX) else none

/-- Bases for a context's grants on a cluster. DESIGN CHOICE, log 29. -/
def State.unitBases (s : State) (cl nx ny : Nat) : Option (Nat × Nat) :=
  match freeRange (s.unitsUsed cl false) nx, freeRange (s.unitsUsed cl true) ny with
  | some x, some y => some (x, y)
  | _, _ => none

/-- A context with these claims fits in slot `c`. DESIGN CHOICE, log 29. -/
def State.roomAt (s : State) (c accs nx ny : Nat) : Option (Nat × Nat) :=
  if (s.ctx c).occupied = false ∧ s.accsHeld (coreOf c) + accs ≤ 8 then
    s.unitBases (clusterOf c) nx ny
  else none

/-! ### What a save keeps (R85, R160, R167) -/

/-- A tile after a stop with a save (R160, R277). One that is still DIRTY, since it could not be written back, keeps
its contents. DESIGN CHOICE, log 45. -/
def Tile.saved (t : Tile) : Tile :=
  if t.scr = true ∧ t.st = .full ∧ t.busy = [] then t
  else if t.st = .dirty then { t with busy := [] }
  else { t.emptied with busy := [] }

/-- Write back the DIRTY tiles of a context. DESIGN CHOICE, log 45. -/
def State.flushAll (s : State) (c : Nat) : State :=
  (s.ctx c).tiles.foldl (fun s e =>
    match e.2 with
    | some t =>
      if t.st = .dirty ∧ (s.flushFailure c t).isNone = true then s.flush c e.1 t else s
    | none => s) s

/-- Registers and accumulators that a safe-point entry names; without an entry none (R84, R85, R275). -/
def Ctx.live (x : Ctx) : Ctx :=
  let e := x.safe.getD ⟨0, 0, 0, 0⟩
  let named := fun (n : Nat) => e.amask.getLsbD n && decide (n < x.accN)
  { x with
    s := x.s.filter fun r => decide (r.1 ≠ 0) && e.smask.getLsbD r.1
    v := x.v.filter fun r => e.vmask.getLsbD r.1
    p := x.p.filter fun r => e.pmask.getLsbD r.1
    acc := x.acc.filter fun r => named (r.1 / 128)
    rs := x.rs.filter fun r => named r.1
    accBad := x.accBad.filter fun r => named (r / 128)
    regBad := x.regBad.filter fun r =>
      match r with
      | .s n => e.smask.getLsbD n.toNat
      | .v n => e.vmask.getLsbD n.toNat
      | .p n => e.pmask.getLsbD n.toNat
      | .fmt => false }

/-- The context as it is saved. -/
def Ctx.atRest (x : Ctx) : Ctx :=
  { x.live with
    tiles := x.tiles.map fun e => (e.1, e.2.map Tile.saved)
    accBusy := []
    score := []
    outst := []
    fences := []
    drain := []
    mxUntil := 0
    stallTo := 0
    groupLen := 0
    groupR := []
    groupW := []
    blocked := false
    stopReq := none
    iss := if x.frozen then x.iss else .empty }

/-- A command that a stop discards and a restore reissues (R167). -/
def Cmd.stops (q : Cmd) (c : Nat) : Bool :=
  decide (q.ctx = c ∧ q.entry ≠ 64) &&
    match q.kind with
    | .coll _ => false
    | .enq _ _ _ => false
    | _ => true

/-- Commands that outlive the stop change their owner's number; the others leave the journal.
DEDUCED, log 79. -/
def Cmd.afterStop (c identity : Nat) (q : Cmd) : Option Cmd :=
  if q.ctx ≠ c then some q
  else
    match q.kind with
    | .coll _ => some { q with ctx := orphanOf c identity }
    | .enq _ _ _ => some { q with ctx := orphanOf c identity }
    | _ => none

/-- A command as a restore reissues it. A command that had failed keeps its mark, but a copy into a
ring, whose tile the stop has emptied, starts afresh. DEDUCED, log 51. -/
def Cmd.reissued (q : Cmd) (c entry : Nat) : Cmd :=
  let ringed := q.kind.ringTile.isSome
  { q with
    ctx := c
    entry := entry
    kind :=
      match q.kind with
      | .fill _ th => .fill c th
      | .wb _ th => .wb c th
      | .unmap _ th => .unmap c th
      | k => k
    started := false
    failed := if ringed then none else q.failed }

/-! ### The save area (R220)

The spec lays out the descriptors (R156), the bindings (R230) and the capabilities (R250); the other layouts within a
field are the model's. DESIGN CHOICE, log 27. -/

/-- The memory that Gecko has set aside for the saves of the dispatcher and of a resize. DESIGN CHOICE, log 27. -/
def saveSpace : Nat := 17

/-- An area of that memory, by the identity of its context; odd, so that no CTXSAVE names it. DESIGN CHOICE, log 27. -/
def ownArea (identity : Nat) : DWord := BitVec.ofNat 64 (2 * identity + 1)

/-- Numbers that a mask selects, in ascending order. -/
def selected {n : Nat} (m : BitVec n) : List Nat := (List.range n).filter fun i => m.getLsbD i

/-- A tile's descriptor (R156). -/
def Tile.descriptor (t : Tile) : Nat :=
  t.gva.toNat + 2 ^ 64 * t.rstride.toNat + 2 ^ 104 * t.ty.toNat + 2 ^ 112 * t.unit.toNat +
    2 ^ 129 * t.bankY.toNat + 2 ^ 130 * t.scr.toNat + 2 ^ 131 * t.sealed.toNat +
    2 ^ 132 * t.bv.toNat + 2 ^ 133 * t.ub.toNat

/-- A handle's state byte; 0 stands for an unmapped one. -/
def tileCode (t : Option Tile) : Nat :=
  match t.map Tile.st with
  | none => 0 | some .empty => 1 | some .filling => 2 | some .full => 3 | some .dirty => 4 | some .faulted => 5

/-- A ring: the number of members, the two pointers, and the handles as RBINIT names them (R177). -/
def Ring.record (r : Ring) : Nat :=
  r.members.length + 2 ^ 8 * r.rd + 2 ^ 16 * r.wr +
    2 ^ 24 * (List.range r.members.length).foldl (fun z i => z + 2 ^ (5 * i) * r.members.getD i 0) 0

def ringOf (n : Nat) : Option Ring :=
  if n % 256 = 0 then none
  else
    some ⟨(List.range (n % 256)).map fun i => n / 2 ^ (24 + 5 * i) % 32, n / 2 ^ 8 % 256, n / 2 ^ 16 % 256⟩

def CpLevel.bytes (l : CpLevel) : List Byte :=
  leBytes 2 l.cnt.toNat ++ leBytes 4 l.ss.toNat ++ leBytes 4 l.ds.toNat

/-- The 128 bytes of the copy staging. -/
def Staging.bytes (g : Staging) : List Byte :=
  let l := leBytes 4 g.c0 ++ [g.l1, g.l2, g.l3, g.l4, g.l5].flatMap CpLevel.bytes ++
    leBytes 8 g.sbase.toNat ++ leBytes 8 g.dbase.toNat ++
    match g.conv with
    | none => []
    | some v =>
      leBytes 1 1 ++ [v.x0, v.y0, v.n0, v.w, v.h, v.n].flatMap (fun x => leBytes 2 x.toNat) ++
        leBytes 1 v.pad.toNat ++ leBytes 8 v.pitch.toNat
  l ++ leBytes (128 - l.length) 0

/-- The staging that 128 bytes hold. -/
def stagingOf (l : List Byte) : Staging :=
  let f := fun (o n : Nat) => leNat ((l.drop o).take n)
  let lv := fun (i : Nat) =>
    (⟨BitVec.ofNat 16 (f (4 + 10 * i) 2), BitVec.ofNat 32 (f (6 + 10 * i) 4), BitVec.ofNat 32 (f (10 + 10 * i) 4)⟩ :
      CpLevel)
  let h := fun (i : Nat) => BitVec.ofNat 16 (f (71 + 2 * i) 2)
  { c0 := f 0 4, l1 := lv 0, l2 := lv 1, l3 := lv 2, l4 := lv 3, l5 := lv 4,
    sbase := BitVec.ofNat 64 (f 54 8), dbase := BitVec.ofNat 64 (f 62 8)
    conv :=
      if f 70 1 = 0 then none
      else some ⟨h 0, h 1, h 2, h 3, h 4, h 5, BitVec.ofNat 8 (f 83 1), BitVec.ofNat 64 (f 84 8)⟩ }

/-- A probed range. -/
def Probe.record (q : Probe) : Nat := q.start.toNat + 2 ^ 64 * q.len + 2 ^ 96 * q.write.toNat + 2 ^ 104

def probeOf (n : Nat) : Option Probe :=
  if n / 2 ^ 104 % 256 = 0 then none
  else some ⟨BitVec.ofNat 64 n, n / 2 ^ 64 % 2 ^ 32, decide (n / 2 ^ 96 % 2 = 1)⟩

/-- A binding's save record (R230). -/
def Binding.record (b : Binding) : Nat :=
  b.st.code + 2 ^ 8 * b.handle.toNat + 2 ^ 32 * b.serial.toNat + 2 ^ 64 * b.ctime.toNat

/-- A capability's save record (R250). -/
def Cap.record (k : Cap) : Nat :=
  k.t.toNat + 2 ^ 128 * k.port.toNat + 2 ^ 136 * k.iport.toNat + 2 ^ 144 * k.depth + 2 ^ 152

/-- `n` records of `size` bytes; those beyond the list are zero. -/
def recordsOf (n size : Nat) (l : List Nat) : List Byte :=
  (List.range n).flatMap fun i => leBytes size (l.getD i 0)

/-- The configuration state (R193): scale table, codebooks with their tags, row scales. -/
def cfgBytes (c : BitVec 512 × Store Codebook × VWord) : List Byte :=
  let cb := fun (i : Nat) => Store.get Codebook.zero c.2.1 i
  leBytes 64 c.1.toNat ++ (List.range 4).flatMap (fun i => leBytes 32 (cb i).entries.toNat) ++
    (List.range 4).flatMap (fun i => leBytes 1 (cb i).e4m3.toNat) ++ leBytes 316 0 ++ leBytes 512 c.2.2.toNat

/-- The configuration state that 1,024 bytes hold. -/
def cfgOf (l : List Byte) : BitVec 512 × Store Codebook × VWord :=
  let f := fun (o n : Nat) => leNat ((l.drop o).take n)
  (BitVec.ofNat 512 (f 0 64),
    Store.put Codebook.zero [] 0 ((List.range 4).map fun i =>
      ⟨decide (f (192 + i) 1 = 1), BitVec.ofNat 256 (f (64 + 32 * i) 32)⟩),
    BitVec.ofNat 4096 (f 512 512))

/-- The transposer's fill side and pop side with their counts, in the last 128 bytes of the fill side's half (R189). -/
def Transposer.parts (t : Transposer) : List (Nat × List Byte) :=
  let rows := fun (o : Nat) (l : List (BitVec 1024)) => (o, l.flatMap fun r => leBytes 128 r.toNat)
  let pop := (t.pop.map Prod.fst).getD []
  let meta_ := leBytes 2 t.fill.length ++ leBytes 2 t.bits ++ leBytes 1 t.pop.isSome.toNat ++
    leBytes 2 pop.length ++ leBytes 2 ((t.pop.map Prod.snd).getD 0) ++ leBytes 2 t.popped
  [(16256, meta_), rows 0 t.fill, rows 16384 pop]

/-- The transposer that an area holds; `f` reads at an offset. -/
def transposerOf (f : Nat → Nat → Nat) : Transposer :=
  let rows := fun (o n : Nat) => (List.range n).map fun i => BitVec.ofNat 1024 (f (o + 128 * i) 128)
  { fill := rows 0 (f 16256 2), bits := f 16258 2, xfer := none
    pop := if f 16260 1 = 0 then none else some (rows 16384 (f 16261 2), f 16263 2)
    popped := f 16265 2 }

/-! What a command in flight and the replay buffer hold, as numbers (R90, R167). -/

def CpLevel.code (l : CpLevel) : List Nat := [l.cnt.toNat, l.ss.toNat, l.ds.toNat]

def ConvGeom.code (v : ConvGeom) : List Nat :=
  [v.x0.toNat, v.y0.toNat, v.n0.toNat, v.w.toNat, v.h.toNat, v.n.toNat, v.pad.toNat, v.pitch.toNat]

def Staging.code (g : Staging) : List Nat :=
  g.c0 :: [g.l1, g.l2, g.l3, g.l4, g.l5].flatMap CpLevel.code ++ [g.sbase.toNat, g.dbase.toNat] ++
    (g.conv.map ConvGeom.code).getD []

/-- A command's kind and operands; a tile is named by its handle. -/
def CmdKind.code (k : CmdKind) : List Nat :=
  let slot := fun (r : Option (Nat × Nat)) => r.elim [] fun x => [x.1, x.2]
  match k with
  | .fill _ th => [0, th]
  | .wb _ th => [1, th]
  | .unmap _ th => [2, th]
  | .copy g r => 3 :: slot r ++ g.code
  | .gath g l n r => 4 :: slot r ++ [l.toNat, n] ++ g.code
  | .enq p a t => [5, p.toNat, a.toNat, t.toNat]
  | .coll d => [6, d.toNat]

/-- A command with its token, the commands that it follows and its mark. -/
def Cmd.code (q : Cmd) : List Nat :=
  q.kind.code ++ [q.tok.toNat, q.entry] ++ q.waits ++ (q.failed.elim [] fun f => [f.1.rank, f.2.toNat])

/-- The bundle with its performed bits, the registers that each unperformed slot has read, and the `fmt` in force
(R90). -/
def Issue.code (i : Issue) : List Nat :=
  let value := fun (r : RegId) =>
    match r with
    | .s n => (i.latch.rdS n).toNat
    | .v n => (i.latch.rdV n).toNat
    | .p n => (i.latch.rdP n).toNat
    | .fmt => i.latch.fmt.toNat
  [i.addr.toNat, i.hdr.toNat] ++ i.slots.map (fun p => (encode p.2).toNat) ++ [i.performed.toNat, i.latch.fmt.toNat] ++
    (i.slots.filter fun p => !i.performed.getLsbD p.1.index).flatMap fun p => (Instr.reads p.2 p.1).map value

/-- The bytes of a command in a save area. DESIGN CHOICE, log 27. -/
def Cmd.areaBytes (q : Cmd) : List Byte := leBytes 64 (Config.journalEntry q.code)

/-- The bytes of the replay buffer in a save area. DESIGN CHOICE, log 27. -/
def Issue.areaBytes (i : Issue) : List Byte := leBytes 4096 (Config.replayBuffer i.code)

def LTime.field (t : LTime) (n : Nat) : Nat :=
  match n with
  | 0 => t.e.toNat | 1 => t.l1.toNat | 2 => t.l2.toNat | 3 => t.l3.toNat | 4 => t.l4.toNat
  | _ => t.l5.toNat

/-- The fixed part (R220): offsets and bytes. `pend` and `fail` are the tokens that are pending and that failed
commands mark; a COLL's marks join the latter. DESIGN CHOICE, log 27. -/
def Ctx.fixedPart (x : Ctx) (pend fail : Nat) (cfg : Option (BitVec 512 × Store Codebook × VWord)) (cmds : List Cmd) :
    List (Nat × List Byte) :=
  let e := x.safe.getD ⟨0, 0, 0, 0⟩
  let lv := fun (f : LoopLevel → Nat) (i : Nat) =>
    match x.loops[i]? with
    | some l => f l
    | none => 0
  [(0x0000, leBytes 8 x.pc.toNat), (0x0008, leBytes 16 x.time.toNat),
   (0x0018, leBytes 8 (x.ldepth + 256 * x.pri.toNat + 65536 * (cfg.isSome.toNat + 2 * x.frozen.toNat))),
   (0x0020, (List.range 5).flatMap (fun i => leBytes 2 (lv (fun l => l.lb.toNat) i)) ++ leBytes 6 0),
   (0x0030, (List.range 5).flatMap fun i => leBytes 8 (lv (fun l => l.endA.toNat) i)),
   (0x0058, leBytes 4 x.fmt.toNat ++ leBytes 4 x.rt.e.toNat),
   (0x0060, leBytes 8 e.smask.toNat ++ leBytes 8 e.vmask.toNat ++ leBytes 2 e.pmask.toNat ++
     leBytes 1 e.amask.toNat ++ leBytes 13 0),
   (0x0080, (List.range 5).flatMap (fun i => leBytes 2 (LTime.field x.rt (i + 1))) ++ leBytes 6 0),
   (0x0090, leBytes 4 pend ++ leBytes 4 (x.linkFail.toNat ||| fail) ++ leBytes 8 0),
   (0x00a0, (List.range 24).flatMap fun h => leBytes 32 ((x.tile h).elim 0 Tile.descriptor)),
   (0x03a0, (List.range 24).flatMap (fun h => leBytes 1 (tileCode (x.tile h))) ++ leBytes 8 0),
   (0x03c0, (List.range 8).flatMap fun q => leBytes 8 ((x.ring q).elim 0 Ring.record)),
   (0x0400, (List.range 8).flatMap fun u => leBytes 16 (x.binding u).record),
   (0x0480, x.staging.bytes),
   (0x0500, recordsOf 16 16 (x.probes.map Probe.record)),
   (0x0600, recordsOf 16 32 (x.caps.map Cap.record)),
   (0x0c00, (cmds.take 64).flatMap Cmd.areaBytes ++ leBytes (64 * (64 - cmds.length)) 0)] ++
    (cfg.map fun c => (0x0800, cfgBytes c)).toList ++
    (if x.frozen then [(0x1c00, x.iss.areaBytes)] else []) ++
    x.tr.parts.map fun q => (0x2c00 + q.1, q.2)

/-- Registers and accumulators of the variable part: the numbers of the live scalars, vectors, predicates and
accumulators, in order (R84, R220). -/
def Ctx.liveLists (x : Ctx) : List Nat × List Nat × List Nat × List Nat :=
  let e := x.safe.getD ⟨0, 0, 0, 0⟩
  ((selected e.smask).filter fun i => decide (i ≠ 0), selected e.vmask,
    (selected e.pmask).filter fun i => decide (i ≠ 0 ∧ i ≠ 8),
    (selected e.amask).filter fun i => decide (i < x.accN))

/-- The variable part, in order (R220). DESIGN CHOICE, log 27. -/
def Ctx.variablePart (x : Ctx) : List Byte :=
  let (ls, lv, lp, la) := x.liveLists
  ls.flatMap (fun i => leBytes 8 (Store.get 0 x.s i).toNat) ++
    lv.flatMap (fun i => leBytes 512 (Store.get 0 x.v i).toNat) ++
    lp.flatMap (fun i => leBytes 16 (Store.get 0 x.p i).toNat) ++
    la.flatMap (fun i =>
      (List.range 128).flatMap (fun r => leBytes 512 (x.accRow i r).toNat) ++
        leBytes 512 (Store.get 0 x.rs i).toNat) ++
    x.tiles.flatMap fun t =>
      match t.2 with
      | some q =>
        if t.1 < 24 ∧ q.scr = true ∧ q.st = .full then Store.list 0 q.data 0 (tileBytes q.ty) else []
      | none => []

/-- Write a piece of a save area, for a requester: into Gecko's own memory, or into the partition's, where a refused
line is dropped and logged (R119, R220, R228). DESIGN CHOICE, log 27. -/
def State.areaWrite (s : State) (p who : Nat) (area : DWord) (o : Nat) (l : List Byte) : State :=
  if area.toNat % 2 = 1 then s.wrBytes (keyOf saveSpace (area.toNat / 2 * 2 ^ 24 + o)) l
  else
    ((chunks (area + BitVec.ofNat 64 o) l.length).foldl (fun (x : State × List Byte) c =>
      (if x.1.refuses p c.1.toNat true then x.1.logRefused p who c.1.toNat
        else x.1.wrLine (keyOf p c.1.toNat) (x.2.take c.2), x.2.drop c.2)) (s, l)).1

/-- Read a piece of a save area; a refused line reads all ones (R119). DESIGN CHOICE, log 27. -/
def State.areaRead (s : State) (p : Nat) (area : DWord) (o n : Nat) : List Byte :=
  if area.toNat % 2 = 1 then s.rdBytes (keyOf saveSpace (area.toNat / 2 * 2 ^ 24 + o)) n
  else
    (chunks (area + BitVec.ofNat 64 o) n).flatMap fun c =>
      if s.refuses p c.1.toNat false then List.replicate c.2 (BitVec.allOnes 8)
      else s.rdLine (keyOf p c.1.toNat) c.2

/-- A piece of a save area lies in a line that a busy tile keeps (R160). -/
def State.areaBusy (s : State) (p : Nat) (area : DWord) (o n : Nat) (write : Bool) : Bool :=
  decide (area.toNat % 2 = 0) &&
    (chunks (area + BitVec.ofNat 64 o) n).any fun c => s.lineBusy (keyOf p c.1.toNat / 128) none write

/-- Bytes of a save area. -/
def Ctx.areaSize (x : Ctx) : Nat := 0xac00 + x.variablePart.length

/-- Write a save area (R220). DESIGN CHOICE, log 27. -/
def State.writeArea (s : State) (p who : Nat) (area : DWord) (x : Ctx) (pend fail : Nat)
    (cfg : Option (BitVec 512 × Store Codebook × VWord)) (cmds : List Cmd) : State :=
  (x.fixedPart pend fail cfg cmds ++ [(0xac00, x.variablePart)]).foldl
    (fun (s : State) (f : Nat × List Byte) => s.areaWrite p who area f.1 f.2) s

/-- A tile that a save area describes, beside the device's own record of it: `code` is its state byte, `d` its
descriptor, `data` the contents of a FULL scratch tile. -/
def savedTile (kept : Option Tile) (code d : Nat) (data : Store Byte) : Option Tile :=
  if code = 0 then none
  else
    let scr := decide (d / 2 ^ 130 % 2 = 1)
    let t := tileOf (BitVec.ofNat 256 d)
    if code = 3 ∧ scr = true then some { t with st := .full, data := data, poison := kept.elim [] Tile.poison }
    else
      match kept with
      | some k =>
        if code = 4 ∧ k.st = .dirty then
          some { t with st := .dirty, data := k.data, poison := k.poison, ro := k.ro, phys := k.phys }
        else some t
      | none => some t

/-- Read a run of registers of the variable part. -/
def readRegs {w : Nat} (rd : Nat → Nat → Nat) (o size : Nat) (l : List Nat) : Store (BitVec w) :=
  (List.range l.length).foldl (fun m i =>
    Store.set 0 m (l.getD i 0) (BitVec.ofNat w (rd (o + size * i) size))) []

/-- The handles of an area with their contents: those of FULL scratch tiles stand from offset `o` on. -/
def readTiles (x : Ctx) (rd : Nat → Nat → Nat) (bytes : Nat → Nat → List Byte) (o : Nat) : Store (Option Tile) :=
  ((List.range 24).foldl (fun (m : Store (Option Tile) × Nat) h =>
    let code := rd (0x03a0 + h) 1
    let d := rd (0x00a0 + 32 * h) 32
    let n := if code = 3 ∧ d / 2 ^ 130 % 2 = 1 then tileBytes (BitVec.ofNat 4 (d / 2 ^ 104)) else 0
    (Store.set none m.1 h (savedTile (x.tile h) code d (Store.put 0 [] 0 (bytes m.2 n))), m.2 + n))
    (x.tiles.filter fun e => decide (24 ≤ e.1), o)).1

/-- The live masks of an area (R84, R220); none where it names nothing and the record has none. -/
def safeOf (rd : Nat → Nat → Nat) (old : Option SafeEntry) : Option SafeEntry :=
  let e : SafeEntry :=
    ⟨BitVec.ofNat 64 (rd 0x0060 8), BitVec.ofNat 64 (rd 0x0068 8), BitVec.ofNat 16 (rd 0x0070 2),
      BitVec.ofNat 8 (rd 0x0072 1)⟩
  if old = none ∧ e = ⟨0, 0, 0, 0⟩ then none else some e

/-- What a restore takes from the area beside the device's own record: that record gives the claims and the identity,
the counts at Chorus (R251), the questions under way and the trap; the bindings are reloaded by serial (R230). The
replay buffer holds what the device saved where its bytes still stand in the area, and nothing where they do not.
`failTok` holds the tokens that failed commands marked at the save. DESIGN CHOICE, log 27. -/
def State.readArea (s : State) (p : Nat) (area : DWord) (x0 : Ctx) (failTok : Nat) : Ctx :=
  let bytes := s.areaRead p area
  let rd := fun (o n : Nat) => leNat (bytes o n)
  let frozen := decide (rd 0x001a 1 / 2 % 2 = 1)
  let whole := decide (bytes 0x1c00 4096 = x0.iss.areaBytes)
  let marks := BitVec.ofNat 31 failTok
  let x : Ctx :=
    { x0 with
      safe := safeOf rd x0.safe
      frozen := frozen
      iss := if frozen = true ∧ whole = true then x0.iss else .empty }
  let t := LTime.ofNat (rd 0x0008 16)
  let (ls, lv, lp, la) := x.liveLists
  let ov := 0xac00 + 8 * ls.length
  let op := ov + 512 * lv.length
  let oa := op + 16 * lp.length
  { x with
    pc := BitVec.ofNat 64 (rd 0x0000 8)
    pri := BitVec.ofNat 4 (rd 0x0019 1)
    lc0 := t.e
    loops := (List.range (min 5 (rd 0x0018 1))).map fun i =>
      { lc := BitVec.ofNat 16 (LTime.field t (i + 1))
        lb := BitVec.ofNat 16 (rd (0x0020 + 2 * i) 2)
        endA := BitVec.ofNat 64 (rd (0x0030 + 8 * i) 8)
        body := (x.loops[i]?).elim 0 LoopLevel.body }
    fmt := BitVec.ofNat 32 (rd 0x0058 4) &&& fmtMask
    rt :=
      ⟨BitVec.ofNat 32 (rd 0x005c 4), BitVec.ofNat 16 (rd 0x0080 2), BitVec.ofNat 16 (rd 0x0082 2),
        BitVec.ofNat 16 (rd 0x0084 2), BitVec.ofNat 16 (rd 0x0086 2), BitVec.ofNat 16 (rd 0x0088 2)⟩
    linkFail := (BitVec.ofNat 31 (rd 0x0094 4) &&& ~~~ marks) ||| (x.linkFail &&& marks)
    ub := Store.put Binding.none [] 0 ((List.range 8).map fun u =>
      { Binding.none with serial := BitVec.ofNat 32 (rd (0x0404 + 16 * u) 4) })
    rings := Store.put none [] 0 ((List.range 8).map fun q => ringOf (rd (0x03c0 + 8 * q) 8))
    staging := stagingOf (bytes 0x0480 128)
    probes := (List.range 16).filterMap fun i => probeOf (rd (0x0500 + 16 * i) 16)
    tr := { transposerOf (fun o n => rd (0x2c00 + o) n) with xfer := x.tr.xfer }
    s := readRegs rd 0xac00 8 ls
    v := readRegs rd ov 512 lv
    p := readRegs rd op 16 lp
    acc := la.foldl (fun m a => Store.put 0 m (128 * a) ((List.range 128).map fun r =>
      BitVec.ofNat 4096 (rd (oa + 66048 * la.idxOf a + 512 * r) 512))) []
    rs := la.foldl (fun m a => Store.set 0 m a (BitVec.ofNat 4096 (rd (oa + 66048 * la.idxOf a + 65536) 512))) []
    tiles := readTiles x rd bytes (oa + 66048 * la.length) }

/-- The commands of an area: those that the device saved, as far as their bytes still stand there (R167).
DESIGN CHOICE, log 27. -/
def State.readCmds (s : State) (p : Nat) (area : DWord) (l : List Cmd) : List Cmd :=
  (List.range l.length).filterMap fun i =>
    (l[i]?).filter fun q => decide (s.areaRead p area (0x0c00 + 64 * i) 64 = q.areaBytes)

/-- The configuration state of an area, where its owner saved it (R193). -/
def State.readCfg (s : State) (p : Nat) (area : DWord) : Option (BitVec 512 × Store Codebook × VWord) :=
  if leNat (s.areaRead p area 0x001a 1) % 2 = 1 then some (cfgOf (s.areaRead p area 0x0800 1024)) else none

/-! ### Stop (R83, R275, R277) -/

/-- The first of the reasons for a stop in the order of R83. -/
def StopReq.kind (r : StopReq) : StopKind :=
  ([.move, .park, .preempt].find? fun k => decide (k ∈ r.kinds)).getD .gecko

/-- Whether a context that is to stop stands where it may be stopped: directly after a safe point, or,
for a resize, frozen for good (R83, R221, R275). DEDUCED, log 47. -/
def Ctx.mayStop (x : Ctx) : Bool :=
  match x.stopReq with
  | none => false
  | some r =>
    if x.frozen then
      decide (r.kind = .move ∨ r.kind = .park) &&
        match x.trap with
        | some t => !t.cause.recoverable
        | none => false
    else x.afterSafe

/-- What a stop still waits for: matrix beats, remote accesses, tiles that MXST writes (R83), and busy tiles elsewhere
that keep lines of a write-back or of the save area (R160). DEDUCED, log 47. -/
def State.stopWaits (s : State) (c : Nat) : Bool :=
  let x := s.ctx c
  decide (s.cycle < x.mxUntil) || !x.outst.isEmpty || (x.tiles.any fun e =>
    match e.2 with
    | some t => decide (BusyBy.mx ∈ t.busy ∨ BusyBy.mxst ∈ t.busy) || (decide (t.st = .dirty) && s.flushBusy c e.1 t)
    | none => false) ||
    match x.stopReq.bind StopReq.area with
    | some a => s.areaBusy x.part a 0 x.areaSize true
    | none => false

/-- Tokens of a context that are pending. -/
def State.pendMask (s : State) (c : Nat) : Nat :=
  ((List.range 31).filter fun k => !(s.producers c k).isEmpty).foldl (fun m k => m + 2 ^ k) 0

/-- Tokens of a context that failed commands mark. -/
def State.failMask (s : State) (c : Nat) : Nat :=
  ((List.range 31).filter fun k => (s.producers c k).any fun q => q.failed.isSome).foldl (fun m k => m + 2 ^ k) 0

/-- A context that leaves takes its questions back. It has no increment in flight: one that has sent any does not
stop before its bundle has issued (R252, R260). DESIGN CHOICE, log 43. -/
def State.withdraw (s : State) (c : Nat) : State :=
  let s1 := s.dropAsks c
  { s1 with
    host := { s1.host with pri := s1.host.pri.filter fun r => decide (r.1 ≠ c) } }

/-- Members of collectives in flight follow a context that is saved. DEDUCED, log 79. -/
def State.saveColls (s : State) (c identity : Nat) : State :=
  s.mapColls fun m => if m.ctx = c ∧ m.peer.isNone = true then { m with ctx := orphanOf c identity } else m

/-- A resume entry of the dispatcher's waiting lists (R218). DEDUCED, log 53. -/
def resumeEntry (level now pri : Nat) (area : DWord) : WaitEntry :=
  { level := level, since := now, moved := now, pri := pri, launches := [], resume := some area,
    headAt := none, victims := [], spare := [] }

/-- 10 ms, after which an entry moves up a level (R218). -/
def agingCycles : Nat := 10000 * usCycles

/-- STOP WITH A SAVE: the context leaves its core, and its area is written (R83, R85, R160, R167, R189, R193, R220).
DESIGN CHOICE, log 27. -/
def State.save (s : State) (c : Nat) (r : StopReq) : State :=
  let pend := s.pendMask c
  let fail := s.failMask c
  let s1 := (s.withdraw c).flushAll c
  let x := s1.ctx c
  let id := x.identity
  let k := s1.core (coreOf c)
  let cfg := if k.cfgOwner = some c then some (k.stab, k.cb, k.sa) else none
  let cmds := (s1.cores.flatMap fun e => e.2.journal).filter fun q => q.stops c
  let v : Saved :=
    { area := r.area.getD (ownArea id), ctx := x.atRest, cmds := cmds, failTok := fail, from_ := c, why := r.kind }
  let back := decide (r.kind = .preempt ∨ r.kind = .park)
  let s2 := (((s1.mapJournals (Cmd.afterStop c id)).saveColls c id).leaveCore c id).writeArea x.part
    (reqOfCtx x.part c) v.area v.ctx pend fail cfg cmds
  let s3 := s2.updPart x.part fun P =>
    { P with
      saved := P.saved ++ [v]
      waiting := P.waiting ++ if back then [resumeEntry x.pri.toNat s.cycle x.pri.toNat v.area] else [] }
  let s4 := if back then s3.schedule agingCycles (.dispatchAging x.part) else s3
  ((s4.geckoDone c).setCtx c Ctx.free).after 0 (.gangPlacement x.part)

/-- R83: the stop of a context takes place once it may stop and nothing is waited for, after an open duration
(R322). DEDUCED, log 47. -/
def execContextStop (ctx : Nat) (s : State) : Out :=
  .next
    (match (s.ctx ctx).stopReq with
     | none => s
     | some r =>
       if (s.ctx ctx).mayStop = true ∧ s.stopWaits ctx = false then s.save ctx r
       else s.after 1 (.contextStop ctx))

/-- Two requests at one safe point: the first in the order of R83 is taken, and what the other asked for uses its
save (R221). -/
def StopReq.join (q r : StopReq) : StopReq :=
  ⟨q.kinds ++ r.kinds, q.area.or r.area, if q.kind = .gecko then r.since else q.since, q.further⟩

/-- A stop for one reason, asked for now. -/
def State.stopFor (s : State) (k : StopKind) : StopReq := ⟨[k], none, s.cycle, false⟩

/-- Ask a context to stop (R83, R221). -/
def State.askStop (s : State) (c : Nat) (r : StopReq) : State :=
  if (s.ctx c).occupied = false ∨ (s.ctx c).ending.isSome = true then s
  else
    match (s.ctx c).stopReq with
    | none => (s.updCtx c fun x => { x with stopReq := some r }).after 0 (.contextStop c)
    | some q => s.updCtx c fun x => { x with stopReq := some (q.join r) }

/-- R212: SAVE of a running or blocked context; of any other it finishes at once. DESIGN CHOICE, log 74;
DEDUCED, log 87. -/
def execCtxSave (ctx : Nat) (s : State) : Out :=
  .next (s.gecko 3 ctx true fun s =>
    if (s.ctx ctx).occupied = true ∧ (s.ctx ctx).frozen = false then
      s.askStop ctx ⟨[.gecko], some (s.cluster (clusterOf ctx)).ctxsave, s.cycle, false⟩
    else s.geckoDone ctx)

/-! ### Contexts that a resize moves (R270, R274, R278) -/

/-- The physical core of a virtual pair under a map (R270). -/
def mapCore (m : Store (BitVec 16)) (v c : Nat) : Option Nat :=
  let e := Store.get 0 m (8 * v + c)
  if e.getLsbD 15 then some ((e.extractLsb' 0 6).toNat * 8 + (e.extractLsb' 8 3).toNat) else none

/-- The first slot with room for these claims. -/
def State.findRoom (s : State) (l : List Nat) (accs nx ny : Nat) : Option (Nat × Nat × Nat) :=
  l.findSome? fun c => (s.roomAt c accs nx ny).map fun b => (c, b)

/-- A context whose placement entry the resize changes. -/
def Part.moves (P : Part) (x : Ctx) : Bool :=
  match P.resize with
  | none => false
  | some r =>
    let i := 8 * x.vcluster.toNat + x.vcore.toNat
    decide (Store.get 0 P.map i ≠ Store.get 0 r.newMap i)

/-- The slots of contexts, each the lowest of its candidates that is free and whose core has accumulators for it; none
if one has no such slot. -/
def State.freeSlots (s : State) : List (Ctx × List Nat) → Option (List Nat)
  | [] => some []
  | x :: t =>
    match x.2.find? fun c => !(s.ctx c).occupied && decide (s.accsHeld (coreOf c) + x.1.accN ≤ 8) with
    | none => none
    | some c => ((s.setCtx c { x.1 with occupied := true, unitX := (0, 0), unitY := (0, 0) }).freeSlots t).map (c :: ·)

/-- Bases in a bank group for grants of contexts in given slots, cluster by cluster. -/
def State.basesFor (s : State) (y : Bool) (l : List (Nat × Nat)) : Option (Store Nat) :=
  (l.map fun e => clusterOf e.1).eraseDups.foldl (fun o cl =>
    let here := l.filter fun e => decide (clusterOf e.1 = cl)
    o.bind fun m =>
      (packs (here.map Prod.snd) (gapsOf (s.unitsUsed cl y))).map fun bs =>
        (here.zip bs).foldl (fun m e => Store.set 0 m e.1.1 e.2) m) (some [])

/-- Places for contexts, each in one of its candidate slots: slots and bases, where all of them fit beside those that
are resident (R278). -/
def State.fitAll (s : State) (l : List (Ctx × List Nat)) : Option (List (Nat × Nat × Nat)) :=
  (s.freeSlots l).bind fun cs =>
    let units := fun (f : Ctx → Nat) => cs.zip (l.map fun x => f x.1)
    match s.basesFor false (units fun x => x.unitX.2), s.basesFor true (units fun x => x.unitY.2) with
    | some bx, some by_ => some (cs.map fun c => (c, Store.get 0 bx c, Store.get 0 by_ c))
    | _, _ => none

/-- A context with the slots of its core under a map. -/
def Ctx.goesTo (x : Ctx) (m : Store (BitVec 16)) : Ctx × List Nat :=
  (x, ((mapCore m x.vcluster.toNat x.vcore.toNat).map coreCtxs).getD [])

/-- The contexts that a resize moves fit under the new map, the others staying where they are and the gangs that PARK
saves aside (R278). -/
def State.movesFit (s : State) (p : Nat) (newMap : Store (BitVec 16)) : Bool :=
  let P := s.part p
  let parked := (P.resize.map Resize.moving).getD []
  let res := s.ctxs.filter fun e =>
    e.2.occupied && decide (e.2.part = p) && decide (e.2.gang ∉ parked) &&
      decide (Store.get 0 P.map (8 * e.2.vcluster.toNat + e.2.vcore.toNat) ≠
        Store.get 0 newMap (8 * e.2.vcluster.toNat + e.2.vcore.toNat))
  let gone := res.foldl (fun s e => s.setCtx e.1 Ctx.free) s
  let all := res.map Prod.snd ++ (P.saved.filter fun v => decide (v.why = .move)).map Saved.ctx
  (gone.fitAll (all.map fun x => x.goesTo newMap)).isSome

/-- A context that the resize under way has saved: ABORT brings it back (R274). -/
def Saved.returns (v : Saved) : Bool := decide (v.why = .move ∨ v.why = .park)

/-- The old place of a saved context, its slot and its units, is free: the bases of its grants there (R274). -/
def State.homeOf (s : State) (v : Saved) : Option (Nat × Nat) :=
  let x := v.ctx
  let cl := clusterOf v.from_
  if (s.ctx v.from_).occupied = false ∧ s.accsHeld (coreOf v.from_) + x.accN ≤ 8 ∧
      rangeFree (s.unitsUsed cl false) x.unitX = true ∧ rangeFree (s.unitsUsed cl true) x.unitY = true then
    some (x.unitX.1, x.unitY.1)
  else none

/-- The saved contexts that ABORT would bring back fit at their old places (R274). -/
def State.returnFits (s : State) (p : Nat) : Bool :=
  (((s.part p).saved.filter Saved.returns).foldl (fun (o : Option State) v =>
    o.bind fun s => (s.homeOf v).map fun _ => s.setCtx v.from_ v.ctx) (some s)).isSome

/-- What a running resize has reserved stays free (R274). -/
def State.leavesReserved (s : State) (p : Nat) : Bool :=
  match (s.part p).resize with
  | some r =>
    if r.phase = .prepare ∨ r.phase = .quiesce then s.movesFit p r.newMap && s.returnFits p
    else if r.phase = .abort then s.returnFits p
    else if r.phase = .move then s.movesFit p r.newMap
    else true
  | none => true

/-- What would take a place that a running resize has reserved does not come about (R274). -/
def State.unlessReserved (s : State) (p : Nat) (u : State) : State := if u.leavesReserved p then u else s

/-! ### Restore (R85, R167, R193, R212, R230, R251, R276, R277) -/

/-- The bindings as the terms unit records them (R230). -/
def State.reloadBindings (s : State) (x : Ctx) : Store Binding :=
  (List.range 8).foldl (fun m u =>
    let b := x.binding u
    let r := s.terms.resv.find? fun r => decide (r.serial = b.serial ∧ r.holder = x.identity)
    match r with
    | some r =>
      Store.set Binding.none m u
        ⟨if r.committed then .committed else .reserved, BitVec.ofNat 12 r.handle, r.serial,
          BitVec.ofNat 64 r.ctime⟩
    | none => m) []

/-- Reissue the commands of a restored context; one that finds the journal full waits for an entry, and the context's
bundles with it (R167). DEDUCED, log 51. -/
def State.reissue (s : State) (c : Nat) (l : List Cmd) : State :=
  l.foldl (fun s q =>
    let k := coreOf c
    let e := if (s.core k).used < 64 then (s.core k).freeEntry else 65
    let s1 := s.updCore k fun r => { r with journal := r.journal ++ [q.reissued c e] }
    if (q.reissued c e).failed.isSome = true ∧ e < 64 then s1 else s1.after 0 (.dmCommandStart k q.id)) s

/-- Commands and collectives that ran on come back to their context (R167, R260). DEDUCED, log 79. -/
def State.reclaim (s : State) (c identity : Nat) : State :=
  let s1 := s.mapJournals fun q =>
    some (if 2048 ≤ q.ctx ∧ q.ctx / 2048 = identity then { q with ctx := c } else q)
  s1.mapColls fun m =>
    if 2048 ≤ m.ctx ∧ m.ctx / 2048 = identity ∧ m.killed = false then { m with ctx := c } else m

/-- RESTORE a saved context of partition `p` from its area into slot `c` with its grants at the given bases; when its
first bundle issues is open (R322). A context frozen for good moves still frozen, and its trap record goes to its new
Gecko (R275). DEDUCED, log 51. -/
def State.restore (s0 : State) (p : Nat) (v : Saved) (c : Nat) (bases : Nat × Nat) : State :=
  let s : State := { s0 with delays := s0.delays.drop 1 }
  let x0 := s.readArea p v.area v.ctx v.failTok
  let x : Ctx :=
    { x0 with
      stallTo := s.cycle + s0.nextDelay
      unitX := (bases.1, x0.unitX.2)
      unitY := (bases.2, x0.unitY.2)
      ub := s.reloadBindings x0
      afterSafe := !x0.frozen }
  let s1 := (s.updPart p fun P =>
    { P with
      saved := P.saved.filter fun q => decide (q.ctx.identity ≠ x.identity)
      waiting := P.waiting.filter fun e => decide (e.resume ≠ some v.area) }).setCtx c x
  let s2 := match s.readCfg p v.area with
    | some (stab, cb, sa) => s1.updCore (coreOf c) fun k =>
        { k with stab := stab, cb := cb, sa := sa, cfgOwner := some c }
    | none => s1
  let s3 := (s2.reissue c (s.readCmds p v.area v.cmds)).reclaim c x.identity
  match x.frozen, x.trap with
  | true, some r => s3.sendTrap c { r with ctx := BitVec.ofNat 8 (c % 32) }
  | _, _ => s3

/-- The partition that holds a cluster. -/
def State.partOfCluster (s : State) (cl : Nat) : Option Nat :=
  match (s.cluster cl).cond with
  | .held p => some p
  | _ => none

/-- R212: RESTORE. A slot that is not free, an address that holds no save area of the cluster's partition, or a cluster
without room leaves everything as it is. The command waits while a resize changes the map for the context's pair (R8,
R274), and while a busy tile keeps a line of the area (R160). DEDUCED, log 87; DESIGN CHOICE, log 27, 74. -/
def execCtxRestore (ctx : Nat) (s : State) : Out :=
  .next (s.geckoOn 4 ctx fun s =>
    let area := (s.cluster (clusterOf ctx)).ctxsave
    match s.partOfCluster (clusterOf ctx) with
    | none => s.geckoDone ctx
    | some p =>
      match (s.part p).saved.find? fun v => decide (v.area = area ∧ v.why ≠ .move) with
      | none => s.geckoDone ctx
      | some v =>
        if (s.part p).moves v.ctx = true ∨ s.areaBusy p area 0 v.ctx.areaSize false = true then
          s.schedule 1 (.ctxRestore ctx)
        else
          match s.roomAt ctx v.ctx.accN v.ctx.unitX.2 v.ctx.unitY.2 with
          | none => s.geckoDone ctx
          | some b => (s.geckoDone ctx).unlessReserved p ((s.geckoDone ctx).restore p v ctx b))

end Sys2Proof.Machine
end

