-- ==== Sys2Proof/Machine/Gecko.lean ====
section
/-!
DEFINITION. Gecko as the device sees it (R14, R210 to R212): the trap-record ring, CTXCMD RESUME, writes
to device registers (R5, R210, R289), pages that are evicted and come back (R162 to R164, R291, R308).
-/
namespace Sys2Proof.Machine

open Sys2Proof

/-! ### The trap ring (R211) -/

/-- Unread records of the ring. DEDUCED, log 46. -/
def Cluster.unread (k : Cluster) : Nat := (k.trhead - k.trtail).toNat

/-- Gecko's machine external interrupt is pending (R211). -/
def Cluster.extIrq (k : Cluster) : Bool := decide (k.trhead ≠ k.trtail)

/-- R211: the oldest waiting record enters the ring when it has room. DEDUCED, log 46; DESIGN CHOICE, log 74. -/
def execTrapRecordAppend (cluster : Nat) (s : State) : Out :=
  .next
    (let k := s.cluster cluster
     match k.trWait with
     | [] => s
     | (_, r) :: rest =>
       if 256 ≤ k.unread then s
       else
         let a := k.trbase.toNat + 64 * (k.trhead.toNat % 256)
         (s.wrMem (keyOf (geckoSpace cluster) a) r.bytes).updCluster cluster fun q =>
           { q with trhead := q.trhead + 1, trWait := rest })

/-- TRTAIL moves on and waiting records may enter (R211). DEDUCED, log 46. -/
def State.setTail (s : State) (cl : Nat) (v : Word) : State :=
  (s.cluster cl).trWait.foldl (fun s _ => s.schedule 0 (.trapRecordAppend cl))
    (s.updCluster cl fun k => { k with trtail := v })

/-- R211, R268. DESIGN CHOICE, log 74. -/
def execTrtailWrite (cluster : Nat) (val : Word) (s : State) : Out :=
  .next (s.geckoWrite cluster (s.setTail cluster val))

/-- R212: RESUME of a context frozen on a recoverable fault; any other state is left as it is.
DESIGN CHOICE, log 74; DEDUCED, log 87. -/
def execCtxResume (ctx : Nat) (s : State) : Out :=
  .next (s.gecko 1 ctx false fun s => s.resume ctx)

/-! ### Register writes (R5, R210, R289) -/

def State.mail (s : State) (fn : Nat) : Mailbox := Store.get Mailbox.reset s.host.mail fn
def State.setMail (s : State) (fn : Nat) (m : Mailbox) : State :=
  { s with host := { s.host with mail := Store.set Mailbox.reset s.host.mail fn m } }

/-- A write of CTXCMD: ops 1 to 4 start their commands, others only change the fields (R210).
DEDUCED, log 87. -/
def State.writeCtxCmd (s : State) (cl : Nat) (v : DWord) : State :=
  let op := (v.extractLsb' 24 4).toNat
  let ctx := cl * 32 + (v.extractLsb' 16 5).toNat
  if (s.cluster cl).busy then s
  else
    match op with
    | 1 => s.schedule 0 (.ctxResume ctx)
    | 2 => s.schedule 0 (.ctxKill ctx)
    | 3 => s.schedule 0 (.ctxSave ctx)
    | 4 => s.schedule 0 (.ctxRestore ctx)
    | _ => s.updCluster cl fun k => { k with ctxcmd := ctxCmd op ctx false }

/-- Whether a code is a command that the function may send (R290). DESIGN CHOICE, log 15. -/
def mailAllowed (fn code : Nat) : Bool :=
  decide (code ∈ [0x01, 0x10, 0x11, 0x12, 0x13, 0x30, 0x31, 0x32, 0x33, 0x50]) ||
    (decide (fn = 0) && decide (code ∈ [0x14, 0x20, 0x21, 0x22, 0x23, 0x40]))

/-- The arguments of a command in the block at MBARG: dwords in the order in which the command's table names them, a
time as 16 bytes. DESIGN CHOICE, log 15. -/
def State.mailArg (s : State) (fn i : Nat) : DWord :=
  BitVec.ofNat 64 (leNat (s.rdBytes (keyOf hostSpace ((s.mail fn).arg.toNat + 8 * i)) 8))

def State.mailTime (s : State) (fn i : Nat) : LTime :=
  LTime.ofNat (leNat (s.rdBytes (keyOf hostSpace ((s.mail fn).arg.toNat + 8 * i)) 16))

/-- The command that a code and the argument register start; a code that the function may not send is refused (R290).
DESIGN CHOICE, log 15. -/
def State.mailCommand (s : State) (fn : Nat) : Instr :=
  let m := s.mail fn
  let code := m.cmd.toNat % 256
  let a := s.mailArg fn
  if mailAllowed fn code = false then .mailboxBadCommand fn
  else
    match code with
    | 0x01 => .loadImage fn m.arg
    | 0x10 => .installTerms fn (a 0) (a 1)
    | 0x11 => .bindRegion fn (a 0) (a 1) (a 2)
    | 0x12 => .removeTerms fn (a 0) (a 1)
    | 0x13 => .statement fn (a 0) (a 1)
    | 0x14 => .timeUpdate fn (a 0)
    | 0x20 => .partCreate fn m.arg
    | 0x21 => .partResize fn m.arg
    | 0x22 => .partStatus fn m.arg
    | 0x23 => .partDestroy fn m.arg
    | 0x30 => .portSet fn (a 0) (a 1) (a 2) (a 3)
    | 0x31 => .portDeclare fn (a 0) (s.mailTime fn 1) (a 3)
    | 0x32 => .queuePush fn (a 0) (a 1) (s.mailTime fn 2)
    | 0x33 => .frontierReset fn
    | 0x40 => .engineLease fn (a 0) (a 1)
    | 0x50 => .attach fn (BitVec.ofNat 128 (leNat (s.rdBytes (keyOf hostSpace m.arg.toNat) 16)))
    | _ => .mailboxBadCommand fn

/-- The doorbell starts the command (R5, R289). -/
def State.ringDoor (s : State) (fn : Nat) : State :=
  (s.setMail fn { s.mail fn with door := true }).after 0 (s.mailCommand fn)

/-- R5, R210, R268, R289: writable bits take the value, read-only registers ignore the write.
DESIGN CHOICE, log 15, 74. -/
def execRegisterWrite (r : DevReg) (val : DWord) (s : State) : Out :=
  .next
    (match r with
     | .gecko cl .trbase =>
       s.geckoWrite cl (s.updCluster cl fun k => { k with trbase := val &&& ~~~ (0x3fff : DWord) })
     | .gecko cl .trhead => s.geckoWrite cl s
     | .gecko cl .trtail => s.geckoWrite cl (s.setTail cl (val.setWidth 32))
     | .gecko cl .ctxsave =>
       s.geckoWrite cl (s.updCluster cl fun k => { k with ctxsave := val &&& ~~~ (0xfff : DWord) })
     | .gecko cl .ctxcmd => s.geckoWrite cl (s.writeCtxCmd cl val)
     | .mail fn .mbcmd => s.setMail fn { s.mail fn with cmd := val.setWidth 32 &&& 0xff }
     | .mail fn .mbarg => s.setMail fn { s.mail fn with arg := val }
     | .mail fn .mbpart => s.setMail fn { s.mail fn with part := val.setWidth 32 &&& 0xf }
     | .mail fn .mbdoor =>
       if val.getLsbD 0 = true ∧ (s.mail fn).door = false then s.ringDoor fn else s
     | .mail _ .mbstat => s)

/-! ### Pages (R162 to R164, R291, R308) DESIGN CHOICE, log 8. -/

/-- Where an evicted page of partition memory stands in host memory. DESIGN CHOICE, log 62. -/
def evictKey (p gp : Nat) : Nat := keyOf hostSpace ((p * 2 ^ 40 + gp) * 8192)

/-- The context keeps page `vp` pinned (R163, R164). -/
def Ctx.pinsPage (x : Ctx) (vp : Nat) : Bool :=
  decide (vp ∈ x.pins) ||
    x.probes.any fun q => decide ((vp + 2 ^ 52 - q.start.toNat / 4096) % 2 ^ 52 < (pagesOf q.start q.len).length)

/-- A context of the partition, present or saved, keeps a page pinned: no eviction and no walk takes its mapping
away (R163, R276). -/
def State.pinned (s : State) (p vp : Nat) : Bool :=
  s.ctxs.any (fun e => e.2.occupied && decide (e.2.part = p) && e.2.pinsPage vp) ||
    (s.part p).saved.any fun v => v.ctx.pinsPage vp

/-- The pages that contexts of a partition, present or saved, keep pinned (R163, R276). -/
def State.pinnedPages (s : State) (p : Nat) : List Nat :=
  let of := fun (x : Ctx) => x.pins ++ x.probes.flatMap fun q => pagesOf q.start q.len
  ((s.ctxs.filter fun e => e.2.occupied && decide (e.2.part = p)).flatMap fun e => of e.2) ++
    (s.part p).saved.flatMap fun v => of v.ctx

/-- A pinned page stands for a page of partition memory: no eviction takes that away in the host stage (R163). -/
def State.pinnedAt (s : State) (p gp : Nat) : Bool :=
  (s.pinnedPages p).any fun v =>
    let g := (s.part p).guestPage v
    g.present && !g.host && decide (g.ppage = gp)

/-- A mapping is installed; pinned pages of its range that are present keep the mapping that they have (R163). -/
def State.mapPage (s : State) (p vp : Nat) (m : PageMap) : State :=
  let P := s.part p
  let b := pageBase m.size vp
  let keep := (s.pinnedPages p).filter fun v => decide (b ≤ v ∧ v < b + pagesIn m.size) && (P.guestPage v).present
  s.updPart p fun P => keep.foldl (fun Q v => Q.setPage v { P.guestPage v with size := .k4 }) (P.setPage vp m)

/-- The bytes of a page, line by line through a function of the line's address. -/
def pageLines (f : Nat → List Byte → List Byte) (a : Nat) (l : List Byte) : List Byte :=
  (List.range 32).flatMap fun i => f (a + 128 * i) ((l.drop (128 * i)).take 128)

/-- R162, R163, R302, R308: Gecko evicts a page of partition memory that is not pinned; the host stage has it no
longer. It leaves as ciphertext under the partition's data key and its physical address, a protected partition's with
its version and tag, and the device keeps the version. It waits while a busy tile keeps one of its lines (R160).
DESIGN CHOICE, log 62, 74. -/
def execPageEviction (part vpage : Nat) (version : DWord) (s : State) : Out :=
  .next
    (let P := s.part part
     let g := P.guestPage vpage
     let h := P.hostPage g.ppage
     let from_ := keyOf part (h.ppage * 4096)
     let dest := evictKey part g.ppage
     if P.live = false ∨ g.present = false ∨ g.host = true ∨ P.M ≤ g.ppage * 4096 ∨ h.present = false ∨
         s.pinned part vpage = true ∨ s.pinnedAt part g.ppage = true then s
     else if s.spanBusy from_ 4096 false = true ∨ s.spanBusy dest 4120 true = true then
       s.schedule 1 (.pageEviction part vpage version)
     else
       let bytes := s.rdBytes from_ 4096
       let sealed := Config.sealPage P.dataKey h.ppage version bytes
       let out :=
         if P.policy.cls = 1 then sealed.take 4096 ++ leBytes 8 version.toNat ++ sealed.drop 4096
         else pageLines (Config.xtsSeal P.dataKey) (h.ppage * 4096) bytes
       (s.wrBytes dest out).updPart part fun P =>
         { P with
           hostPages := Store.set none P.hostPages g.ppage (some { h with present := false, host := true })
           evicted := Store.set none P.evicted g.ppage (some version) })

/-- The version of the evicted page that a page stands for, which is expected back (R308). -/
def Part.expects (P : Part) (vp : Nat) : Option DWord :=
  let g := P.guestPage vp
  if g.present = true ∧ g.host = false then Store.get none P.evicted g.ppage else none

/-- The bytes of evicted page `gp`, which comes back to page `pp` of the partition, when its version is the expected
one and its tag fits that page (R302, R308). DESIGN CHOICE, log 62. -/
def State.returned (s : State) (p gp pp : Nat) (version : DWord) : Option (List Byte) :=
  if (s.part p).policy.cls = 1 then
    let l := s.rdBytes (evictKey p gp) 4120
    if leNat ((l.drop 4096).take 8) ≠ version.toNat then none
    else Config.openPage (s.part p).dataKey pp version (l.take 4096 ++ l.drop 4104)
  else some (pageLines (Config.xtsUnseal (s.part p).dataKey) (pp * 4096) (s.rdBytes (evictKey p gp) 4096))

/-- A context frozen on a late miss of a page that failed its check receives INTEGRITY (R308). -/
def State.integrityTrap (s : State) (c vp : Nat) : State :=
  match (s.ctx c).trap with
  | some r =>
    if (s.ctx c).frozen = true ∧ r.cause = .lateMiss ∧ r.operand.toNat / 4096 = vp then
      (s.updCtx c fun x =>
        { x with iss := { x.iss with faults :=
            [⟨r.slot.toNat, .integrity, some r.operand, none, r.terms⟩] } }).takeTrap c
    else s
  | none => s

/-- The requester of a page: the context whose PROBE asked for it or that is frozen on its miss (R304, R308). -/
def State.askerOf (s : State) (p vp : Nat) : Nat :=
  match s.host.pri.find? fun r => decide (r.2.1 = vp ∧ (s.ctx r.1).part = p) with
  | some r => reqOfCtx p r.1
  | none =>
    match s.ctxs.find? fun e => decide (e.2.part = p ∧ e.2.frozen = true) &&
        match e.2.trap with
        | some r => decide (r.cause = .lateMiss ∧ r.operand.toNat / 4096 = vp)
        | none => false with
    | some e => reqOfCtx p e.1
    | none => p

/-- A returned page that fails its check (R308): not mapped, logged, and told to whoever asked. -/
def State.pageBad (s : State) (p vp : Nat) : State :=
  let s1 := s.addLog p 5 0 (vp * 4096) (s.askerOf p vp) 0
  let s2 : State := { s1 with host := { s1.host with
    pri := s1.host.pri.map fun r =>
      if r.2.1 = vp ∧ (s.ctx r.1).part = p then (r.1, r.2.1, 2) else r } }
  s2.ctxs.foldl (fun s e => if e.2.part = p then s.integrityTrap e.1 vp else s) s2

/-- Requests for a page that has resolved are done with. -/
def State.priDone (s : State) (p vp : Nat) : State :=
  { s with host := { s.host with
      pri := s.host.pri.filter fun r => decide (¬ (r.2.1 = vp ∧ (s.ctx r.1).part = p)) } }

/-- A returning page has to wait for a busy tile that keeps one of its lines (R160, R279, R280). -/
def State.backBusy (s : State) (p gp pp : Nat) : Bool :=
  s.spanBusy (evictKey p gp) 4120 false || s.spanBusy (keyOf p (pp * 4096)) 4096 true

/-- Evicted page `gp`, which page `vp` stands for, comes back to page `pp` of the partition, where the host stage has it
from then on (R162, R308). DESIGN CHOICE, log 62. -/
def State.pageBack (s : State) (p vp gp pp : Nat) (w : Bool) (version : DWord) : State :=
  match s.returned p gp pp version with
  | none => s.pageBad p vp
  | some bytes =>
    ((s.wrBytes (keyOf p (pp * 4096)) bytes).updPart p fun P =>
      { P with
        hostPages := Store.set none P.hostPages gp (some { present := true, writable := w, host := false, ppage := pp })
        evicted := Store.set none P.evicted gp none }).priDone p vp

/-- R164, R291, R308: the host answers a page request of a PROBE. A first failure sends the request
again. DEDUCED, log 39. -/
def execPageRequestReply (ctx vpage : Nat) (r : PageReply) (s : State) : Out :=
  .next
    (let p := (s.ctx ctx).part
     let P := s.part p
     let g := P.guestPage vpage
     match s.host.pri.find? fun q => decide (q.1 = ctx ∧ q.2.1 = vpage) with
     | none => s
     | some q =>
       match r with
       | .mapped w =>
         match P.expects vpage with
         | some version =>
           let pp := (P.hostPage g.ppage).ppage
           if s.backBusy p g.ppage pp then s.schedule 1 (.pageRequestReply ctx vpage r)
           else s.pageBack p vpage g.ppage pp w version
         | none =>
           let s1 := if g.host = true ∨ g.present = false then
               s.updPart p fun P => P.setPage vpage { g with present := true, writable := w }
             else s
           s1.priDone p vpage
       | .failed =>
         let st := if q.2.2 = 0 then 3 else if q.2.2 = 3 then 1 else q.2.2
         { s with host := { s.host with
             pri := s.host.pri.map fun x => if x = q then (q.1, q.2.1, st) else x } })

/-- R162, R163, R308: a walk ends with the mapping of the guest stage that stands now; a page that comes back from the
host is checked first and is put where the walk says, and pinned pages keep the mapping that they have.
DESIGN CHOICE, log 8. -/
def execPageWalkComplete (part vpage : Nat) (m : PageMap) (s : State) : Out :=
  .next
    (let P := s.part part
     if P.live = false then s
     else
       match P.expects vpage with
       | some version =>
         let gp := (P.guestPage vpage).ppage
         if m.present = true ∧ m.host = false then
           if s.backBusy part gp m.ppage then s.schedule 1 (.pageWalkComplete part vpage m)
           else s.pageBack part vpage gp m.ppage m.writable version
         else s
       | none =>
         if s.pinned part vpage = true ∧ (P.page vpage).present = true then s
         else s.mapPage part vpage m)

end Sys2Proof.Machine
end

