-- ==== Sys2Proof/Machine/Mailbox.lean ====
section
/-!
DEFINITION. The host mailbox (R289, R290), and the commands that the terms unit, the frontier unit and the
bulk engines take from it (R226 to R229, R236, R262, R293, R295).
-/
namespace Sys2Proof.Machine

open Sys2Proof

/-! ### Replies and guards (R289, R290, R313) -/

def stOk : Nat := 0
def stBadSignature : Nat := 1
def stBadDigest : Nat := 2
def stBadFormat : Nat := 3
def stOverGrant : Nat := 4
def stSpacing : Nat := 5
def stShadow : Nat := 6
def stBadTable : Nat := 7
def stBusy : Nat := 8
def stNoHandle : Nat := 9
def stBadContent : Nat := 10
def stBadCapsule : Nat := 11
def stStaleTime : Nat := 12
def stNoResource : Nat := 13
def stTimeout : Nat := 14
def stBadSession : Nat := 15

/-- Requester field of a host function's record: bits 14:8 hold the number of a virtual function; the physical function,
function 0 here, has 0 there and belongs to no partition (R304). DEDUCED, log 77. -/
def reqOfFn (p fn : Nat) : Nat := p + 256 * (fn - 1) + 2 ^ 31

/-- The status of a command and MSI-X vector 0 reach the host; while the host link is down after bring-up they are lost
(R289, R292, R313). DESIGN CHOICE, log 60. -/
def State.tell (s : State) (fn status value : Nat) : State :=
  let m := s.mail fn
  if s.host.ready = true ∧ s.host.link = .down then s
  else s.setMail fn { m with stat := BitVec.ofNat 64 (status + 256 * value), msi := m.msi + 1 }

/-- The mailbox is free for the next command (R289). -/
def State.freeMail (s : State) (fn : Nat) : State :=
  s.setMail fn { s.mail fn with door := false, taken := false, waits := none }

/-- A command completes: status and reply value, door cleared, MSI-X vector 0 raised (R289). -/
def State.reply (s : State) (fn status value : Nat) : State := (s.freeMail fn).tell fn status value

/-- The partition that a function's command acts on (R269, R289, R290). -/
def State.fnPart (s : State) (fn : Nat) : Option Nat :=
  if fn = 0 then
    let p := (s.mail 0).part.toNat % 16
    if (s.part p).live then some p else none
  else
    (List.range 16).find? fun p =>
      (s.part p).live && decide (fn ≤ 128) && (s.part p).vfs.getLsbD (fn - 1)

/-- Bytes of host memory, as the device's own read (R289). DEDUCED, log 26. -/
def State.hostBytes (s : State) (a n : Nat) : List Byte := s.rdBytes (keyOf hostSpace a) n

/-- A field of `n` bytes at offset `o` of an object. -/
def fieldAt (l : List Byte) (o n : Nat) : Nat := leNat ((l.drop o).take n)

/-- The objects in host memory that a command reads: address and length. DEDUCED, log 26. -/
def State.objects (s : State) (i : Instr) : List (Nat × Nat) :=
  let at_ := fun (a : DWord) (o : Nat) => fieldAt (s.hostBytes a.toNat 128) o 8
  match i with
  | .installTerms _ _ a => [(a.toNat, 6144)]
  | .bindRegion _ _ _ a => [(a.toNat, 1152)]
  | .timeUpdate _ a => [(a.toNat, 2452)]
  | .queuePush _ _ a _ => [(a.toNat, 128)]
  | .loadImage _ a => [(a.toNat, max 0xf00 (at_ a 8))]
  | .partCreate _ a => [(a.toNat, 128), (at_ a 56, 1024), (at_ a 64, 5120)]
  | .partResize _ a => [(a.toNat, 128), (at_ a 56, 1024)]
  | .partStatus _ a | .partDestroy _ a => [(a.toNat, 128)]
  | _ => []

/-- A command that meets a busy tile goes on in the next cycle (R160, R289). DEDUCED, log 18. -/
def State.goesOn (s : State) (fn : Nat) (i : Instr) : State :=
  (s.setMail fn { s.mail fn with taken := true, waits := some i }).schedule 1 i

/-- The device takes up the command `i` that the doorbell of a function has started, one at a time (R289); until
bring-up has ended it answers BUSY (R313). DESIGN CHOICE, log 15; DEDUCED, log 18. -/
def State.command (s : State) (fn : Nat) (i : Instr) (f : State) : State :=
  let m := s.mail fn
  if m.door = false ∨ (m.taken = true ∧ m.waits ≠ some i) then s
  else if s.host.ready = false then s.reply fn stBusy 0
  else if (s.objects i).any fun o => s.spanBusy (keyOf hostSpace o.1) o.2 false then s.goesOn fn i
  else f

/-- A command that acts on the function's partition: BAD_FORMAT for a function without one.
DESIGN CHOICE, log 15. -/
def State.anyCommand (s : State) (fn : Nat) (i : Instr) (f : Nat → State) : State :=
  s.command fn i
    (match s.fnPart fn with
     | none => s.reply fn stBadFormat 0
     | some p => f p)

/-- A command of the physical function alone. -/
def State.physCommand (s : State) (fn : Nat) (i : Instr) (f : State) : State :=
  s.command fn i (if fn ≠ 0 then s.reply fn stBadFormat 0 else f)

/-- The checks of a command in order: the first that fails gives the status, else the effect. -/
def State.checked (s : State) (fn : Nat) : List (Bool × Nat) → State → State
  | [], ok => ok
  | (good, st) :: t, ok => if good then s.checked fn t ok else s.reply fn st 0

/-- R290. -/
def execMailboxBadCommand (fn : Nat) (s : State) : Out :=
  .next (s.command fn (.mailboxBadCommand fn) (s.reply fn stBadFormat 0))

def allZero (l : List Byte) : Bool := l.all fun b => decide (b = 0)

/-- Bytes of an object from `o` on, `n` of them, are zero. -/
def zeroAt (l : List Byte) (o n : Nat) : Bool := allZero ((l.drop o).take n)

def digestAt (l : List Byte) (o : Nat) : Digest := BitVec.ofNat 256 (fieldAt l o 32)

/-- A digest as its 32 bytes. -/
def digestBytes (d : Digest) : List Byte := leBytes 32 d.toNat

/-! ### Terms handles (R222 to R227) -/

/-- A terms record body (R222). -/
def termsBody (l : List Byte) : TermsBody :=
  { flags := fieldAt l 0x06 2
    owner := digestAt l 0x08
    tensor := digestAt l 0x28
    licensee := digestAt l 0x48
    dependsOn := digestAt l 0x88
    expiry := fieldAt l 0xa8 8
    maxUses := fieldAt l 0xb0 4
    charge := fieldAt l 0xb4 4
    span := fieldAt l 0xb8 8
    length := fieldAt l 0xc0 8
    digest := Config.sha3 (l.take 256) }

/-- Layout of the object (R222, R223). -/
def termsLayout (l : List Byte) : Bool :=
  let n := fieldAt l 0x100 4
  let len := fieldAt l 0xc0 8
  decide (fieldAt l 0 4 = 0x544e455a) && decide (fieldAt l 4 2 = 1) && decide (fieldAt l 6 2 < 2) &&
    (decide (fieldAt l 6 2 = 1) || zeroAt l 0x88 32) && zeroAt l 0xc8 56 &&
    decide (1 ≤ fieldAt l 0xb0 4) && decide (len ≠ 0 ∧ len % 4096 = 0) &&
    decide (1 ≤ n ∧ n ≤ 64) && zeroAt l 0x104 12 && zeroAt l (0x110 + 32 * n) (2048 - 32 * n) &&
    zeroAt l 0x17a4 92

/-- Owner digest, code-list digest, signature (R226). -/
def termsSigned (l : List Byte) : Bool :=
  let key := (l.drop 0x910).take 1312
  let n := fieldAt l 0x100 4
  decide (Config.sha3 key = digestAt l 0x08) &&
    decide (Config.sha3 ((l.drop 0x110).take (32 * n)) = digestAt l 0x68) &&
    Config.mldsaVerify key (l.take 256) ((l.drop 0xe30).take 2420)

/-- A handle as it is installed (R224, R226). -/
def installed (l : List Byte) : Handle :=
  { body := termsBody l
    codes := (List.range (fieldAt l 0x100 4)).map fun i => digestAt l (0x110 + 32 * i)
    region := none
    key := 0
    used := 0
    reserved := 0
    meter := 0
    lost := 0
    n := 0
    p := 0 }

/-- R226: INSTALL_TERMS. -/
def execInstallTerms (fn : Nat) (handle obj : DWord) (s : State) : Out :=
  .next (s.command fn (.installTerms fn handle obj)
    (let l := s.hostBytes obj.toNat 6144
     let h := handle.toNat
     s.checked fn
      [(decide (h ≤ 4095), stNoHandle), (decide (obj.toNat % 128 = 0) && termsLayout l, stBadFormat),
       (termsSigned l, stBadSignature), ((s.handle h).isNone, stBusy)]
      ((s.setHandle h (some (installed l))).reply fn stOk 0)))

/-- A range meets no sealed region of another handle (R226). -/
def State.regionFree (s : State) (p base n : Nat) : Bool :=
  s.terms.handles.all fun e =>
    match e.2 with
    | some h =>
      match h.region with
      | some (q, b) => decide (q ≠ p) || decide (base + n ≤ b) || decide (b + h.body.length ≤ base)
      | none => true
    | none => true

/-- The plaintext of a tensor under its content key, line by line (R227). -/
def openTensor (key : BitVec 256) (l : List Byte) : List Byte :=
  (List.range (l.length / 128)).flatMap fun i =>
    Config.xtsOpen key (128 * i) ((l.drop (128 * i)).take 128)

/-- A capsule opens with the partition's present key-release key, if it was built for that one (R307).
DESIGN CHOICE, log 98. -/
def State.openCapsule (s : State) (p : Nat) (capsule : List Byte) : Option (BitVec 256) :=
  if Config.capsuleKey capsule = (s.part p).releaseKey then Config.openCapsule (s.part p).releaseKey capsule else none

/-- Every tile that shares a line of a range gives it up, a DIRTY one with a write-back, before the range is sealed.
DESIGN CHOICE, log 106. -/
def State.clearTiles (s : State) (k n : Nat) : State := (linesOf k n).foldl (fun s l => s.recall l none) s

/-- R226, R227, R228: BIND_REGION. A capsule that is not aligned as R227 has it does not open. DESIGN CHOICE, log
106. -/
def execBindRegion (fn : Nat) (handle base capsule : DWord) (s : State) : Out :=
  .next (s.command fn (.bindRegion fn handle base capsule)
    (let h := handle.toNat
     let b := base.toNat
     match s.handle h with
     | none => s.reply fn stNoHandle 0
     | some x =>
       let n := x.body.length
       match x.region, s.fnPart fn with
       | some _, _ => s.reply fn stBusy 0
       | none, none => s.reply fn stBadFormat 0
       | none, some p =>
         s.checked fn
           [(decide (b % 4096 = 0 ∧ b + n ≤ (s.part p).ownedFrom), stBadFormat),
            (s.regionFree p b n, stBusy), (decide (capsule.toNat % 128 = 0), stBadCapsule)]
           (match s.openCapsule p (s.hostBytes capsule.toNat 1152) with
            | none => s.reply fn stBadCapsule 0
            | some key =>
              if s.spanBusy (keyOf p b) n true then s.goesOn fn (.bindRegion fn handle base capsule)
              else if Config.sha3 (openTensor key (s.rdBytes (keyOf p b) n)) ≠ x.body.tensor then
                s.reply fn stBadContent 0
              else
                ((s.clearTiles (keyOf p b) n).setHandle h (some
                  { x with region := some (p, b), key := key })).reply fn stOk 0)))

/-- The 256 bytes of a statement body (R236). -/
def State.statementBody (s : State) (h : Nat) (x : Handle) (serial : Nat) : List Byte :=
  leBytes 4 0x5453455a ++ leBytes 2 1 ++ leBytes 2 0 ++ leBytes 8 serial ++
    digestBytes Config.deviceDigest ++ digestBytes x.body.digest ++ leBytes 8 s.tclockWord.toNat ++
    leBytes 4 h ++ leBytes 4 0 ++ leBytes 8 x.used ++ leBytes 8 x.lost ++ leBytes 8 x.reserved ++
    leBytes 8 x.meter ++ leBytes 128 0

/-- Bytes of a statement with its signature (R236). -/
def statementLen : Nat := 2676

/-- Make the next statement of a handle, write P := used, and write the statement to host memory. Whether the host
refuses the write is open; then the reply is BAD_FORMAT with the serial (R226, R235, R236). `f` is what happens to the
handle. DESIGN CHOICE, log 4, 9, 63. -/
def State.makeStatement (s : State) (fn h : Nat) (x : Handle) (dest : DWord)
    (f : Handle → Option Handle) : State :=
  let serial := s.terms.stSerial + 1
  let body := s.statementBody h x serial
  let s1 : State := { s with terms := { s.terms with stSerial := serial } }
  let s2 := s1.setHandle h (f { x with p := x.used })
  let d := s2.drawBit
  if d.1 = true ∨ s.host.link = .down then d.2.reply fn stBadFormat serial
  else
    (d.2.wrBytes (keyOf hostSpace dest.toNat) (body ++ Config.mldsaSign body)).reply fn stOk serial

/-- A use of a handle is outstanding (R226). -/
def State.outstandingUse (s : State) (h : Nat) (x : Handle) : Bool :=
  decide (x.reserved ≠ 0) || s.terms.resv.any fun r => decide (r.handle = h ∧ r.committed = true)

/-- A virtual function acts on its own partition only: not on a handle whose region lies in another (R290).
DESIGN CHOICE, log 15. -/
def State.ownsRegion (s : State) (fn : Nat) (x : Handle) : Bool :=
  decide (fn = 0) ||
    match x.region with
    | none => true
    | some (q, _) => decide (s.fnPart fn = some q)

/-- The raises of N that are being written for a handle are called off; the opens that waited for them are answered
(R226, R231, R235). -/
def State.dropRaises (s : State) (h : Nat) : State :=
  let s1 : State := { s with terms := { s.terms with nv := s.terms.nv.filter fun w => decide (w.handle ≠ h) } }
  if s.terms.nv.any fun w => decide (w.handle = h) then s1.wakeOpens h else s1

/-- R226: REMOVE_TERMS. -/
def execRemoveTerms (fn : Nat) (handle dest : DWord) (s : State) : Out :=
  .next (s.command fn (.removeTerms fn handle dest)
    (let h := handle.toNat
     match s.handle h with
     | none => s.reply fn stNoHandle 0
     | some x =>
       s.checked fn
         [(decide (dest.toNat % 128 = 0) && s.ownsRegion fn x, stBadFormat), (!s.outstandingUse h x, stBusy)]
         (if s.spanBusy (keyOf hostSpace dest.toNat) statementLen true then s.goesOn fn (.removeTerms fn handle dest)
          else (s.dropRaises h).makeStatement fn h x dest fun _ => none)))

/-- R226, R236: STATEMENT. -/
def execStatement (fn : Nat) (handle dest : DWord) (s : State) : Out :=
  .next (s.command fn (.statement fn handle dest)
    (let h := handle.toNat
     match s.handle h with
     | none => s.reply fn stNoHandle 0
     | some x =>
       s.checked fn [(decide (dest.toNat % 128 = 0), stBadFormat)]
         (if s.spanBusy (keyOf hostSpace dest.toNat) statementLen true then s.goesOn fn (.statement fn handle dest)
          else s.makeStatement fn h x dest some)))

/-- R229: TIME_UPDATE. Bit 63 of the new value is dropped before the value is compared, and a signed body whose magic
or whose zero word is wrong does not verify. DESIGN CHOICE, log 104. -/
def execTimeUpdate (fn : Nat) (addr : DWord) (s : State) : Out :=
  .next (s.physCommand fn (.timeUpdate fn addr)
    (let l := s.hostBytes addr.toNat 2452
     let v := fieldAt l 8 8 % 2 ^ 63
     s.checked fn
       [(decide (fieldAt l 0 4 = 0x454d4954) && zeroAt l 4 4 &&
          Config.mldsaVerify Config.timeKey (l.take 32) ((l.drop 32).take 2420), stBadSignature),
        (decide (s.tclock ≤ v), stStaleTime)]
       (State.reply { s with terms := { s.terms with
          clockBase := v, clockAt := s.cycle, synced := true, clockSaved := v } } fn stOk 0)))

/-! ### Ports (R259, R262) -/

/-- A context that has been dispatched and has not ended is bound to a partition port (R262). -/
def State.portBound (s : State) (p port : Nat) : Bool :=
  let names := fun (x : Ctx) =>
    (List.range x.portN).any fun i => decide (Store.get 255 x.ports i = port)
  (s.ctxs.any fun e => e.2.occupied && decide (e.2.part = p) && names e.2) ||
    (s.part p).saved.any fun v => names v.ctx

def isPow2 (n : Nat) : Bool := (List.range 17).any fun i => decide (n = 2 ^ i)

/-- Storage that R259 admits: whole, in partition memory, below the device-owned top. -/
def Part.storageOk (P : Part) (base lines : Nat) : Bool :=
  decide (base % 4096 = 0) && isPow2 lines && decide (base + 144 * lines ≤ P.ownedFrom)

/-- R262: PORT_SET. -/
def execPortSet (fn : Nat) (port kind base lines : DWord) (s : State) : Out :=
  .next (s.anyCommand fn (.portSet fn port kind base lines) fun p =>
    let n := port.toNat
    let queue := decide (kind = 1)
    s.checked fn
      [(decide (n ≤ 63) && decide (kind.toNat ≤ 1) &&
          (!queue || (s.part p).storageOk base.toNat lines.toNat), stBadFormat),
       ((s.part p).counts.all (fun e => !(decide (e.port.toNat = n) && decide (0 < e.n))) &&
          !s.portBound p n, stBusy)]
      (((s.clustersIn p).foldl (fun s k => s.updCluster k fun c =>
          { c with ann := Store.set none c.ann n none })
        (s.updPart p fun P =>
          { P.setPort (BitVec.ofNat 6 n)
              (if queue then ⟨true, base.toNat, lines.toNat, 0, []⟩ else Port.progress) with
            sums := P.sums.filter fun x => decide (x.src ≠ n ∧ x.dst ≠ n)
            ann := Store.set none P.ann n none
            applied := Store.set none P.applied n none })).reply fn stOk 0))

/-- R262: PORT_DECLARE. -/
def execPortDeclare (fn : Nat) (port : DWord) (time : LTime) (n : DWord) (s : State) : Out :=
  .next (s.anyCommand fn (.portDeclare fn port time n) fun p =>
    s.checked fn [(decide (port.toNat ≤ 63), stBadFormat)]
      ((s.increment p (BitVec.ofNat 6 port.toNat) time n.toNat).reply fn stOk 0))

/-- R262: QUEUE_PUSH. The line stands in host memory. DEDUCED, log 26. -/
def execQueuePush (fn : Nat) (port line : DWord) (time : LTime) (s : State) : Out :=
  .next (s.anyCommand fn (.queuePush fn port line time) fun p =>
    let x := (s.part p).port (BitVec.ofNat 6 port.toNat)
    s.checked fn
      [(decide (port.toNat ≤ 63) && x.queue, stBadFormat), (decide (x.count < x.cap), stBusy)]
      (if s.queueBusy p x x.tail true then s.goesOn fn (.queuePush fn port line time)
       else (s.append p (reqOfFn p fn) (BitVec.ofNat 6 port.toNat) (s.hostBytes line.toNat 128) time).reply fn stOk 0))

/-- A context is blocked on a bundle that holds AWAITF or DEQ (R262). -/
def Ctx.waitsOnFrontier (x : Ctx) : Bool :=
  x.blocked && x.iss.slots.any fun i =>
    match i.2 with
    | .awaitf _ _ => true
    | .deq _ _ => true
    | _ => false

/-- R262: FRONTIER_RESET. -/
def execFrontierReset (fn : Nat) (s : State) : Out :=
  .next (s.anyCommand fn (.frontierReset fn) fun p =>
    let mine := (s.ctxs.map Prod.snd).filter fun x => x.occupied && decide (x.part = p)
    let saved := (s.part p).saved.map Saved.ctx
    s.checked fn
      [(mine.all (fun x => x.caps.isEmpty && !x.waitsOnFrontier) &&
          saved.all (fun x => x.caps.isEmpty), stBusy)]
      (((s.clustersIn p).foldl (fun s k => s.updCluster k fun c =>
          { c with batch := [], ann := [] })
        (s.updPart p fun P =>
          { P with
            counts := []
            closed := none
            ahead := []
            pendingAnn := false
            changed := false
            sums := []
            ann := []
            applied := []
            underflow := none
            ports := P.ports.map fun e => (e.1, { e.2 with head := 0, times := [] }) })).reply
        fn stOk 0))

/-! ### Bulk engines and sessions (R293, R295) -/

/-- Engines that partitions hold. -/
def State.leased (s : State) (but : Nat) : Nat :=
  s.parts.foldl (fun n e => if e.1 = but then n else n + e.2.lease) 0

/-- R295: ENGINE_LEASE. -/
def execEngineLease (fn : Nat) (engines ms : DWord) (s : State) : Out :=
  .next (s.physCommand fn (.engineLease fn engines ms)
    (match s.fnPart fn with
     | none => s.reply fn stBadFormat 0
     | some p =>
       s.checked fn
         [(decide (1 ≤ ms.toNat ∧ ms.toNat ≤ 60000), stBadFormat),
          (decide (engines.toNat + s.leased p ≤ 32), stNoResource)]
         (((s.updPart p fun P =>
            { P with
              lease := engines.toNat
              leaseEnd := s.cycle + ms.toNat * 1000 * usCycles }).schedule
            (ms.toNat * 1000 * usCycles) (.engineLeaseExpiry p)).reply fn stOk 0)))

/-- R295: a lease ends; collectives in flight run on. -/
def execEngineLeaseExpiry (part : Nat) (s : State) : Out :=
  .next (if (s.part part).leaseEnd ≤ s.cycle then s.updPart part fun P => { P with lease := 0 } else s)

/-- R290, R293: ATTACH. A first one sets the function's token, a later one has to match it. Success thaws what a
host restart had frozen for the partition that owns the function, and for no other. DEDUCED, log 65. -/
def execAttach (fn : Nat) (token : BitVec 128) (s : State) : Out :=
  .next (s.command fn (.attach fn token)
    (let s1 : State := { s with host := { s.host with
       token := Store.set none s.host.token fn (some token) } }
     let go :=
       match s.fnPart fn with
       | some p => s1.updPart p fun P => { P with gone := false }
       | none => s1
     match Store.get none s.host.token fn with
     | none => go.reply fn stOk 0
     | some t => if t = token then go.reply fn stOk 0 else s.reply fn stBadSession 0))

end Sys2Proof.Machine
end

