-- ==== Sys2Proof/Machine/Collective.lean ====
section
/-!
DEFINITION. Collectives (R294 to R299): the descriptor, the group, the result, and every way a collective
ends. The members are the COLLs of this device and those that peer devices send.
-/
namespace Sys2Proof.Machine

open Sys2Proof

/-! ### The descriptor (R296) -/

/-- The fields of a collective descriptor. -/
structure CollDesc where
  src : DWord
  dst : DWord
  count : Nat
  op : Nat
  ty : Nat
  redop : Nat
  group : Nat
  rank : Nat
  n : Nat
  root : Nat
  timeout : Nat
  deriving DecidableEq, Repr

/-- The descriptor in 64 bytes. -/
def collDesc (d : BitVec 512) : CollDesc :=
  { src := d.extractLsb' 0 64
    dst := d.extractLsb' 64 64
    count := (d.extractLsb' 128 32).toNat
    op := (d.extractLsb' 160 8).toNat
    ty := (d.extractLsb' 168 4).toNat
    redop := (d.extractLsb' 172 4).toNat
    group := (d.extractLsb' 176 16).toNat
    rank := (d.extractLsb' 192 8).toNat
    n := (d.extractLsb' 200 8).toNat
    root := (d.extractLsb' 208 8).toNat
    timeout := (d.extractLsb' 224 32).toNat }

/-- Cycles of the timeout; 0 stands for 10,000 microseconds. -/
def CollDesc.cycles (d : CollDesc) : Nat := (if d.timeout = 0 then 10000 else d.timeout) * usCycles

/-- Bytes of an element. -/
def CollDesc.size (d : CollDesc) : Nat := if d.ty = 6 then 2 else 4

/-- What a descriptor must keep by itself (R296, R297). DESIGN CHOICE, log 30, 69. -/
def CollDesc.good (d : CollDesc) : Bool :=
  decide (d.op ≤ 3) && decide (d.ty ∈ [0, 5, 6]) && decide (d.redop ≤ 2) &&
    decide (1 ≤ d.count ∧ d.count ≤ 2 ^ 31) && decide (d.src.toNat % 128 = 0 ∧ d.dst.toNat % 128 = 0) &&
    decide (2 ≤ d.n ∧ d.n ≤ 255) && decide (d.rank < d.n) && (decide (d.op ≠ 3) || decide (d.root < d.n)) &&
    (decide (d.op ≠ 1) || decide (d.count % d.n = 0))

/-- Two members of a group agree, and have different ranks. DESIGN CHOICE, log 69. -/
def CollDesc.agrees (d e : CollDesc) : Bool :=
  decide (d.op = e.op ∧ d.ty = e.ty ∧ d.redop = e.redop ∧ d.count = e.count ∧ d.n = e.n ∧
    d.root = e.root ∧ d.rank ≠ e.rank)

def CollMember.d (m : CollMember) : CollDesc := collDesc m.descBits

/-! ### How a member ends -/

/-- The record of a saved context, by the number that its commands carry (R167). -/
def State.savedAs (s : State) (c p : Nat) : Option Saved :=
  if c < 2048 then none else (s.part p).saved.find? fun v => decide (v.ctx.identity = c / 2048)

/-- The mark of R104 on a token of a context that runs on this device or is saved; it is delivered into the area of
a saved one (R276). -/
def State.markToken (s : State) (c p tok : Nat) : State :=
  let set := fun (x : Ctx) =>
    if tok < 31 then { x with linkFail := x.linkFail ||| (1 : BitVec 31) <<< tok } else x
  if c < 2048 then s.updCtx c set
  else
    let s1 := s.updPart p fun P => { P with saved := P.saved.map fun v =>
      if v.ctx.identity = c / 2048 then { v with ctx := set v.ctx } else v }
    match s.savedAs c p with
    | some v =>
      if tok < 31 then
        s1.areaWrite p (reqOfCtx p c) v.area 0x0094
          (leBytes 4 (leNat (s.areaRead p v.area 0x0094 4) ||| 2 ^ tok))
      else s1
    | none => s1

/-- The cluster whose context has issued a member of this device (R158). -/
def CollMember.cluster (m : CollMember) : Option Nat :=
  if m.peer.isSome then none else some (clusterOf (m.ctx % 2048))

/-- The status byte of a descriptor is written, unless the member has been killed (R234, R296). -/
def State.collStatus (s : State) (m : CollMember) (status : Nat) : State :=
  if m.killed then s
  else
    s.bulkWrite m.part (reqOfCtx m.part m.ctx) (m.desc + 32) [BitVec.ofNat 8 status] false m.cluster

/-- What the end of a member writes lies in a line that a busy tile keeps (R160). -/
def State.endBusy (s : State) (m : CollMember) : Bool :=
  !m.killed && (s.runBusy m.part (m.desc + 32) 1 true m.cluster ||
    (s.savedAs m.ctx m.part).any fun v => s.areaBusy m.part v.area 0x0094 4 true)

/-- A member ends with a status, once the lines that this takes are free; status 1 leaves the LINK_FAILED mark on its
token (R104, R296, R298), or, with a failure of its own, the mark of that on its command (R168, R299).
DESIGN CHOICE, log 69. -/
def State.endColl (s : State) (e : CollEnd) : State :=
  let m := e.member
  if s.endBusy m then { s with host := { s.host with collEnds := s.host.collEnds ++ [e] } }
  else
    let s1 := s.collStatus m e.status
    match e.fail, s.cmd m.core m.cmd with
    | some f, _ => s1.failCmd m.core m.cmd f.1 f.2
    | none, none => s1
    | none, some q =>
      let s2 := s1.endCmd m.core m.cmd
      if e.status = 1 ∧ m.killed = false then s2.markToken m.ctx m.part q.tok.toNat else s2

/-- A member ends with a status (R296, R298). -/
def State.endMember (s : State) (m : CollMember) (status : Nat) : State := s.endColl ⟨m, status, none⟩

/-- A member whose own access fails ends as the others do (R298); where the access meets host memory that is out of
reach, its command fails with HOST_GONE instead of the mark (R168, R299). DESIGN CHOICE, log 69. -/
def State.failMember (s : State) (m : CollMember) (f : FailKind × DWord) : State :=
  s.endColl ⟨m, 1, if m.killed = false ∧ f.1 = .hostGone then some f else none⟩

/-- Ends of members that have had to wait are tried again. -/
def State.collsEnd (s : State) : State :=
  s.host.collEnds.foldl State.endColl { s with host := { s.host with collEnds := [] } }

def State.collGroup (s : State) (g : Nat) : Option CollGroup :=
  s.host.colls.find? fun x => decide (x.id = g)

/-- Put a group in place of the one with its number, or take that one away. -/
def State.setGroup (s : State) (g : Nat) (x : Option CollGroup) : State :=
  { s with host := { s.host with
      colls := (s.host.colls.filter fun y => decide (y.id ≠ g)) ++ x.toList } }

/-- Every member of a group ends with status 1 and nothing is written (R298). -/
def State.failGroup (s : State) (g : CollGroup) : State :=
  g.members.foldl (fun s m => s.endMember m 1) (s.setGroup g.id none)

/-! ### Links (R294) -/

def State.linkPort (s : State) (p : Nat) : LinkPort := Store.get LinkPort.reset s.host.ports p

/-- No port is enabled before the end of bring-up (R313). -/
def State.portUp (s : State) (p : Nat) : Bool := s.host.ready && !(s.linkPort p).down

/-- The port that carries a plane: its own, or the spare that stands in for it. -/
def State.carrier (s : State) (plane : Nat) : Option Nat :=
  if s.portUp plane then some plane
  else (s.host.spares.find? fun x => decide (x.2 = plane) && s.portUp x.1).map Prod.fst

/-- The ports of the planes that are up at this device, but for those that are lost elsewhere, in the order of the
planes. -/
def State.carriers (s : State) (lost : List Nat) : List Nat :=
  ((List.range 16).filter fun p => decide (p ∉ lost)).filterMap s.carrier

/-- The ports that a collective's chunks of 4 KiB travel on: those of the planes that are up at every member.
DESIGN CHOICE, log 66. -/
def State.portsOf (s : State) (d : CollDesc) (lost : List Nat) : List Nat :=
  (s.carriers lost).take ((d.count * d.size + 4095) / 4096)

/-! ### Arrival (R295, R296, R299) -/

/-- How many members are to come in all under the number of a spoilt group: its own, and those of every other group
that shares the number (R299). Members that name one size and one rank belong to different groups; one whose size or
rank is none counts for no group of its own. DESIGN CHOICE, log 69. -/
def expectedMembers (l : List (Nat × Nat)) : Nat :=
  let sized := l.filter fun x => decide (2 ≤ x.1 ∧ x.2 < x.1)
  ((sized.map Prod.fst).eraseDups.map fun n =>
    n * (List.range n).foldl (fun k r => max k (sized.count (n, r))) 0).sum

/-- A descriptor breaks the rules: every member of the group ends with status 3, and so will those that are still to
come, up to the latest timeout among them (R296, R299). DESIGN CHOICE, log 69. -/
def State.spoil (s : State) (g : CollGroup) (m : CollMember) : State :=
  let came := g.came ++ (g.members ++ [m]).map fun x => (x.d.n, x.d.rank)
  let n := expectedMembers came
  let g1 : CollGroup :=
    { g with members := [], spoilt := true, came := came, due := max g.due (s.cycle + m.d.cycles) }
  let s1 := (s.setGroup g.id (if 0 < n ∧ n ≤ came.length then none else some g1)).schedule m.d.cycles
    (.collectiveTimeout g.id)
  (g.members ++ [m]).foldl (fun s x => s.endMember x 3) s1

/-- A member with a readable descriptor arrives at its group. DESIGN CHOICE, log 69, 70. -/
def State.joinGroup (s : State) (m : CollMember) : State :=
  let d := m.d
  match s.collGroup d.group with
  | none =>
    let g : CollGroup :=
      { id := d.group, members := [], due := s.cycle + d.cycles, ports := s.portsOf d m.lost, spoilt := false
        came := [] }
    if d.good then
      (s.schedule d.cycles (.collectiveTimeout d.group)).setGroup d.group (some { g with members := [m] })
    else s.spoil g m
  | some g =>
    let twice := g.members.any fun x => decide (x.d.rank = d.rank)
    if g.spoilt = true ∨ d.good = false ∨ twice = true ∨
        (g.members.all fun x => x.d.agrees d) = false then s.spoil g m
    else
      let l := g.members ++ [m]
      let s1 := s.setGroup g.id (some
        { g with members := l, ports := s.portsOf d (l.flatMap CollMember.lost) })
      if l.length = d.n then s1.after 0 (.collectiveComplete g.id) else s1

/-- A member that a peer device sends: no command and no memory of this device stands behind it.
DESIGN CHOICE, log 70. -/
def PeerColl.member (x : PeerColl) : CollMember :=
  { core := 512, cmd := 0, ctx := 0, part := 16, desc := 0, descBits := x.descBits, killed := true, peer := some x.data
    lost := x.lost }

/-- The members that peers have sent by now arrive (R294, R296). DESIGN CHOICE, log 70. -/
def State.peersArrive (s : State) : State :=
  let due := fun (x : PeerColl) => decide (x.at_ ≤ s.cycle)
  (s.host.peers.filter due).foldl (fun s x => s.joinGroup x.member)
    { s with host := { s.host with peers := s.host.peers.filter fun x => !due x } }

/-- R295, R296: a bulk engine takes up a COLL and reads its descriptor, once no busy tile keeps its line (R160). -/
def execCollDescriptorRead (core id : Nat) (s : State) : Out :=
  .next
    (match s.cmd core id with
     | none => s
     | some q =>
       match q.kind with
       | .coll desc =>
         if q.started = false ∨ q.failed.isSome = true then s
         else if s.runBusy q.part desc 64 false (some q.cluster) then s.schedule 1 (.collDescriptorRead core id)
         else
           match s.runFail q.part desc 64 false (some q.cluster) with
           | some (f, a) => s.failCmd core id f a
           | none =>
             let m : CollMember :=
               { core := core, cmd := id, ctx := q.ctx, part := q.part, desc := desc,
                 descBits := BitVec.ofNat 512 (leNat (s.bulkRead q.part desc 64 (some q.cluster))),
                 killed := q.killed, peer := none, lost := [] }
             let s1 := s.logRun q.part (reqOfCtx q.part q.ctx) desc 64 false (some q.cluster)
             if (s.part q.part).lease = 0 then s1.endMember m 2 else s1.joinGroup m
       | _ => s)

/-! ### The result (R297) -/

/-- One combination of two values. -/
def CollDesc.combine (d : CollDesc) (x y : Nat) : Nat :=
  let flt := fun (t : FTy) =>
    match d.redop with
    | 0 => t.round .rne false (Ext.add .rne (t.decode x) (t.decode y))
    | 1 => t.min x y
    | _ => t.max x y
  match d.ty with
  | 5 => flt .fp32
  | 6 => flt .bf16
  | _ =>
    match d.redop with
    | 0 => (x + y) % 2 ^ 32
    | 1 => if sval 32 x < sval 32 y then x else y
    | _ => if sval 32 x < sval 32 y then y else x

/-- Put a value at a place that free choices from number `n` on give. DEDUCED, log 71. -/
def insertFree {α : Type} (n : Nat) (x : α) : List α → List α
  | [] => [x]
  | y :: t => if Config.freeBit n then x :: y :: t else y :: insertFree (n + 1) x t

/-- The order in which a plane receives the members' values: any order at all (R76, R294). DEDUCED, log 71. -/
def receiveOrder {α : Type} : Nat → List α → List α
  | _, [] => []
  | n, x :: t => insertFree n x (receiveOrder (n + 256) t)

/-- red over the values that a plane receives. -/
def CollDesc.red (d : CollDesc) : List Nat → Nat
  | [] => 0
  | x :: t => t.foldl d.combine x

/-- Element `i` of a source. -/
def CollDesc.elem (d : CollDesc) (src : List Byte) (i : Nat) : Nat :=
  leNat ((src.drop (d.size * i)).take d.size)

/-- red of element `i` over every member's source; each chunk has its own order. DEDUCED, log 71. -/
def CollDesc.redAt (d : CollDesc) (free : Nat) (srcs : List (List Byte)) (i : Nat) : Nat :=
  d.red (receiveOrder (free + 65536 * (i * d.size / 4096)) (srcs.map fun l => d.elem l i))

/-- The sources in rank order; a peer's is what it sent. -/
def State.sources (s : State) (g : CollGroup) (d : CollDesc) : List (List Byte) :=
  (List.range d.n).map fun r =>
    match g.members.find? fun m => decide (m.d.rank = r) with
    | some m => m.peer.getD (s.bulkRead m.part m.d.src (d.count * d.size) m.cluster)
    | none => []

/-- The poisoned lines of a source, by their place in it, in rank order (R312). -/
def State.sourcesBad (s : State) (g : CollGroup) (d : CollDesc) : List (List Nat) :=
  (List.range d.n).map fun r =>
    match g.members.find? fun m => decide (m.d.rank = r) with
    | some m =>
      if m.peer.isSome then []
      else
        (List.range ((d.count * d.size + 127) / 128)).filter fun j =>
          s.runPoison m.part (m.d.src + BitVec.ofNat 64 (128 * j)) 1 m.cluster
    | none => []

/-- Bytes of the destination of the member of rank `m` (R297). -/
def CollDesc.result (d : CollDesc) (free : Nat) (srcs : List (List Byte)) (m : Nat) : List Byte :=
  match d.op with
  | 0 => (List.range d.count).flatMap fun i => leBytes d.size (d.redAt free srcs i)
  | 1 =>
    let c := d.count / d.n
    (List.range c).flatMap fun i => leBytes d.size (d.redAt free srcs (m * c + i))
  | 2 => srcs.flatten
  | _ => srcs.getD d.root []

/-- Bytes of a destination. -/
def CollDesc.dstBytes (d : CollDesc) : Nat :=
  match d.op with
  | 1 => d.count / d.n * d.size
  | 2 => d.count * d.n * d.size
  | _ => d.count * d.size

/-- Byte `i` of the destination of the member of rank `m` comes from a poisoned line (R297, R312). -/
def CollDesc.badByte (d : CollDesc) (bads : List (List Nat)) (m i : Nat) : Bool :=
  let hit := fun (r o : Nat) => decide (o / 128 ∈ bads.getD r [])
  match d.op with
  | 0 => (List.range d.n).any fun r => hit r i
  | 1 => (List.range d.n).any fun r => hit r (d.count / d.n * d.size * m + i)
  | 2 => hit (i / (d.count * d.size)) (i % (d.count * d.size))
  | _ => hit d.root i

/-- Why a member's own accesses fail, if they do. -/
def State.memberFailure (s : State) (m : CollMember) : Option (FailKind × DWord) :=
  let d := m.d
  match (if m.peer.isSome = true ∨ d.op = 3 ∧ d.rank ≠ d.root then none
      else s.runFail m.part d.src (d.count * d.size) false m.cluster) with
  | some f => some f
  | none => if m.killed then none else s.runFail m.part d.dst d.dstBytes true m.cluster

/-- A busy tile keeps a line that a member's accesses take (R160, R197, R199). -/
def State.memberBusy (s : State) (m : CollMember) : Bool :=
  let d := m.d
  m.peer.isNone && (s.runBusy m.part d.src (d.count * d.size) false m.cluster ||
    !m.killed && s.runBusy m.part d.dst d.dstBytes true m.cluster)

/-- A member of this device receives its result, line by line, with poison where a line that went into it held any
(R312). DEDUCED, log 71. -/
def State.deliver (s : State) (m : CollMember) (bads : List (List Nat)) (out : List Byte) : State :=
  let who := reqOfCtx m.part m.ctx
  if m.peer.isSome then s
  else
    let s1 := s.logRun m.part who m.d.src (m.d.count * m.d.size) false m.cluster
    let put := fun (s : State) (j : Nat) =>
      s.bulkWrite m.part who (m.d.dst + BitVec.ofNat 64 (128 * j)) ((out.drop (128 * j)).take 128)
        ((List.range 128).any fun i => m.d.badByte bads m.d.rank (128 * j + i)) m.cluster
    (if m.killed then s1 else (List.range ((out.length + 127) / 128)).foldl put s1).endMember m 0

/-- R297, R298: every member has arrived; once no busy tile keeps a line that they take (R160), the results are
written, or, where a member fails, none is. DESIGN CHOICE, log 69, 70. -/
def execCollectiveComplete (group : Nat) (s : State) : Out :=
  .next
    (match s.collGroup group with
     | none => s
     | some g =>
       match g.members with
       | [] => s
       | m0 :: _ =>
         let d := m0.d
         if g.members.length ≠ d.n ∨ g.ports = [] then s
         else if (g.members.any fun m => (s.memberFailure m).isSome) = true then
           g.members.foldl (fun (t : State) m =>
             match s.memberFailure m with
             | some f => t.failMember m f
             | none => t.endMember m 1) (s.setGroup group none)
         else if g.members.any s.memberBusy then s.schedule 1 (.collectiveComplete group)
         else
           let srcs := s.sources g d
           let bads := s.sourcesBad g d
           let s1 : State := { s.setGroup group none with
             freeCtr := s.freeCtr + 65536 * (d.count * d.size / 4096 + 1) }
           g.members.foldl (fun t m => t.deliver m bads (d.result s.freeCtr srcs m.d.rank)) s1)

/-- R298: the timeout runs out; nothing is written. DESIGN CHOICE, log 70. -/
def execCollectiveTimeout (group : Nat) (s : State) : Out :=
  .next
    (match s.collGroup group with
     | none => s
     | some g => if s.cycle < g.due then s else s.failGroup g)

end Sys2Proof.Machine
end

