-- ==== Sys2Proof/Machine/Loader.lean ====
section
/-!
DEFINITION. The image loader (R15, R21, R30, R67, R78, R83, R84, R86, R87, R102, R213 to R215, R303).
-/
namespace Sys2Proof.Machine

open Sys2Proof

/-! ### The header (R213, R214) -/

/-- An image as the loader reads it: the bytes of its first 0xf00, and its tables. -/
structure RawImage where
  base : Nat
  hdr : List Byte
  length : Nat
  textOff : Nat
  textLen : Nat
  mapOff : Nat
  dataOff : Nat
  dataLen : Nat
  safeOff : Nat
  safeN : Nat
  sumN : Nat
  sumOff : Nat
  kerOff : Nat
  kerN : Nat
  dataBase : Nat
  deriving DecidableEq, Repr

/-- DEDUCED, log 26. -/
def State.rawImage (s : State) (a : Nat) : RawImage :=
  let h := s.hostBytes a 0xf00
  { base := a, hdr := h, length := fieldAt h 8 8, textOff := fieldAt h 0x10 4,
    textLen := fieldAt h 0x14 4, mapOff := fieldAt h 0x18 4, dataOff := fieldAt h 0x1c 4,
    dataLen := fieldAt h 0x20 4, safeOff := fieldAt h 0x24 4, safeN := fieldAt h 0x28 2,
    sumN := fieldAt h 0x2a 2, sumOff := fieldAt h 0x2c 4, kerOff := fieldAt h 0x30 4,
    kerN := fieldAt h 0x34 2, dataBase := fieldAt h 0x40 8 }

def RawImage.words (g : RawImage) : Nat := g.textLen / 4
def RawImage.mapLen (g : RawImage) : Nat := (g.words + 7) / 8

/-- Every section: offset and length. -/
def RawImage.sections (g : RawImage) : List (Nat × Nat) :=
  [(g.textOff, g.textLen), (g.mapOff, g.mapLen), (g.dataOff, g.dataLen), (g.safeOff, 32 * g.safeN),
   (g.sumOff, 8 * g.sumN), (g.kerOff, 64 * g.kerN)]

/-- No two ranges of a list meet. -/
def apart : List (Nat × Nat) → Bool
  | [] => true
  | a :: t =>
    (t.all fun b =>
      decide (a.2 = 0) || decide (b.2 = 0) || decide (a.1 + a.2 ≤ b.1) || decide (b.1 + b.2 ≤ a.1)) &&
      apart t

/-- Bytes of the image from an offset. -/
def State.imgBytes (s : State) (g : RawImage) (o n : Nat) : List Byte := s.hostBytes (g.base + o) n

/-- The start bits (R21): words at which a bundle starts, in ascending order. -/
def State.startWords (s : State) (g : RawImage) : List Nat :=
  let m := s.imgBytes g g.mapOff g.mapLen
  (List.range g.words).filter fun n => (m.getD (n / 8) 0).getLsbD (n % 8)

/-- A kernel entry (R214). -/
def kernelOf (l : List Byte) : Kernel :=
  { entry := fieldAt l 0 4, accs := fieldAt l 4 1, ubs := fieldAt l 5 1, unitsX := fieldAt l 6 2,
    unitsY := fieldAt l 8 2, ports := fieldAt l 10 1, quota := fieldAt l 16 8,
    saveSize := fieldAt l 24 8 }

/-- ASCII, zero-padded. -/
def nameOk (l : List Byte) : Bool :=
  let t := l.dropWhile fun b => decide (b ≠ 0)
  (l.all fun b => decide (b.toNat < 128)) && allZero t

/-- Limits of a kernel entry (R214). -/
def kernelOk (starts : List Nat) (l : List Byte) : Bool :=
  let k := kernelOf l
  decide (k.entry % 4 = 0) && decide (k.entry / 4 ∈ starts) && decide (k.accs ≤ 8) &&
    decide (k.ubs ≤ 8) && decide (k.unitsX ≤ 256) && decide (k.unitsY ≤ 256) &&
    decide (k.ports ≤ 32) && zeroAt l 11 5 && decide (k.quota % 128 = 0) && nameOk (l.drop 32)

/-- A path-summary entry (R214). -/
def summaryOf (l : List Byte) : Summary :=
  ⟨fieldAt l 0 1, fieldAt l 1 1, fieldAt l 2 1, fieldAt l 3 1, fieldAt l 4 4⟩

def summaryOk (x : Summary) : Bool :=
  decide (x.kind ≤ 3) && decide (x.d ≤ 5) &&
    (decide (x.kind ≠ 3) || decide (x.d = 0) || decide (x.c ≤ 65535))

/-- The entries of a table. -/
def State.table (s : State) (g : RawImage) (o size n : Nat) : List (List Byte) :=
  (List.range n).map fun i => s.imgBytes g (o + size * i) size

/-- Check 1 of R215. -/
def State.formatOk (s : State) (g : RawImage) : Bool :=
  decide (fieldAt g.hdr 0 4 = 0x31494a48) && decide (fieldAt g.hdr 4 4 = 1) &&
    decide (g.textOff % 128 = 0 ∧ 0xf00 ≤ g.textOff) &&
    decide (g.textLen % 4 = 0 ∧ g.textLen ≤ 524288) && decide (g.dataOff % 128 = 0) &&
    decide (1 ≤ g.safeN ∧ g.safeN ≤ 64) && decide (g.sumN ≤ 4096) &&
    decide (1 ≤ g.kerN ∧ g.kerN ≤ 256) && decide (g.dataBase % 128 = 0) &&
    zeroAt g.hdr 0x36 10 && zeroAt g.hdr 0x48 24 && zeroAt g.hdr 0x9f4 12 && zeroAt g.hdr 0xa20 96 &&
    (g.sections.all fun x => decide (0xf00 ≤ x.1 ∧ x.1 + x.2 ≤ g.length)) && apart g.sections &&
    ((s.table g g.kerOff 64 g.kerN).all (kernelOk (s.startWords g))) &&
    ((s.table g g.sumOff 8 g.sumN).all fun l => summaryOk (summaryOf l))

/-! ### Signature, digest, text (R213, R303) -/

/-- The bytes that the digest covers. -/
def State.digested (s : State) (g : RawImage) : List Byte :=
  s.imgBytes g 0 0x60 ++ s.imgBytes g 0xa00 0x80 ++ s.imgBytes g 0xf00 (g.length - 0xf00)

/-- The text key, when the capsule opens and every page tag authenticates (check 4). -/
def State.textKey (s : State) (p : Nat) (g : RawImage) : Option (BitVec 256) :=
  let whole := s.imgBytes g 0 g.length
  match s.openCapsule p ((g.hdr.drop 0xa80).take 1152) with
  | none => none
  | some key =>
    if (List.range ((g.textLen + 4095) / 4096)).all (fun i =>
        Config.pageTagOk key i (s.imgBytes g (g.textOff + 4096 * i) (min 4096 (g.textLen - 4096 * i)))
          whole) then some key
    else none

/-- The words of a text in the clear, as the loader checks them (R215). -/
def Text.plain (g : Text) : Store Word := Store.put 0 [] 0 ((List.range g.len).map g.word)

/-- 32-bit words of a run of bytes. -/
def textWords (l : List Byte) (n : Nat) : Store Word := Store.put 0 [] 0 (words32 n l)

/-! ### Bundles of the text (R21, R86) -/

/-- A bundle as the loader sees it: its word, header, words in all, its CTL instruction, its shadow, and whether
it pushes a row of the transposer or clears it. -/
structure TextBundle where
  at_ : Nat
  hdr : Word
  len : Nat
  ctl : Option Instr
  shadow : Nat
  push : Bool
  clear : Bool
  deriving DecidableEq, Repr

/-- Bundles for which a slot's result stays exposed, the issuing bundle counted: 4 for a write of `fmt`,
12 for a special function, 0 for none (R67, R87). The shadow of a block in transfer follows the last push of the
block alone (`transferOk`). DEDUCED, log 28. -/
def Instr.shadowLen (i : Instr) : Nat :=
  match i with
  | .fmtset _ | .fmtsets _ => 4
  | .mts r _ => if r = 0x020 then 4 else 0
  | .xexp2 .. | .xlog2 .. | .xrcp .. | .xrsqrt .. | .xsqrt .. | .xtanh .. | .xsigm .. => 12
  | _ => 0

def textBundle (text : Store Word) (n : Nat) : TextBundle :=
  let h := Store.get 0 text n
  let sw := pairWords (hdrSlots h) ((List.range (hdrSlots h).length).map fun i =>
    Store.get 0 text (n + 1 + i))
  let is := sw.filterMap fun x => (decodeWord x.1 (hdrLent h x.1) x.2).map fun i => (x.1, i)
  { at_ := n
    hdr := h
    len := bundleWords h
    ctl := (is.find? fun x => decide (x.1 = Slot.ctl)).map Prod.snd
    shadow := is.foldl (fun m x => max m (Instr.shadowLen x.2)) 0
    push := is.any fun x => match x.2 with | .trpush _ _ => true | _ => false
    clear := is.any fun x => decide (x.2 = .trclr) }

def TextBundle.next (b : TextBundle) : Nat := b.at_ + b.len

/-- Loops of the text: the word of the LOOP bundle and the word of its end bundle (R30, R100). -/
def loopsOf (bs : List TextBundle) : List (Nat × Nat) :=
  bs.filterMap fun b =>
    match b.ctl with
    | some (.loop _ e) => some (b.at_, b.at_ + e.toNat)
    | some (.loopi _ e) => some (b.at_, b.at_ + e.toNat)
    | _ => none

/-- A transfer that R102 bars from a loop's end bundle. -/
def Instr.transfers (i : Instr) : Bool :=
  match i with
  | .br _ | .brc _ _ _ | .brp _ _ _ | .jmpr _ | .call _ | .callr _ | .ret | .loop _ _ | .loopi _ _
  | .brkl _ => true
  | _ => false

/-- Check 5 of R215: every bundle ends where the next marked start is or, the last one, at the end of the text
(R21). A last bundle that ends before the end of the text, with no start behind it, is rejected: its length
disagrees with the marks, for the words behind it belong to no bundle. DEDUCED, log 28. -/
def structureOk (words : Nat) (starts : List Nat) (bs : List TextBundle) : Bool :=
  let loops := loopsOf bs
  let ends := loops.map Prod.snd
  (bs.all fun b =>
    decide (b.next ≤ words) && decide (b.next = words ∨ b.next ∈ starts) &&
      starts.all fun n => decide (n ≤ b.at_ ∨ b.next ≤ n)) &&
    (ends.all fun e => decide (e ∈ starts)) &&
    (loops.all fun l => loops.all fun m =>
      decide (m.1 ≤ l.1 ∨ l.2 < m.1) || decide (m.2 ≤ l.2)) &&
    bs.all fun b =>
      decide (b.at_ ∉ ends) ||
        (hdrSp b.hdr && match b.ctl with | some i => !Instr.transfers i | none => true)

/-- Word that a direct branch of a bundle reaches. -/
def branchWord {n : Nat} (b : TextBundle) (off : BitVec n) : Nat :=
  (branchTarget (BitVec.ofNat 64 (4 * b.at_)) off).toNat / 4

/-- The word after a loop's end bundle. -/
def afterEnd (bs : List TextBundle) (e : Nat) : Nat :=
  match bs.find? fun b => decide (b.at_ = e) with
  | some b => b.next
  | none => e

/-- Where a path can go on from a bundle (R86). A BRKL that leaves more loops than lie about it in the text leaves
a caller's loop, which may be any. DEDUCED, log 28. -/
def successors (bs : List TextBundle) (loops : List (Nat × Nat)) (b : TextBundle) : List Nat :=
  let all := bs.map TextBundle.at_
  let back := (loops.filter fun l => decide (l.2 = b.at_)).map fun l => afterEnd bs l.1
  let fwd :=
    match b.ctl with
    | some .exit => []
    | some (.br o) => [branchWord b o]
    | some (.call o) => [branchWord b o]
    | some (.brc _ _ o) => [branchWord b o, b.next]
    | some (.brp _ _ o) => [branchWord b o, b.next]
    | some (.jmpr _) | some (.callr _) | some .ret => all
    | some (.loop _ e) => [b.next, afterEnd bs (b.at_ + e.toNat)]
    | some (.loopi n e) => if n = 0 then [afterEnd bs (b.at_ + e.toNat)] else [b.next]
    | some (.brkl n) =>
      let inside := loops.filter fun l => decide (l.1 < b.at_ ∧ b.at_ ≤ l.2)
      match inside.reverse[n.val]? with
      | some l => [afterEnd bs l.2]
      | none => loops.map fun l => afterEnd bs l.2
    | _ => [b.next]
  ((match b.ctl with
    | some .exit => []
    | _ => back) ++ fwd).filter fun n => decide (n ∈ all)

/-- The bundles at which some path can stand, one bundle on. -/
def stepPaths (bs : List TextBundle) (loops : List (Nat × Nat)) (goOn : TextBundle → Bool)
    (l : List Nat) : List Nat :=
  ((bs.filter fun b => decide (b.at_ ∈ l) && goOn b).flatMap (successors bs loops)).eraseDups

def walkPaths (bs : List TextBundle) (loops : List (Nat × Nat)) (goOn : TextBundle → Bool) :
    Nat → List Nat → List Nat
  | 0, l => l
  | n + 1, l => if l = [] then [] else walkPaths bs loops goOn n (stepPaths bs loops goOn l)

/-- Check 8: from a kernel entry, or from a bundle that can follow a safe point, no path issues more than
4,096 bundles up to and with the next safe point (R86). DEDUCED, log 28. -/
def spacingOk (entries : List Nat) (bs : List TextBundle) : Bool :=
  let loops := loopsOf bs
  let roots := entries ++ (bs.filter fun b => hdrSp b.hdr).flatMap (successors bs loops)
  decide (walkPaths bs loops (fun b => !hdrSp b.hdr) 4096 roots.eraseDups = [])

/-- Some bundle that a path reaches within `n` bundles is a safe point or a loop's end. DEDUCED, log 28. -/
def meetsStop (bs : List TextBundle) (loops : List (Nat × Nat)) : Nat → List Nat → Bool
  | 0, _ => false
  | n + 1, l =>
    (bs.any fun b => decide (b.at_ ∈ l) &&
      (hdrSp b.hdr || decide (b.at_ ∈ loops.map Prod.snd))) ||
      meetsStop bs loops n (stepPaths bs loops (fun _ => true) l)

/-- Rows pushed once a bundle has issued, modulo 32: every block has 32, 64 or 128 rows (R186). -/
def TextBundle.pushed (b : TextBundle) (r : Nat) : Nat :=
  if b.clear then 0 else if b.push then (r + 1) % 32 else r

/-- From bundles with the rows pushed before them, those one bundle on that are not known yet. -/
def stepPushes (bs : List TextBundle) (loops : List (Nat × Nat)) (l : List (Nat × Nat)) :
    List (Nat × Nat) :=
  l.flatMap fun x =>
    match bs.find? fun b => decide (b.at_ = x.1) with
    | some b => (successors bs loops b).map fun n => (n, b.pushed x.2)
    | none => []

/-- Every bundle that a path reaches with the rows pushed before it, modulo 32. -/
def walkPushes (bs : List TextBundle) (loops : List (Nat × Nat)) :
    Nat → List (Nat × Nat) → List (Nat × Nat) → List (Nat × Nat)
  | 0, seen, _ => seen
  | n + 1, seen, new =>
    if new = [] then seen
    else
      let next := (stepPushes bs loops new).eraseDups.filter fun x => decide (x ∉ seen)
      walkPushes bs loops n (seen ++ next) next

/-- A push that can be the last of a block opens a shadow of eight bundles, in which no safe point and no loop end
may lie (R86, R87, R188 to R190). DEDUCED, log 28. -/
def transferOk (entries : List Nat) (bs : List TextBundle) : Bool :=
  let loops := loopsOf bs
  let start := entries.map fun n => (n, 0)
  (walkPushes bs loops (32 * bs.length) start start).all fun x =>
    decide (x.2 ≠ 31) || bs.all fun b =>
      !(decide (b.at_ = x.1) && b.push && meetsStop bs loops 8 [b.at_])

/-- Check 9: no safe point and no loop end in a shadow (R67, R86, R87). DEDUCED, log 28. -/
def shadowOk (entries : List Nat) (bs : List TextBundle) : Bool :=
  (bs.all fun b => !meetsStop bs (loopsOf bs) b.shadow [b.at_]) && transferOk entries bs

/-! ### Tables and grants (R84, R214, R215, R220) -/

def safeEntryOf (l : List Byte) : SafeEntry :=
  { smask := BitVec.ofNat 64 (fieldAt l 0 8), vmask := BitVec.ofNat 64 (fieldAt l 8 8),
    pmask := BitVec.ofNat 16 (fieldAt l 16 2), amask := BitVec.ofNat 8 (fieldAt l 18 1) }

/-- Greatest of a claim over the kernels. -/
def mostOf (ks : List Kernel) (f : Kernel → Nat) : Nat := ks.foldl (fun m k => max m (f k)) 0

/-- Check 6 of R215. DEDUCED, log 28. -/
def tablesOk (safes : List (List Byte)) (ks : List Kernel) (sums : List Summary)
    (bs : List TextBundle) : Bool :=
  (safes.all fun l => zeroAt l 19 13 &&
    decide ((safeEntryOf l).amask.toNat < 2 ^ mostOf ks Kernel.accs)) &&
    (bs.all fun b => !hdrSp b.hdr || decide ((hdrSpix b.hdr).toNat < safes.length)) &&
    sums.all fun x => decide (x.src < mostOf ks Kernel.ports ∧ x.dst < mostOf ks Kernel.ports)

/-- Bytes of the variable part that a safe-point entry asks for (R220). -/
def SafeEntry.bytes (e : SafeEntry) (accs : Nat) : Nat :=
  8 * ((selected e.smask).filter fun i => decide (i ≠ 0)).length + 512 * (selected e.vmask).length +
    16 * ((selected e.pmask).filter fun i => decide (i ≠ 0 ∧ i ≠ 8)).length +
    66048 * ((selected e.amask).filter fun i => decide (i < accs)).length

/-- The save size that a kernel needs: the fixed part, the largest variable part of any entry, and every
unit that it claims (R215, R220). DEDUCED, log 28. -/
def Kernel.needs (k : Kernel) (safes : List SafeEntry) : Nat :=
  0xac00 + safes.foldl (fun m e => max m (e.bytes k.accs)) 0 + 8192 * (k.unitsX + k.unitsY)

/-- Check 7 of R215. A data section of no bytes lies in memory wherever its base points (DEDUCED).
DEDUCED, log 28. -/
def State.grantOk (s : State) (p : Nat) (g : RawImage) (ks : List Kernel) (safes : List SafeEntry) :
    Bool :=
  let P := s.part p
  (ks.all fun k => decide (k.quota ≤ (slicesOf P.slices).length * 1966080) &&
    decide (k.needs safes ≤ k.saveSize)) &&
    decide (g.dataLen = 0 ∨ g.dataBase + g.dataLen ≤ P.ownedFrom)

/-- The Gecko of every cluster of the partition loads a text into its instruction store (R14).
DESIGN CHOICE, log 96. -/
def State.loadText (s : State) (p h : Nat) (t : Text) : State :=
  (List.range 64).foldl (fun (s : State) k =>
    if (s.cluster k).cond = .held p then s.updCluster k fun c => c.loadText h t else s) s

/-- A loaded image is bound to a handle and its data is placed (R215, R302). DESIGN CHOICE, log 75. -/
def State.bindImage (s : State) (p : Nat) (key : BitVec 256) (g : RawImage) (img : Image) (fn : Nat) :
    State :=
  let data := Config.textOpen key g.dataOff (s.imgBytes g g.dataOff g.dataLen)
  let h := (s.part p).nextImage % 65536
  (((s.bulkWrite p p (BitVec.ofNat 64 g.dataBase) (data.take g.dataLen) false).updPart p fun P =>
    { P with
      images := Store.set none P.images h (some img)
      nextImage := P.nextImage + 1 }).loadText p h img.text).reply fn stOk h

/-- R215. -/
def execLoadImage (fn : Nat) (addr : DWord) (s : State) : Out :=
  .next (s.anyCommand fn (.loadImage fn addr) fun p =>
    let g := s.rawImage addr.toNat
    let signer := digestAt g.hdr 0xa00
    let digest := digestAt g.hdr 0x60
    let signed := Config.signerAdmitted p signer &&
      Config.mldsaVerify (Config.signerKey signer) (digestBytes digest) ((g.hdr.drop 0x80).take 2420)
    s.checked fn
      [(s.formatOk g, stBadFormat), (signed, stBadSignature),
       (decide (Config.sha3 (s.digested g) = digest), stBadDigest)]
      (match s.textKey p g with
       | none => s.reply fn stBadDigest 0
       | some key =>
         let starts := s.startWords g
         let whole : Text :=
           { words := textWords (s.imgBytes g g.textOff g.textLen) g.words, len := g.words, starts := starts,
             key := some key, off := g.textOff }
         let text := whole.plain
         let bs := starts.map (textBundle text)
         let rawSafes := s.table g g.safeOff 32 g.safeN
         let safes := rawSafes.map safeEntryOf
         let ks := (s.table g g.kerOff 64 g.kerN).map kernelOf
         let sums := (s.table g g.sumOff 8 g.sumN).map summaryOf
         s.checked fn
           [(structureOk g.words starts bs, stBadFormat), (tablesOk rawSafes ks sums bs, stBadTable),
            (s.grantOk p g ks safes, stOverGrant),
            (spacingOk (ks.map fun k => k.entry / 4) bs, stSpacing),
            (shadowOk (ks.map fun k => k.entry / 4) bs, stShadow)]
           (if s.runBusy p (BitVec.ofNat 64 g.dataBase) g.dataLen true then s.goesOn fn (.loadImage fn addr)
            else s.bindImage p key g
             { text := whole, safes := safes, kernels := ks,
               sums := sums, digest := digest } fn)))

end Sys2Proof.Machine
end

