-- ==== Sys2Proof/Machine/Dispatcher.lean ====
section
/-!
DEFINITION. Launch records and the dispatcher (R216 to R219, R221, R249, R274).
-/
namespace Sys2Proof.Machine

open Sys2Proof

/-- 1 ms: a reservation's window (R218), a victim's time to stop (R219). -/
def msCycles : Nat := 1000 * usCycles

/-! ### Launch records (R216) -/

/-- A launch record's fields. -/
def launchOf (l : List Byte) : Launch :=
  { image := fieldAt l 0 2, kernel := fieldAt l 2 2, pri := fieldAt l 4 1, members := fieldAt l 5 1,
    gang := fieldAt l 6 2, member := fieldAt l 8 1, vcluster := fieldAt l 9 1, vcore := fieldAt l 10 1,
    slot := fieldAt l 11 1, args := BitVec.ofNat 64 (fieldAt l 16 8),
    epoch := BitVec.ofNat 32 (fieldAt l 24 4), ports := (l.drop 32 |>.take 32).map BitVec.toNat,
    donePort := fieldAt l 64 1, status := BitVec.ofNat 64 (fieldAt l 72 8) }

def Part.kernelOf (P : Part) (r : Launch) : Option (Image × Kernel) :=
  match Store.get none P.images r.image with
  | none => none
  | some g => (g.kernels[r.kernel]?).map fun k => (g, k)

/-- A record with no fault of its own (R216): the cases that look at no other record. DEDUCED, log 52. -/
def Part.launchOk (P : Part) (l : List Byte) (r : Launch) : Bool :=
  match P.kernelOf r with
  | none => false
  | some (_, k) =>
    decide (r.vcluster < P.n) && decide (r.vcore ≤ 7) && decide (r.pri ≤ 11) &&
      decide (1 ≤ r.members ∧ r.members ≤ 32) && decide (r.member < r.members) &&
      decide (r.slot ≤ 3 ∨ r.slot = 255) && decide (r.donePort ≤ 63 ∨ r.donePort = 255) &&
      (r.ports.all fun q => decide (q ≤ 63 ∨ q = 255)) &&
      ((r.ports.drop k.ports).all fun q => decide (q = 255)) &&
      zeroAt l 12 4 && zeroAt l 28 4 && zeroAt l 65 7 && zeroAt l 80 48

/-- A record agrees with the first of its incomplete gang (R216). -/
def Launch.agrees (r f : Launch) : Bool :=
  decide (r.members = f.members ∧ r.pri = f.pri ∧ r.epoch = f.epoch ∧ r.donePort = f.donePort)

/-- A status word that a launch record names lies in a line that a busy tile keeps (R160): its own, or that of a
record of its incomplete gang. -/
def State.launchBusy (s : State) (p : Nat) (r : Launch) : Bool :=
  let gang := (s.part p).gangs.flatten.filter fun q => decide (q.gang = r.gang)
  (r :: gang).any fun q => decide (q.status ≠ 0) && s.runBusy p q.status 8 true

/-- A dropped record's status word (R216). DEDUCED, log 52. -/
def State.dropLaunch (s : State) (p : Nat) (r : Launch) : State :=
  if r.status = 0 ∨ r.status.toNat % 8 ≠ 0 then s
  else s.bulkWrite p p r.status (leBytes 8 0x100ff) false

/-- A new entry of a waiting list. -/
def launchEntry (level now : Nat) (ls : List Launch) : WaitEntry :=
  { level := level, since := now, moved := now, pri := level, launches := ls, resume := none,
    headAt := none, victims := [], spare := [] }

/-- The physical core of a virtual pair under a map (R270), or a number of the pair's own where it has no place. -/
def Part.coreFor (P : Part) (r : Launch) : Nat :=
  (mapCore P.map r.vcluster r.vcore).getD (512 + 8 * r.vcluster + r.vcore)

/-- The contexts of a launch on one core together claim no more than 8 accumulators (R192). DEDUCED, log 52. -/
def Part.accsFit (P : Part) (g : List Launch) : Bool :=
  let accs := fun (r : Launch) => (P.kernelOf r).elim 0 fun k => k.2.accs
  g.all fun r => decide (((g.filter fun q => decide (P.coreFor q = P.coreFor r)).map accs).sum ≤ 8)

/-- A record joins its gang; a complete gang enters its waiting list, or is rejected whole where it claims too many
accumulators (R192). -/
def State.addLaunch (s : State) (p : Nat) (system : Bool) (r : Launch) : State :=
  let P := s.part p
  let old := (P.gangs.find? fun g => g.any fun q => decide (q.gang = r.gang)).getD []
  let bad := match old with
    | [] => false
    | f :: _ => !r.agrees f || old.any fun q => decide (q.member = r.member)
  if bad then s.dropLaunch p r
  else
    let g := old ++ [r]
    let rest := P.gangs.filter fun g => g.all fun q => decide (q.gang ≠ r.gang)
    if g.length < r.members then s.updPart p fun P => { P with gangs := rest ++ [g] }
    else if P.accsFit g = false then
      g.foldl (fun s q => s.dropLaunch p q) (s.updPart p fun P => { P with gangs := rest })
    else
      let e := launchEntry (if system then 0 else r.pri) s.cycle g
      ((s.updPart p fun P => { P with gangs := rest, waiting := P.waiting ++ [e] }).schedule
        agingCycles (.dispatchAging p)).after 0 (.gangPlacement p)

/-- R216: a launch record arrives. Host queues are frozen while the host is away (R221, R292); a status word that may
have to be written waits for a busy tile (R160).
DEDUCED, log 52, 57. -/
def execLaunchRecordArrival (part : Nat) (system : Bool) (record : BitVec 1024) (s : State) : Out :=
  .next
    (let l := leBytes 128 record.toNat
     let r0 := launchOf l
     let r := { r0 with pri := if system = false ∧ r0.pri = 0 then 1 else r0.pri }
     if (s.part part).live = false then s
     else if (system = false ∧ s.hostGone part = true) ∨ s.launchBusy part r = true then
       s.schedule 1 (.launchRecordArrival part system record)
     else if r.status.toNat % 8 ≠ 0 ∨ (s.part part).launchOk l r = false then s.dropLaunch part r
     else s.addLaunch part system r)

/-! ### Placement (R217, R218, R270) -/

/-- A resize keeps new work off a virtual pair: its entry changes, or its cluster departs (R274). -/
def Part.pairHeld (P : Part) (v c : Nat) : Bool :=
  match P.resize with
  | none => false
  | some r =>
    decide (Store.get 0 P.map (8 * v + c) ≠ Store.get 0 r.newMap (8 * v + c)) ||
      match mapCore P.map v c with
      | some k => !r.clusters.getLsbD (clusterOfCore k)
      | none => false

/-- A gang that PARK has saved returns under the new map (R278). -/
def Part.gangHeld (P : Part) (g : Nat) : Bool :=
  match P.resize with
  | none => false
  | some r =>
    decide (g ∈ r.moving) && (decide (r.phase = .prepare ∨ r.phase = .quiesce ∨ r.phase = .abort) ||
      decide (r.phase = .move) && r.switchTo.isSome)

/-- The context slots that a member may take, lowest first. -/
def State.slotsFor (s : State) (p v c slot : Nat) : List Nat :=
  let P := s.part p
  if P.pairHeld v c then []
  else
    match mapCore P.map v c with
    | none => []
    | some k => if slot = 255 then coreCtxs k else [4 * k + slot % 4]

/-- CONTEXT DISPATCH (R217, R249): the context's initial state; its image's summaries are installed, which is no
pending change of R253. DEDUCED, log 53; DESIGN CHOICE, log 109. -/
def State.dispatch (s : State) (p gang level : Nat) (g : Image) (k : Kernel) (r : Launch) (c : Nat)
    (b : Nat × Nat) : State :=
  let ports := (List.range k.ports).map fun i => (r.ports.getD i 255)
  let bound := fun (i : Nat) => if i < k.ports then r.ports.getD i 255 else 255
  let sums := g.sums.filterMap fun x =>
    if bound x.src < 64 ∧ bound x.dst < 64 then some { x with src := bound x.src, dst := bound x.dst }
    else none
  let x : Ctx :=
    { Ctx.free with
      occupied := true
      part := p
      image := r.image
      kernel := r.kernel
      vcluster := BitVec.ofNat 6 r.vcluster
      vcore := BitVec.ofNat 3 r.vcore
      pri := BitVec.ofNat 4 level
      pc := BitVec.ofNat 64 k.entry
      lc0 := r.epoch
      s := Store.set 0 [] 1 r.args
      accN := k.accs
      ubN := k.ubs
      portN := k.ports
      unitX := (b.1, k.unitsX)
      unitY := (b.2, k.unitsY)
      quota := k.quota
      ports := Store.put 255 [] 0 ports
      gang := gang
      donePort := r.donePort
      statusAddr := r.status
      dispatched := s.cycle
      identity := s.nextIdent }
  ((s.setCtx c x).updPart p fun P =>
    { P with sums := P.sums ++ sums.filter fun q => decide (q ∉ P.sums) }).fresh

/-- Members that name a slot come first, so that others do not take it. DESIGN CHOICE, log 56. -/
def placeOrder (l : List Launch) : List Launch :=
  (l.filter fun r => decide (r.slot ≠ 255)) ++ l.filter fun r => decide (r.slot = 255)

/-- Place every member, or none. -/
def State.placeMembers (s : State) (p gang level : Nat) : List Launch → Option State
  | [] => some s
  | r :: t =>
    match (s.part p).kernelOf r with
    | none => none
    | some (g, k) =>
      match s.findRoom (s.slotsFor p r.vcluster r.vcore r.slot) k.accs k.unitsX k.unitsY with
      | none => none
      | some (c, b) => (s.dispatch p gang level g k r c b).placeMembers p gang level t

/-- Admit a gang: it holds a capability on its done port until its last member ends (R217). -/
def State.admitGang (s : State) (p id : Nat) (l : List Launch) : State :=
  match l with
  | [] => s
  | r :: _ =>
    let s1 := s.updPart p fun P =>
      { P with running := P.running ++ [⟨id, l.length, r.donePort, r.epoch⟩] }
    if r.donePort < 64 then
      s1.increment p (BitVec.ofNat 6 r.donePort) ⟨r.epoch, 0, 0, 0, 0, 0⟩ 1
    else s1

/-- Place one entry, if it fits now. DESIGN CHOICE, log 56. -/
def State.placeEntry (s : State) (p : Nat) (e : WaitEntry) : Option State :=
  match e.resume with
  | some area =>
    match (s.part p).saved.find? fun v => decide (v.area = area) with
    | none => some s
    | some v =>
      let x := v.ctx
      match s.findRoom (if (s.part p).gangHeld x.gang then [] else s.slotsFor p x.vcluster.toNat x.vcore.toNat 255)
          x.accN x.unitX.2 x.unitY.2 with
      | none => none
      | some (c, b) => some ((s.restore p v c b).updCtx c fun y => { y with dispatched := s.cycle })
  | none =>
    (s.fresh.placeMembers p s.nextIdent e.level (placeOrder e.launches)).map fun t =>
      t.admitGang p s.nextIdent e.launches

/-! ### The waiting lists (R218) -/

/-- An entry goes before another: higher level, then earlier entry time. -/
def WaitEntry.before (a b : WaitEntry) : Bool :=
  decide (a.level < b.level) || (decide (a.level = b.level) && decide (a.since < b.since))

/-- Insert behind entries of the same place. -/
def insertEntry (e : WaitEntry) : List WaitEntry → List WaitEntry
  | [] => [e]
  | x :: t => if e.before x then e :: x :: t else x :: insertEntry e t

/-- The order in which the dispatcher considers entries. -/
def inOrder (l : List WaitEntry) : List WaitEntry := l.foldl (fun m e => insertEntry e m) []

/-- What an entry's members need: core, accumulators, slot number (255 for any slot). -/
def Part.needs (P : Part) (e : WaitEntry) : List (Option Nat × Nat × Nat) :=
  match e.resume with
  | some area =>
    match P.saved.find? fun v => decide (v.area = area) with
    | some v => [(mapCore P.map v.ctx.vcluster.toNat v.ctx.vcore.toNat, v.ctx.accN, 255)]
    | none => []
  | none => e.launches.map fun r =>
      (mapCore P.map r.vcluster r.vcore, (P.kernelOf r).elim 0 fun k => k.2.accs, r.slot)

/-- The cores that an entry needs. -/
def Part.coresFor (P : Part) (e : WaitEntry) : List Nat := ((P.needs e).filterMap Prod.fst).eraseDups

/-- The state with no claim on stash units, for the question whether contexts and accumulators suffice. -/
def State.unitless (s : State) : State :=
  let bare := fun (x : Ctx) => { x with unitX := (0, 0), unitY := (0, 0) }
  { s with
    ctxs := s.ctxs.map fun e => (e.1, bare e.2)
    parts := s.parts.map fun e => (e.1, { e.2 with
      saved := e.2.saved.map fun v => { v with ctx := bare v.ctx }
      images := e.2.images.map fun g => (g.1, g.2.map fun (i : Image) =>
        { i with kernels := i.kernels.map fun k => { k with unitsX := 0, unitsY := 0 } }) }) }

/-- The slots that members name. -/
def namedSlots (ns : List (Option Nat × Nat × Nat)) : List Nat :=
  ns.filterMap fun n => if n.2.2 = 255 then none else n.1.map fun k => 4 * k + n.2.2 % 4

/-- The places that members need, each with the contexts and accumulators wanted there: the cores, then the named
slots. -/
def wantAt (ns : List (Option Nat × Nat × Nat)) : List (Nat × Nat × Nat) :=
  ((ns.filterMap Prod.fst).eraseDups.map fun k =>
    let on := ns.filter fun m => decide (m.1 = some k)
    (k, on.countP (fun m => decide (m.2.2 = 255)), (on.map fun m => m.2.1).sum)) ++
    (namedSlots ns).map fun c => (512 + c, 1, 0)

/-- Contexts and accumulators free at a place; a core's count leaves out the slots that are named. -/
def State.freeAt (s : State) (named : List Nat) (place : Nat) : Nat × Nat :=
  let free := fun (c : Nat) => !(s.ctx c).occupied
  if place < 512 then
    ((coreCtxs place).countP fun c => free c && decide (c ∉ named),
      8 - (((coreCtxs place).filter fun c => !free c).map fun c => (s.ctx c).accN).sum)
  else ((free (place - 512)).toNat, 0)

/-- What is free at the places that an entry needs. -/
def State.freeFor (s : State) (p : Nat) (e : WaitEntry) : List (Nat × Nat × Nat) :=
  let ns := (s.part p).needs e
  (wantAt ns).map fun w => (w.1, s.freeAt (namedSlots ns) w.1)

/-- Contexts and accumulators of a place that are free without being reserved. -/
def WaitEntry.spareOn (h : WaitEntry) (k : Nat) : Nat × Nat :=
  match h.spare.find? fun x => decide (x.1 = k) with
  | some x => x.2
  | none => (0, 0)

/-- An entry's reservation is in force: it is or has been the head, and its window has not run out (R218 rule 4). -/
def WaitEntry.reserves (h : WaitEntry) (now : Nat) : Bool := h.headAt.any fun t => decide (now < t + msCycles)

/-- What is reserved for an entry stays free from one state to the next (R218 rules 4 and 5). DEDUCED, log 54. -/
def State.spares (s : State) (p : Nat) (h : WaitEntry) (before : State) : Bool :=
  let ns := (s.part p).needs h
  let named := namedSlots ns
  (wantAt ns).all fun w =>
    let a := before.freeAt named w.1
    let b := s.freeAt named w.1
    let f := h.spareOn w.1
    decide (min (a.1 - f.1) w.2.1 ≤ b.1) && decide (min (a.2 - f.2) w.2.2 ≤ b.2)

/-- What comes about by placing an entry leaves alone what is reserved for the others, at its level or a higher one
(R218 rule 4, R221). -/
def State.sparesOthers (s : State) (p : Nat) (e : WaitEntry) (before : State) : Bool :=
  (before.part p).waiting.all fun h =>
    decide (h = e) || decide (e.level < h.level) || !h.reserves before.cycle || s.spares p h before

/-- Contexts and accumulators suffice for an entry once `gone` have left, what is reserved for others and by a resize
apart (R218, R274). -/
def State.suffices (s : State) (p : Nat) (e : WaitEntry) (gone : List Nat) : Bool :=
  let u := gone.foldl (fun s c => s.setCtx c Ctx.free) s.unitless
  match u.placeEntry p e with
  | some t => t.sparesOthers p e u && t.leavesReserved p
  | none => false

/-- A context that the dispatcher may still ask to stop: it is not ending, and no stop is under way but Gecko's own. -/
def Ctx.spared (x : Ctx) : Bool := x.ending.isNone && x.stopReq.all fun r => decide (r.kind = .gecko)

/-- Candidates of R218 rule 6, in the order in which they are taken: lowest priority, then youngest, then
higher number. Aging moves an entry's level and not its priority (the worked example after R221).
DEDUCED, log 53; DESIGN CHOICE, log 56. -/
def State.candidates (s : State) (p : Nat) (e : WaitEntry) : List Nat :=
  let cs := (((s.part p).coresFor e).flatMap coreCtxs).filter fun c =>
    (s.ctx c).occupied && decide ((s.ctx c).part = p) && decide (e.pri < (s.ctx c).pri.toNat) && (s.ctx c).spared
  let first := fun (a b : Nat) =>
    let x := s.ctx a
    let y := s.ctx b
    decide (y.pri.toNat < x.pri.toNat) ||
      (decide (y.pri = x.pri) && (decide (y.dispatched < x.dispatched) ||
        (decide (y.dispatched = x.dispatched) && decide (b < a))))
  cs.foldl (fun m c =>
    let l := m.takeWhile fun d => first d c
    l ++ c :: m.drop l.length) []

/-- Contexts of the needed cores that the dispatcher or a resize has asked to stop. -/
def State.leaving (s : State) (p : Nat) (e : WaitEntry) : List Nat :=
  (((s.part p).coresFor e).flatMap coreCtxs).filter fun c => (s.ctx c).occupied && !(s.ctx c).spared

/-- Victims until the claim fits; all of them where it does not, if contexts and accumulators are what is lacking
(R218 rule 6). DEDUCED, log 55. -/
def State.victimsFor (s : State) (p : Nat) (e : WaitEntry) : List Nat :=
  let go := s.leaving p e
  let cs := s.candidates p e
  match (List.range (cs.length + 1)).find? fun n => s.suffices p e (go ++ cs.take n) with
  | some n => cs.take n
  | none => if s.suffices p e (((s.part p).coresFor e).flatMap coreCtxs) then cs else []

/-- Send SAVE to victims (R218, R219). -/
def State.preempt (s : State) (p : Nat) (l : List Nat) : State :=
  l.foldl (fun s c =>
    (s.askStop c (s.stopFor .preempt)).schedule msCycles (.victimSaveTimeout p c)) s

/-- Replace an entry of the waiting lists. -/
def State.updEntry (s : State) (p : Nat) (e : WaitEntry) (f : WaitEntry → WaitEntry) : State :=
  s.updPart p fun P => { P with waiting := P.waiting.map fun x => if x = e then f x else x }

/-- The head waits: its window opens, victims are chosen (R218 rules 4 and 6). What is free as it becomes
the head is not reserved until it sends SAVE to a victim. DEDUCED, log 54. -/
def State.headWaits (s : State) (p : Nat) (e : WaitEntry) : State :=
  let vs := if s.suffices p e [] then [] else s.victimsFor p e
  let s1 := s.updEntry p e fun x =>
    { x with
      headAt := some (x.headAt.getD s.cycle)
      victims := x.victims ++ vs
      spare := if vs ≠ [] then [] else if x.headAt.isNone then s.freeFor p x else x.spare }
  let s2 := s1.preempt p vs
  if e.headAt.isNone then s2.schedule msCycles (.reservationLapse p) else s2

/-- What a later entry has taken comes off what was spare. DEDUCED, log 54. -/
def WaitEntry.spend (h : WaitEntry) (named : List Nat) (before after : State) : WaitEntry :=
  { h with spare := h.spare.map fun x =>
      let a := before.freeAt named x.1
      let b := after.freeAt named x.1
      (x.1, x.2.1 - (a.1 - b.1), x.2.2 - (a.2 - b.2)) }

/-- An entry placed, where that leaves alone what is reserved (R218, R221, R274). -/
def State.tryEntry (s : State) (p : Nat) (e : WaitEntry) : Option State :=
  (s.placeEntry p e).filter fun u => u.sparesOthers p e s && u.leavesReserved p

/-- An entry has been placed and leaves the waiting lists; the dispatcher looks again. -/
def State.placed (u : State) (p : Nat) (e : WaitEntry) (before : State) : State :=
  let spent := fun (h : WaitEntry) => h.spend (namedSlots ((before.part p).needs h)) before u
  (u.updPart p fun P => { P with waiting := (P.waiting.erase e).map spent }).schedule 0 (.gangPlacement p)

/-- The first of the later entries that can be placed is (R218 rule 5). -/
def State.passing (s : State) (p : Nat) : List WaitEntry → State
  | [] => s
  | e :: t =>
    match s.tryEntry p e with
    | some u => u.placed p e s
    | none => s.passing p t

/-- The SAVE of a victim has been standing for 1 ms, and no further victim has been taken for that (R219). -/
def State.overdue (s : State) (c : Nat) : Bool :=
  (s.ctx c).stopReq.any fun r => decide (.preempt ∈ r.kinds ∧ r.since + msCycles ≤ s.cycle) && !r.further

/-- For each victim that the head counts on and that has not stopped within 1 ms, one further victim is taken for the
head, where a candidate is left (R219). -/
def State.takeFurther (s : State) (p : Nat) (h : WaitEntry) : State :=
  ((s.leaving p h).filter s.overdue).foldl (fun s c =>
    let s1 := s.updCtx c fun x => { x with stopReq := x.stopReq.map fun r => { r with further := true } }
    match s1.candidates p h with
    | [] => s1
    | d :: _ => (s1.updEntry p h fun x => { x with victims := x.victims ++ [d] }).preempt p [d]) s

/-- R218: the dispatcher places the head, or has it wait and places what may pass it (rules 4 to 6). -/
def execGangPlacement (part : Nat) (s : State) : Out :=
  .next
    (match inOrder (s.part part).waiting with
     | [] => s
     | h :: _ =>
       match s.tryEntry part h with
       | some u => u.placed part h s
       | none =>
         let u := s.headWaits part h
         let t := (inOrder (u.part part).waiting).head?.elim u (u.takeFurther part)
         t.passing part ((inOrder (t.part part).waiting).drop 1))

/-- An entry moves up a level. One that is or has been the head gets a new window, in which what a window still
running has reserved stays reserved (R218 rules 2 and 4). -/
def State.moveUp (s : State) (p : Nat) (e : WaitEntry) : WaitEntry :=
  { e with
    level := e.level - 1
    moved := e.moved + agingCycles
    headAt := e.headAt.map fun _ => s.cycle
    spare := if e.reserves s.cycle then e.spare else s.freeFor p e }

/-- R218 rule 2: entries that have waited 10 ms at their level move up, never above level 1. -/
def execDispatchAging (part : Nat) (s : State) : Out :=
  .next
    (let due := fun (e : WaitEntry) => decide (2 ≤ e.level ∧ e.moved + agingCycles ≤ s.cycle)
     if (s.part part).waiting.any due then
       (((s.updPart part fun P =>
         { P with waiting := P.waiting.map fun e => if due e then s.moveUp part e else e }).schedule agingCycles
         (.dispatchAging part)).schedule msCycles (.reservationLapse part)).schedule 0 (.gangPlacement part)
     else s)

/-- R218 rule 4: the window of an entry that became the head has run out; what it reserved may be used. -/
def execReservationLapse (part : Nat) (s : State) : Out :=
  .next
    (if (s.part part).waiting.any fun h => h.headAt.any fun t => decide (t + msCycles ≤ s.cycle) then
       s.schedule 0 (.gangPlacement part)
     else s)

/-- R219: a victim has not stopped within 1 ms; one further victim is taken for the head that counts on it. Where
another head stands, this comes about once one that does is the head. -/
def execVictimSaveTimeout (part ctx : Nat) (s : State) : Out :=
  .next
    (match inOrder (s.part part).waiting with
     | [] => s
     | h :: _ => if s.overdue ctx then s.takeFurther part h else s)

end Sys2Proof.Machine
end

