-- ==== Sys2Proof/Machine/HostIf.lean ====
section
/-!
DEFINITION. The host link, the Roard Links, and the device as a whole: host accesses (R288, R301),
invalidations (R291), link events (R292, R294), power, resets and life cycle (R235, R309, R310, R313).
-/
namespace Sys2Proof.Machine

open Sys2Proof

/-! ### Host accesses (R268, R288, R301) -/

/-- One line of a host write through virtual function `fn`, which owns partition `p`. -/
def State.hostLine (s : State) (p fn : Nat) (a : Nat) (l : List Byte) : State :=
  if s.refuses p a true then s.logRefused p (reqOfFn p fn) a else s.wrLine (keyOf p a) l

/-- The bytes of a host read come back. -/
def State.answers (s : State) (l : List Byte) : State :=
  { s with host := { s.host with answer := s.host.answer ++ l } }

/-- Bytes of a refused read: all ones (R288). -/
def onesOf (n : Nat) : List Byte := List.replicate n (BitVec.allOnes 8)

/-- `n` bytes of one line of a host read. -/
def State.hostRead (s : State) (p fn : Nat) (a n : Nat) : State :=
  if s.refuses p a false then (s.logRefused p (reqOfFn p fn) a).answers (onesOf n)
  else s.answers (s.rdLine (keyOf p a) n)

/-- A refused access of a function without a partition (R268, R288, R301). -/
def State.hostRefused (s : State) (fn : Nat) (a : DWord) (n : Nat) (read : Bool) : State :=
  let s1 := (chunks a n).foldl (fun (s : State) c => s.logDevRefused (reqOfFn 0 fn) c.1.toNat) s
  if read then s1.answers (onesOf n) else s1

/-- The pieces of a host access, each with the bytes written to it. -/
def hostPieces (a : DWord) (l : List Byte) : List (DWord × List Byte) :=
  (chunks a l.length).map fun c => (c.1, (l.drop (c.1 - a).toNat).take c.2)

/-- A host access has to wait for a busy tile or at a router (R160, R197, R279, R280). -/
def State.hostWaits (s : State) (p a n : Nat) (write : Bool) : Bool :=
  s.spanBusy (keyOf p a) n write

/-- R288: a host access is served, or refused and logged; what a read returns stands in `HostIf.answer`.
DESIGN CHOICE, log 83; DEDUCED, log 65. -/
def execHostMemoryAccess (fn : Nat) (addr : DWord) (write : Option (List Byte)) (len : Nat) (s : State) :
    Out :=
  .next
    (if s.host.link = .down then s
     else
       let n := match write with | some l => l.length | none => len
       let read := write.isNone
       let s1 : State := if read then { s with host := { s.host with answer := [] } } else s
       match (if fn = 0 then none else s.fnPart fn) with
       | none => s1.hostRefused fn addr n read
       | some p =>
         if s.hostWaits p addr.toNat n (!read) then s.schedule 1 (.hostMemoryAccess fn addr write len)
         else
           match write with
           | some l => (hostPieces addr l).foldl (fun (s : State) c => s.hostLine p fn c.1.toNat c.2) s1
           | none => (chunks addr len).foldl (fun (s : State) c => s.hostRead p fn c.1.toNat c.2) s1)

/-- A context of a partition has accesses that have not completed. DEDUCED, log 64. -/
def State.partBusy (s : State) (p : Nat) : Bool :=
  s.ctxs.any fun e => decide (e.2.part = p) && e.2.occupied && !e.2.outst.isEmpty

/-- R291: the host invalidates a translation. It completes after the accesses that used it; the next use
walks again. A pinned page of a probed range stays translated (R163): what its next use finds is `stale.again`, or the
mapping that it had. DEDUCED, log 64. -/
def execAtsInvalidation (part : Nat) (stale : StalePage) (s : State) : Out :=
  .next
    (let vpage := stale.page
     let e := (s.part part).page vpage
     if e.host = false ∨ e.present = false then s
     else if s.partBusy part then s.schedule 1 (.atsInvalidation part stale)
     else if s.pinned part vpage then
       let m := stale.again.getD e
       s.updPart part fun P => P.setPage vpage { m with present := true, host := true, size := .k4 }
     else s.updPart part fun P => P.setPage vpage { e with present := false })

/-! ### Links (R292, R294) -/

/-- R292: the host link goes down; host-backed memory and the launch queues of every partition are out of reach
until one of its functions attaches. -/
def execHostLinkDown (s : State) : Out :=
  .next
    ((List.range 16).foldl
      (fun (s : State) p => if (s.part p).live then s.updPart p fun P => { P with gone := true } else s)
      { s with host := { s.host with link := .down } })

/-- R292: the host link has retrained; what ATTACH thaws stays frozen. Before the end of bring-up the link is not
enabled (R313). -/
def execHostLinkRetrained (s : State) : Out :=
  .next (if s.host.ready then { s with host := { s.host with link := .up } } else s)

def State.setPort (s : State) (p : Nat) (x : LinkPort) : State :=
  { s with host := { s.host with ports := Store.set LinkPort.reset s.host.ports p x } }

/-- The firmware assigns a free spare that is up to a plane that no port carries (R294). DESIGN CHOICE, log 66. -/
def State.assignSpare (s : State) (plane : Nat) : State :=
  let free := fun (p : Nat) => s.portUp p && !(s.host.spares.any fun x => decide (x.1 = p))
  match (s.carrier plane).isSome, [16, 17].find? free with
  | false, some p => { s with host := { s.host with spares := s.host.spares ++ [(p, plane)] } }
  | _, _ => s

/-- The plane whose traffic a port carries. -/
def State.planeOf (s : State) (port : Nat) : Option Nat :=
  if port < 16 then some port else (s.host.spares.find? fun x => decide (x.1 = port)).map Prod.snd

/-- A port goes down; the collectives in flight that use it end LINK_FAILED, and its plane goes to a spare
(R294, R298). -/
def State.portDown (s : State) (port : Nat) : State :=
  if s.portUp port then
    let s1 := s.setPort port { s.linkPort port with down := true }
    let s2 : State := { s1 with host := { s1.host with
      spares := s1.host.spares.filter fun x => decide (x.1 ≠ port) } }
    let s3 := match s.planeOf port with | some p => s2.assignSpare p | none => s2
    (s.host.colls.filter fun g => decide (port ∈ g.ports)).foldl (fun s g => s.failGroup g) s3
  else s

/-- R294. -/
def execLinkPortDown (port : Nat) (s : State) : Out :=
  .next (if port < 18 then s.portDown port else s)

/-- R294: the receiver asks for a flit again; a port whose retries exceed 64 in 1 ms goes down.
DEDUCED, log 67. -/
def execFlitRetry (port : Nat) (s : State) : Out :=
  .next
    (if 18 ≤ port then s
     else
       let x := s.linkPort port
       let l := (x.retries.filter fun t => decide (s.cycle < t + 1000 * usCycles)) ++ [s.cycle]
       let s1 := s.setPort port { x with retries := l }
       if 64 < l.length then s1.portDown port else s1)

/-! ### Power and ageing (R310, R313) -/

/-- R313: while the limit is reached, cores insert empty issue cycles. DESIGN CHOICE, log 68. -/
def execPowerLimitReached (reached : Bool) (s : State) : Out :=
  .next { s with host := { s.host with throttle := reached } }

/-- R310: the domains that need more than their voltage limit get a health record each. -/
def execAgeingMonitorRead (clusters : BitVec 64) (slices : BitVec 96) (s : State) : Out :=
  .next
    (let newC := (List.range 64).filter fun i =>
       clusters.getLsbD i && !s.host.agedClusters.getLsbD i
     let newS := (List.range 96).filter fun i => slices.getLsbD i && !s.host.agedSlices.getLsbD i
     let s1 := newC.foldl (fun (s : State) i => s.addDevLog 6 0 (i * 2 ^ 16) 0) s
     let s2 := newS.foldl (fun (s : State) i => s.addDevLog 6 0 0 i) s1
     { s2 with host := { s2.host with
         agedClusters := s2.host.agedClusters ||| clusters
         agedSlices := s2.host.agedSlices ||| slices } })

/-! ### Wipes (R235, R309) -/

/-- Events that come from outside the device, which a reset does not call off. DESIGN CHOICE, log 73. -/
def outside : Instr → Bool
  | .foreignLineWrite _ _ _ | .foreignLineRead _ _ | .registerWrite _ _ | .trtailWrite _ _
  | .hostMemoryAccess _ _ _ _ | .atsInvalidation _ _ | .flitRetry _ | .linkPortDown _
  | .powerLimitReached _ | .ageingMonitorRead _ _ | .powerLoss | .powerUpRecovery | .orderlyShutdown
  | .deviceReset | .lifeCycleChange | .hostLinkDown | .hostLinkRetrained | .loadImage _ _
  | .installTerms _ _ _ | .bindRegion _ _ _ _ | .removeTerms _ _ _ | .statement _ _ _
  | .timeUpdate _ _ | .partCreate _ _ | .partResize _ _ | .partStatus _ _ | .partDestroy _ _
  | .portSet _ _ _ _ _ | .portDeclare _ _ _ _ | .queuePush _ _ _ _ | .frontierReset _
  | .engineLease _ _ _ | .attach _ _ | .mailboxBadCommand _ | .launchRecordArrival _ _ _ => true
  | _ => false

/-- The rest of a list from the first event that `f` picks. DESIGN CHOICE, log 73. -/
def fromFirst (f : Instr → Bool) : List (Nat × Instr) → List (Nat × Instr)
  | [] => []
  | e :: t => if f e.2 then e :: t else fromFirst f t

/-- A handle after its state has been lost or shut down: the record and the persisted counts stay; the
keys, and with them the region, are gone (R224, R235, R309). DESIGN CHOICE, log 72. -/
def Handle.kept (h : Handle) : Handle := { h with region := none, key := 0, reserved := 0 }

/-- What power loss costs a handle (R235). DESIGN CHOICE, log 72. -/
def Handle.charged (h : Handle) : Handle :=
  { h with
    lost := h.lost + (h.n - h.p)
    used := h.n
    p := h.n
    reserved := 0
    meter := h.body.charge * h.n % 2 ^ 64 }

/-- Everything that a reset zeroes is zero. Host memory, the persisted state of the terms unit, the clock
and the enrolment stay; the cycle counter starts again (R309). DESIGN CHOICE, log 5, 72, 73. -/
def State.wipe (s : State) : State :=
  { State.reset with
    agenda := (s.agenda.filter fun e => outside e.2).map fun e => (e.1 - s.cycle, e.2)
    delays := s.delays
    freeCtr := s.freeCtr
    nextIdent := s.nextIdent
    keys := s.keys
    errors := s.errors.map fun e => { e with at_ := e.at_ - s.cycle }
    mem := (s.mem.filter fun e =>
      decide (keyOf hostSpace 0 ≤ e.1) && decide (e.1 < keyOf (hostSpace + 1) 0))
    terms := { Terms.reset with
      handles := s.terms.handles.map fun e => (e.1, e.2.map Handle.kept)
      stSerial := s.terms.stSerial
      clockBase := s.tclock
      synced := s.terms.synced
      clockSaved := s.terms.clockSaved
      loss := s.terms.loss || s.terms.alive }
    host := { HostIf.reset with
      agedClusters := s.host.agedClusters
      peers := s.host.peers.map fun x => { x with at_ := x.at_ - s.cycle }
      agedSlices := s.host.agedSlices
      badClusters := s.host.agedClusters
      badSlices := s.host.agedSlices
      enrolled := s.host.enrolled } }

/-- The device comes up: a loss of the terms unit's state is charged (R235), and bring-up ends after an
open duration (R313). DESIGN CHOICE, log 72. -/
def State.comeUp (s : State) : State :=
  let h := if s.terms.loss then s.terms.handles.map fun e => (e.1, e.2.map Handle.charged)
    else s.terms.handles
  State.after { s with
    terms := { s.terms with handles := h, loss := false }
    host := { s.host with powered := true } } 0 .bringUpComplete

/-- R235: power is lost. Nothing acts before the next power-up. The clock will restart from its last
persisted value, unsynchronised (R229). DESIGN CHOICE, log 72. -/
def execPowerLoss (s : State) : Out :=
  .next
    (let s1 := s.wipe
     { s1 with
       agenda := fromFirst (fun i => decide (i = .powerUpRecovery)) s1.agenda
       terms := { s1.terms with clockBase := s.terms.clockSaved, synced := false }
       host := { s1.host with powered := false } })

/-- R235: at power-up every installed handle is charged what had not been recorded. DESIGN CHOICE, log 72. -/
def execPowerUpRecovery (s : State) : Out :=
  .next
    (if s.host.powered then s
     else
       let t : Terms := { s.terms with clockAt := 0 }
       State.comeUp { s with
         cycle := 0
         agenda := s.agenda.map fun e => (e.1 - s.cycle, e.2)
         terms := t })

/-- R235: P := used is written for every handle. DESIGN CHOICE, log 72. -/
def execOrderlyShutdown (s : State) : Out :=
  .next { s with terms := { s.terms with
    handles := s.terms.handles.map fun e => (e.1, e.2.map fun (h : Handle) => { h with p := h.used })
    clockSaved := s.tclock
    alive := false } }

/-- R309: device reset. Unless a shutdown in order came before, it is a power loss to the terms unit
(R235). DESIGN CHOICE, log 72. -/
def execDeviceReset (s : State) : Out := .next s.wipe.comeUp

/-- R309: a life-cycle change, refused while any terms handle is INSTALLED. The row keeps the identity key and the
counts of R235 (the statement serial among them), not the clock. -/
def execLifeCycleChange (s : State) : Out :=
  .next
    (if s.terms.handles.any fun e => e.2.isSome then s
     else
       let s1 := s.wipe
       State.comeUp { s1 with
         terms := { s1.terms with clockBase := 0, synced := false, clockSaved := 0 }
         host := { s1.host with enrolled := false } })

/-- R313: where both firmware images have verified, bring-up ends: the host link and the Roard Link ports are enabled,
and mailbox commands no longer answer BUSY. DESIGN CHOICE, log 101. -/
def execBringUpComplete (s : State) : Out :=
  .next
    (if Config.firmwareVerified = true ∧ Config.geckoVerified = true then
      { s with host := { s.host with ready := true, link := .up } }
    else s)

/-! ### Checks on memory (R311, R312) -/

/-- Where an error strikes, it leaves poison behind (R311, R312). -/
def State.poisonAt (s : State) : ErrPlace → State
  | .line n => if n ∈ s.poison then s else { s with poison := s.poison ++ [n] }
  | .tile c th j => s.updTile c th fun t => if j ∈ t.poison then t else { t with poison := t.poison ++ [j] }
  | .acc c row => s.updCtx c fun x => if row ∈ x.accBad then x else { x with accBad := x.accBad ++ [row] }
  | .reg c r => s.updCtx c fun x =>
    if r ∈ x.regBad ∨ RegId.tracked r = false then x else { x with regBad := x.regBad ++ [r] }
  | .text cl h l => s.updCluster cl fun k =>
    if (h, l) ∈ k.textBad then k else { k with textBad := k.textBad ++ [(h, l)] }

/-- The partition whose log records what strikes a context's share of the SRAMs, none for a free slot. -/
def State.holder (s : State) (c : Nat) : Nat := if (s.ctx c).occupied then (s.ctx c).part else hostSpace

/-- The number of a register among those of its kind. -/
def RegId.number : RegId → Nat
  | .s n | .v n => n.toNat
  | .p n => n.toNat
  | .fmt => 0

/-- The partition, the address and the requester of the record of an error. DESIGN CHOICE, log 100. -/
def State.errorAt (s : State) : ErrPlace → Nat × Nat × Nat
  | .line n => ((linePlace n).1, (linePlace n).2, (linePlace n).1 % 16)
  | .tile c th j =>
    (s.holder c, (match s.tile c th with | some t => (t.addrOf (128 * j)).toNat | none => 0),
      reqOfCtx (s.holder c % 16) c)
  | .acc c row => (s.holder c, row, reqOfCtx (s.holder c % 16) c)
  | .reg c r => (s.holder c, r.number, reqOfCtx (s.holder c % 16) c)
  | .text cl _ l =>
    let p := match (s.cluster cl).cond with | .held p => p | _ => hostSpace
    (p, 128 * l, p % 16 + cl * 2 ^ 16)

/-- An error is found: a corrected one is recorded (kind 2); an uncorrected one is recorded (kind 3) and poisons the
place (R304, R311, R312). DESIGN CHOICE, log 100. -/
def State.takeError (s : State) (e : MemErr) : State :=
  let kind := if e.uncorrected then 3 else 2
  let w := s.errorAt e.place
  let s1 := if w.1 < hostSpace ∧ (s.part w.1).live = true then s.addLog w.1 kind 0 w.2.1 w.2.2 e.syndrome.toNat
    else s.addDevLog kind w.2.1 w.2.2 e.syndrome.toNat
  if e.uncorrected then s1.poisonAt e.place else s1

/-- The errors that have struck by now are found (R311). DESIGN CHOICE, log 100. -/
def State.errorsStrike (s : State) : State :=
  let due := fun (e : MemErr) => decide (e.at_ ≤ s.cycle)
  (s.errors.filter due).foldl State.takeError { s with errors := s.errors.filter fun e => !due e }

end Sys2Proof.Machine
end

