-- ==== Sys2Proof/Machine/Moult.lean ====
section
/-!
DEFINITION. Partitions: creation, destruction, status, and the resize protocol Moult (R268 to R283, R300,
R304 to R307).
-/
namespace Sys2Proof.Machine

open Sys2Proof

/-! ### Layout blocks and policies (R270, R272, R273, R305) -/

/-- A layout block (R273). -/
structure Layout where
  part : Nat
  flags : Nat
  n : Nat
  timeout : Nat
  clusters : BitVec 64
  slices : BitVec 96
  M : Nat
  vfs : BitVec 128
  map : Nat
  policy : Nat
  raw : List Byte
  deriving DecidableEq, Repr

/-- DEDUCED, log 26. -/
def State.layout (s : State) (a : DWord) : Layout :=
  let l := s.hostBytes a.toNat 128
  { part := fieldAt l 0 1, flags := fieldAt l 1 1, n := fieldAt l 2 1, timeout := fieldAt l 4 4,
    clusters := BitVec.ofNat 64 (fieldAt l 8 8), slices := BitVec.ofNat 96 (fieldAt l 16 12),
    M := fieldAt l 32 8, vfs := BitVec.ofNat 128 (fieldAt l 40 16), map := fieldAt l 56 8,
    policy := fieldAt l 64 8, raw := l }

/-- The placement map at an address of host memory (R270). DEDUCED, log 26. -/
def State.readMap (s : State) (a : Nat) : Store (BitVec 16) :=
  Store.put 0 [] 0 ((List.range 512).map fun i =>
    BitVec.ofNat 16 (leNat (s.rdBytes (keyOf hostSpace (a + 2 * i)) 2)))

/-- A placement map is valid for n virtual clusters and a grant (R270). -/
def mapOk (m : Store (BitVec 16)) (n : Nat) (clusters : BitVec 64) : Bool :=
  m.all fun e =>
    decide (e.2.extractLsb' 11 4 = 0) && decide (e.2.extractLsb' 6 2 = 0) &&
      (!e.2.getLsbD 15 ||
        (decide (e.1 / 8 < n) && clusters.getLsbD (e.2.extractLsb' 0 6).toNat))

/-- Layout and map of a command that lays out a grant (R273). -/
def State.layoutOk (s : State) (a : DWord) (g : Layout) (create : Bool) (n : Nat) : Bool :=
  decide (a.toNat % 128 = 0) && decide (g.part ≤ 15) && decide (g.flags < 2) &&
    (if create then decide (1 ≤ g.n ∧ g.n ≤ 64) && decide (g.M ≠ 0 ∧ g.M % 2097152 = 0) &&
        decide (g.policy % 128 = 0)
      else decide (g.n = 0 ∧ g.M = 0 ∧ g.vfs = 0 ∧ g.policy = 0)) &&
    zeroAt g.raw 3 1 && zeroAt g.raw 28 4 && zeroAt g.raw 72 56 && decide (g.clusters ≠ 0) &&
    decide (g.slices ≠ 0) && decide (g.map % 1024 = 0) && mapOk (s.readMap g.map) n g.clusters

/-- The policy object (R305). -/
def policyOf (l : List Byte) : Policy :=
  { cls := fieldAt l 6 1, maxParts := fieldAt l 7 1, clusters := BitVec.ofNat 64 (fieldAt l 8 8),
    slices := BitVec.ofNat 96 (fieldAt l 0x10 12), minC := fieldAt l 0x1c 1, maxC := fieldAt l 0x1d 1,
    minS := fieldAt l 0x1e 1, maxS := fieldAt l 0x1f 1, tenant := digestAt l 0x20,
    logKey := Config.sha3 ((l.drop 0x60).take 1184), body := Config.sha3 (l.take 0x500),
    generation := 1 }

/-- A policy whose signature, made with the enrolled device owner's key, is valid (R305). DEDUCED, log 58. -/
def State.policySigned (s : State) (l : List Byte) : Bool :=
  let key := (l.drop 0x520).take 1312
  s.host.enrolled && decide (fieldAt l 0 4 = 0x594c4f50) && decide (fieldAt l 4 2 = 1) &&
    decide (fieldAt l 6 1 ≤ 1) && decide (fieldAt l 7 1 ≤ 16) && zeroAt l 0x40 32 &&
    zeroAt l 0x13b4 76 && decide (key = Config.ownerKey) &&
    decide (Config.sha3 key = digestAt l 0x500) &&
    Config.mldsaVerify key (l.take 0x500) ((l.drop 0xa40).take 2420)

def countBits {w : Nat} (m : BitVec w) : Nat := (selected m).length

/-- A layout lies within a policy (R305). -/
def Policy.admits (y : Policy) (clusters : BitVec 64) (slices : BitVec 96) : Bool :=
  decide (clusters &&& ~~~ y.clusters = 0) && decide (slices &&& ~~~ y.slices = 0) &&
    decide (y.minC ≤ countBits clusters ∧ countBits clusters ≤ y.maxC) &&
    decide (y.minS ≤ countBits slices ∧ countBits slices ≤ y.maxS)

/-- R272, with 6 GB = 6,000,000,000 bytes. -/
def memoryFits (slices : BitVec 96) (M : Nat) : Bool :=
  let k := countBits slices
  decide (k ≠ 0) && decide ((65536 + k - 1) / k * M ≤ 65536 * 6000000000)

/-- Every cluster and slice of a set is free (R268, R310). -/
def State.allFree (s : State) (clusters : BitVec 64) (slices : BitVec 96) : Bool :=
  ((selected clusters).all fun k =>
    decide ((s.cluster k).cond = .free) && !s.host.badClusters.getLsbD k) &&
    (selected slices).all fun k =>
      decide ((s.slice k).cond = .free) && !s.host.badSlices.getLsbD k

/-- Partitions that exist. -/
def State.liveParts (s : State) : List Part := (s.parts.map Prod.snd).filter Part.live

/-- One more partition breaks no limit, its own included (R305). DEDUCED, log 58. -/
def State.roomForPart (s : State) (y : Policy) : Bool :=
  let n := s.liveParts.length + 1
  (y :: s.liveParts.map Part.policy).all fun q => decide (q.maxParts = 0 ∨ n ≤ q.maxParts)

/-! ### Scrubs (R274, R300) -/

/-- Forget a whole address space. -/
def State.wipeSpace (s : State) (space : Nat) : State :=
  { s with
    mem := s.mem.filter fun e => decide (e.1 / 2 ^ 64 ≠ space)
    tags := s.tags.filter fun e => decide ((linePlace e.1).1 ≠ space)
    poison := s.poison.filter fun l => decide ((linePlace l).1 ≠ space) }

/-- Zero the SRAMs of a cluster, its register files among them, and give it a condition. Commands that outlive their
contexts go on. -/
def State.scrubCluster (s : State) (cl : Nat) (cond : Cond) : State :=
  let s1 := (List.range 8).foldl (fun s i => s.updCore (cl * 8 + i) fun k =>
    { Core.reset with journal := k.journal }) s
  let s2 := s1.wipeSpace (geckoSpace cl)
  State.setCluster { s2 with ctxs := s2.ctxs.filter fun e => decide (clusterOf e.1 ≠ cl) } cl
    { Cluster.reset with cond := cond }

/-- A resource that changes hands is in transit (R268). -/
def State.sliceCond (s : State) (k : Nat) (cond : Cond) : State := s.setSlice k { s.slice k with cond := cond }

/-- A bump of a slice's channels (R300). -/
def Slice.bump (x : Slice) : Slice := ⟨.transit, x.gen + 1, if x.bumps + 1 = 15 then 0 else x.bumps + 1⟩

/-- Every line of a slice's channels is zero with the new tag (R300). -/
def State.zeroSlice (s : State) (k : Nat) : State :=
  let here := fun (line : Nat) =>
    decide ((linePlace line).1 < hostSpace ∧ (s.part (linePlace line).1).home (linePlace line).2 = some k)
  { s with
    mem := s.mem.filter fun e => !here (e.1 / 128)
    tags := s.tags.filter fun e => !here e.1 }

/-- A slice in transit is bumped; the bump that brings the count to 15 zeroes its channels (R300). -/
def State.bumpSlice (s : State) (k : Nat) : State :=
  let s1 := if (s.slice k).bumps + 1 = 15 then s.zeroSlice k else s
  s1.setSlice k (s.slice k).bump

/-- A slice in transit goes through the scrub of a COMMIT and has its condition (R274). -/
def State.scrubSlice (s : State) (k : Nat) (cond : Cond) : State := (s.bumpSlice k).sliceCond k cond

/-! ### Evidence and logs (R304, R306) -/

/-- The evidence of a partition (R306). -/
def State.evidence (s : State) (p : Nat) : List Byte :=
  let y := (s.part p).policy
  let body := leBytes 4 0x44495645 ++ leBytes 4 (1 + p * 65536) ++ leBytes 8 0 ++
    digestBytes Config.deviceDigest ++ digestBytes Config.firmwareDigest ++ digestBytes y.body ++
    digestBytes y.tenant ++ leBytes 8 y.generation ++ leBytes 8 s.tclockWord.toNat ++
    (Config.releaseKey (s.part p).releaseKey).take 1184 ++ leBytes 192 0
  body ++ Config.mldsaSign body

/-- A new generation: a key-release key and a log key that take the place of the old ones, the log key's header and
evidence (R304, R306, R307). DESIGN CHOICE, log 98. -/
def State.renewTrust (s : State) (p : Nat) : State :=
  let s1 := State.updPart { s with keys := s.keys + 2 } p fun P =>
    { P with releaseKey := s.keys + 1, logKey := s.keys + 2 }
  let P := s1.part p
  let T := P.ownedFrom
  (s1.wrBytes (keyOf p (T + 0x4000)) ((Config.logHeader P.policy.logKey P.logKey).take 1088 ++ leBytes 64 0)
    ).wrBytes (keyOf p (T + 0xf000)) (s1.evidence p)

/-! ### PART_CREATE, PART_STATUS, PART_DESTROY (R273) -/

/-- The arrival of a cluster: Gecko loads the texts of the partition's images into its instruction store (R14, R274). -/
def State.loadTexts (s : State) (p cl : Nat) : State :=
  (s.part p).images.foldl (fun s e =>
    match e.2 with
    | some g => s.updCluster cl fun k => k.loadText e.1 g.text
    | none => s) s

/-- The device takes up a command that it will answer later (R289). -/
def State.takeUp (s : State) (fn : Nat) : State := s.setMail fn { s.mail fn with taken := true, waits := none }

/-- The next open duration, at most `n` cycles. DESIGN CHOICE, log 3. -/
def State.within (s : State) (n : Nat) : Nat × State := (min s.nextDelay n, { s with delays := s.delays.drop 1 })

/-- Grant a new partition (R246, R269, R273, R300, R302). -/
def State.createPart (s : State) (g : Layout) (y : Policy) (fn : Nat) : State :=
  let p := g.part
  let s1 := (selected g.clusters).foldl (fun s k => s.scrubCluster k (.held p)) (s.wipeSpace p)
  let s2 := (selected g.slices).foldl (fun s k =>
    s.setSlice k { s.slice k with cond := .held p, bumps := 0 }) s1
  let P : Part :=
    { Part.reset with
      live := true
      n := g.n
      M := g.M
      vfs := g.vfs
      clusters := g.clusters
      slices := g.slices
      map := s.readMap g.map
      policy := y
      dataKey := s.keys + 1 }
  ((State.setPart { s2 with keys := s.keys + 1 } p P).renewTrust p).reply fn stOk 0

/-- R273. DEDUCED, log 58. -/
def execPartCreate (fn : Nat) (block : DWord) (s : State) : Out :=
  .next (s.physCommand fn (.partCreate fn block)
    (let g := s.layout block
     let pol := s.hostBytes g.policy 5120
     let y := policyOf pol
     s.checked fn
       [(s.layoutOk block g true g.n, stBadFormat), (s.policySigned pol, stBadSignature),
        (!(s.part g.part).live, stBusy),
        (s.allFree g.clusters g.slices &&
          (s.liveParts.all fun P => decide (P.vfs &&& g.vfs = 0)) && memoryFits g.slices g.M &&
          y.admits g.clusters g.slices && s.roomForPart y, stNoResource)]
       (s.createPart g y fn)))

/-- Phase code (R273). -/
def Phase.code : Phase → Nat
  | .idle => 0 | .prepare => 1 | .quiesce => 2 | .move => 3 | .rehash => 4 | .commit => 5 | .abort => 6

/-- R273: the phase in bits 7:0 of the reply value, the migrated sets in bits 31:8, the policy generation
from bit 32 on. DESIGN CHOICE, log 59, 60. -/
def execPartStatus (fn : Nat) (block : DWord) (s : State) : Out :=
  .next (s.physCommand fn (.partStatus fn block)
    (let P := s.part (s.layout block).part
     let ph := match P.resize with
       | some r => (r.phase.code, r.migrated)
       | none => (0, 0)
     s.checked fn [(P.live, stBadFormat)]
       (s.reply fn stOk (ph.1 + 256 * ph.2 + 2 ^ 32 * P.policy.generation))))

/-- A region of a partition that goes is no longer sealed. DESIGN CHOICE, log 59. -/
def State.dropRegions (s : State) (p : Nat) : State :=
  s.terms.handles.foldl (fun s e =>
    match e.2 with
    | some h =>
      match h.region with
      | some (q, _) => if q = p then s.setHandle e.1 (some { h with region := none, key := 0 }) else s
      | none => s
    | none => s) s

/-- A resize that has everything go: how a partition that is being destroyed goes through COMMIT. -/
def Resize.leaving (m : Store (BitVec 16)) (fn now : Nat) : Resize :=
  { phase := .commit, clusters := 0, slices := 0, newMap := m, timeout := 0, park := false, inPolicy := true, fn := fn,
    moving := [], migrated := 0, started := now, switchTo := none, lockTo := none, late := 0 }

/-- R273: every resource of the partition is in transit, goes through the scrub of COMMIT, and is freed.
DESIGN CHOICE, log 59. -/
def execPartDestroy (fn : Nat) (block : DWord) (s : State) : Out :=
  .next (s.physCommand fn (.partDestroy fn block)
    (let p := (s.layout block).part
     let P := s.part p
     let used := s.ctxs.any fun e => e.2.occupied && decide (e.2.part = p)
     s.checked fn
       [(P.live, stBadFormat), (P.resize.isNone && !used && P.saved.isEmpty, stBusy)]
       (let s1 := (selected P.clusters).foldl (fun s k => s.updCluster k fun c => { c with cond := .transit }) s
        let s2 := (selected P.slices).foldl (fun s k => s.sliceCond k .transit) s1
        ((s2.takeUp fn).updPart p fun P => { P with resize := some (.leaving P.map fn s.cycle) }).after 0
          (.moultCommit p))))

/-! ### REQUEST and PREPARE (R274, R278) -/

/-- Gangs that PARK saves whole: each in turn that has a member which does not fit (R278). -/
def State.parked (s : State) (p : Nat) (newMap : Store (BitVec 16)) : Nat → List Nat → List Nat
  | 0, gs => gs
  | fuel + 1, gs =>
    let P := s.part p
    let changes := fun (x : Ctx) =>
      decide (Store.get 0 P.map (8 * x.vcluster.toNat + x.vcore.toNat) ≠
        Store.get 0 newMap (8 * x.vcluster.toNat + x.vcore.toNat))
    let mine := s.ctxs.filter fun e => e.2.occupied && decide (e.2.part = p)
    let out := mine.filter fun e => changes e.2 || decide (e.2.gang ∈ gs)
    let gone := out.foldl (fun s e => s.setCtx e.1 Ctx.free) s
    let back := (out.map Prod.snd).filter fun x => decide (x.gang ∉ gs)
    match (List.range back.length).find? fun i =>
        (gone.fitAll ((back.take (i + 1)).map fun x => x.goesTo newMap)).isNone with
    | none => gs
    | some i =>
      match back[i]? with
      | some x => s.parked p newMap fuel (gs ++ [x.gang])
      | none => gs

/-- Incoming clusters are zeroed and in transit and their Geckos load the image text; incoming slices' channels are
bumped (R274). The mailbox is free again, though the status comes at COMMIT or ABORT: otherwise no PART_STATUS could
show progress and no second PART_RESIZE could meet BUSY (R273, R274, R283). DESIGN CHOICE, log 107. -/
def State.prepare (s : State) (p : Nat) (r : Resize) : State :=
  let P := s.part p
  let s1 := (selected (r.clusters &&& ~~~ P.clusters)).foldl
    (fun s k => (s.scrubCluster k .transit).loadTexts p k) s
  let s2 := (selected (r.slices &&& ~~~ P.slices)).foldl (fun s k => s.bumpSlice k) s1
  ((s2.freeMail r.fn).updPart p fun P => { P with resize := some r }).after 0 (.moultQuiesce p)

/-- R273, R274: PART_RESIZE. -/
def execPartResize (fn : Nat) (block : DWord) (s : State) : Out :=
  .next (s.physCommand fn (.partResize fn block)
    (let g := s.layout block
     let p := g.part
     let P := s.part p
     let m := s.readMap g.map
     let park := decide (g.flags = 1)
     let r : Resize :=
       { phase := .prepare
         clusters := g.clusters
         slices := g.slices
         newMap := m
         timeout := if g.timeout = 0 then 1000 else g.timeout
         park := park
         inPolicy := P.policy.admits g.clusters g.slices
         fn := fn
         moving := if park then s.parked p m 2048 [] else []
         migrated := 0
         started := s.cycle
         switchTo := none
         lockTo := none
         late := 0 }
     s.checked fn
       [(s.layoutOk block g false (if P.live then P.n else 64), stBadFormat), (P.live && P.resize.isNone, stBusy),
        (s.allFree (g.clusters &&& ~~~ P.clusters) (g.slices &&& ~~~ P.slices) &&
          memoryFits g.slices P.M && (park || s.movesFit p m), stNoResource)]
       (s.prepare p r)))

/-! ### QUIESCE, ABORT (R274, R275, R278) -/

/-- Contexts that have not stopped for the resize. -/
def State.unstopped (s : State) (p : Nat) (r : Resize) : List Nat :=
  (s.ctxs.filter fun e => e.2.occupied && decide (e.2.part = p) &&
    ((s.part p).moves e.2 || decide (e.2.gang ∈ r.moving))).map Prod.fst

/-- Stops go out to the contexts that have to move or whose gang PARK saves, once to each (R275, R278). -/
def State.sendStops (s : State) (p : Nat) (r : Resize) : State :=
  (s.unstopped p r).foldl (fun s c =>
    let k : StopKind := if (s.ctx c).gang ∈ r.moving then .park else .move
    if (s.ctx c).stopReq.any fun q => decide (k ∈ q.kinds) then s else s.askStop c (s.stopFor k)) s

/-- Set the resize of a partition. -/
def State.setResize (s : State) (p : Nat) (r : Resize) : State := s.updPart p fun P => { P with resize := some r }

/-- R274, R275, R278: the scrub is done; stops go out. -/
def execMoultQuiesce (part : Nat) (s : State) : Out :=
  .next
    (match (s.part part).resize with
     | none => s
     | some r =>
       if r.phase ≠ .prepare then s
       else
         (((s.sendStops part r).setResize part { r with phase := .quiesce }).schedule
           (r.timeout * usCycles) (.quiesceTimeout part)).after 0 (.moultMove part))

/-- Restore a context in its place once no busy tile keeps a line of its save area (R160). -/
def State.bringBack (s : State) (p : Nat) (v : Saved) (c : Nat) (b : Nat × Nat) : State :=
  if s.areaBusy p v.area 0 v.ctx.areaSize false then s else s.restore p v c b

/-- A context that the resize has saved to move it. -/
def Saved.isMove (v : Saved) : Bool := decide (v.why = .move)

/-- MOVE: the saved contexts go to the places that are reserved for them under the new map (R274, R276, R278). -/
def State.restoreMoved (s : State) (p : Nat) (m : Store (BitVec 16)) : State :=
  let l := (s.part p).saved.filter Saved.isMove
  match s.fitAll (l.map fun v => v.ctx.goesTo m) with
  | some places => (l.zip places).foldl (fun s e => s.bringBack p e.1 e.2.1 e.2.2) s
  | none => s

/-- ABORT: the saved contexts go back to the places that were kept for them (R274). -/
def State.restoreOld (s : State) (p : Nat) : State :=
  ((s.part p).saved.filter Saved.returns).foldl (fun s v =>
    match s.homeOf v with
    | some b => s.bringBack p v v.from_ b
    | none => s) s

/-- The resize's own reasons go from a stop; another reason stands. -/
def StopReq.callOff (q : StopReq) : Option StopReq :=
  let l := q.kinds.filter fun k => decide (k ≠ .move ∧ k ≠ .park)
  if l = [] then none else some { q with kinds := l }

/-- A cluster that stays after all, or that has arrived: held, with the announcements in force. -/
def State.takeCluster (s : State) (p k : Nat) : State :=
  s.updCluster k fun c => { c with cond := .held p, ann := (s.part p).applied }

/-- ABORT begins: the stops are called off and clusters that had gone into transit are held again (R274). -/
def State.abortResize (s : State) (p : Nat) (r : Resize) : State :=
  let l := s.unstopped p r
  let late := match l with
    | c :: _ => (s.ctx c).vcluster.toNat + 256 * (s.ctx c).vcore.toNat + 65536 * (c % 4)
    | [] => 0
  let s1 := l.foldl (fun s c => s.updCtx c fun x => { x with stopReq := x.stopReq.bind StopReq.callOff }) s
  let s2 := (selected ((s.part p).clusters &&& ~~~ r.clusters)).foldl (fun s k => s.takeCluster p k) s1
  (s2.setResize p { r with phase := .abort, late := late }).after 0 (.quiesceTimeout p)

/-- ABORT: the saved contexts return to their old places; once all have, the incoming resources are scrubbed and the
reply is TIMEOUT (R274). DESIGN CHOICE, log 60. -/
def State.endAbort (s : State) (p : Nat) (r : Resize) : State :=
  let P := s.part p
  let s1 := s.restoreOld p
  if (s1.part p).saved.any Saved.returns then s1.schedule 1 (.quiesceTimeout p)
  else
    let s2 := (selected (r.clusters &&& ~~~ P.clusters)).foldl (fun s k => s.scrubCluster k .free) s1
    let s3 := (selected (r.slices &&& ~~~ P.slices)).foldl (fun s k => s.scrubSlice k .free) s2
    ((s3.updPart p fun P => { P with resize := none }).tell r.fn stTimeout r.late).after 0 (.gangPlacement p)

/-- R274: the limit of QUIESCE, and ABORT. DESIGN CHOICE, log 60. -/
def execQuiesceTimeout (part : Nat) (s : State) : Out :=
  .next
    (match (s.part part).resize with
     | none => s
     | some r =>
       if r.phase = .quiesce ∧ r.started + r.timeout * usCycles ≤ s.cycle then s.abortResize part r
       else if r.phase = .abort then s.endAbort part r
       else s)

/-! ### MOVE, REHASH, COMMIT (R274, R276, R279, R280, R282) -/

/-- 2 microseconds, the limit of a map switch (R279). -/
def switchCycles : Nat := 2 * usCycles

/-- 8 microseconds, the limit of a migration lock (R280). -/
def lockCycles : Nat := 8 * usCycles

/-- A departing cluster's final batch reaches Chorus, and the cluster is in transit (R263, R276).
DEDUCED, log 61. -/
def State.departCluster (s : State) (p cl : Nat) : State :=
  let b := (s.cluster cl).batch
  let s1 := s.updCluster cl fun k => { k with batch := [], cond := .transit }
  if b = [] then s1
  else
    (s1.updPart p fun P => { P with counts := b.foldl addCount P.counts }).noteChange p

/-- Departing clusters go into transit as their last contexts have been saved (R274, R276). -/
def State.departEmpty (s : State) (p : Nat) (r : Resize) : State :=
  (selected ((s.part p).clusters &&& ~~~ r.clusters)).foldl (fun s k =>
    if (s.cluster k).cond = .held p ∧ (clusterCtxs k).all (fun c => !(s.ctx c).occupied) = true then s.departCluster p k
    else s) s

/-- The placement map has switched: arriving clusters are held, and gangs that PARK has saved may return (R274, R278,
R279). DEDUCED, log 61. -/
def State.switchMap (s : State) (p : Nat) (r : Resize) : State :=
  let s1 := (selected (r.clusters &&& ~~~ (s.part p).clusters)).foldl
    (fun s k => (s.takeCluster p k).loadTexts p k) s
  s1.updPart p fun P =>
    { P with
      map := r.newMap
      saved := P.saved.map fun v => if v.why = .park then { v with why := .preempt } else v
      resize := some { r with switchTo := none } }

/-- R274, R276, R279: once every moving context is saved, the map switches, within 2 microseconds, and they are
restored. DEDUCED, log 61. -/
def execMoultMove (part : Nat) (s : State) : Out :=
  .next
    (match (s.part part).resize with
     | none => s
     | some r =>
       if r.phase = .quiesce then
         let t := (s.sendStops part r).departEmpty part r
         if t.unstopped part r ≠ [] then t.schedule 1 (.moultMove part)
         else
           let d := t.within switchCycles
           (d.2.setResize part { r with phase := .move, switchTo := some (s.cycle + d.1) }).schedule d.1
             (.moultMove part)
       else if r.phase = .move ∧ r.switchTo.getD 0 ≤ s.cycle then
         let t := if r.switchTo.isSome then s.switchMap part r else s
         let u := t.restoreMoved part r.newMap
         if (u.part part).saved.any Saved.isMove then u.schedule 1 (.moultMove part)
         else (u.schedule 0 (.gangPlacement part)).after 0 (.moultRehash part)
       else s)

/-- MOVE has ended: the map has switched and every context is restored (R274). -/
def Part.moved (P : Part) (r : Resize) : Bool :=
  decide (r.phase = .move) && r.switchTo.isNone && !P.saved.any Saved.isMove

/-- R279, R280: when the slices change, a map switch opens the dual-hash window; the incoming slices are held from
then on. -/
def execMoultRehash (part : Nat) (s : State) : Out :=
  .next
    (match (s.part part).resize with
     | none => s
     | some r =>
       if (s.part part).moved r = false then s
       else if r.slices = (s.part part).slices then s.after 0 (.moultCommit part)
       else
         let s1 := (selected (r.slices &&& ~~~ (s.part part).slices)).foldl (fun s k => s.sliceCond k (.held part)) s
         let d := s1.within switchCycles
         (d.2.setResize part { r with phase := .rehash, migrated := 0, switchTo := some (s.cycle + d.1) }).schedule d.1
           (.rehashSetMigrate part))

/-- The home of a set under a list of slices (R271). -/
def setHome (mask : BitVec 96) (h : Nat) : Option Nat :=
  let l := slicesOf mask
  l[h % l.length]?

/-- A lock that has to go: every locker's quota is credited (R280). DEDUCED, log 78. -/
def State.dropLock (s : State) (line : Nat) : State :=
  let who := (s.locks.filter fun l => decide (l.line = line)).map Lock.ctx
  let credit := fun (x : Ctx) => if x.identity ∈ who then { x with locked := x.locked - 128 } else x
  { s with
    locks := s.locks.filter fun l => decide (l.line ≠ line)
    ctxs := s.ctxs.map fun e => (e.1, credit e.2)
    parts := s.parts.map fun e =>
      (e.1, { e.2 with saved := e.2.saved.map fun v => { v with ctx := credit v.ctx } }) }

/-- Locked lines that have moved keep their locks, but where that would take the last unlocked way of a set (R280).
DEDUCED, log 78. -/
def State.keepLocks (s : State) : List Nat → State
  | [] => s
  | l :: t =>
    let others := (s.lockedIn (s.setOf l)).filter fun m => decide (m ≠ l ∧ m ∉ t)
    (if others.length + 1 < l2Ways then s else s.dropLock l).keepLocks t

/-- A set moves to its new home: each of its lines with its bytes and the new home's tag, a stale one as zeros, and its
locks (R280, R300). DEDUCED, log 78, 99. -/
def State.moveSet (s : State) (p : Nat) (r : Resize) : State :=
  let h := r.migrated
  let mine := fun (line : Nat) => decide ((linePlace line).1 = p ∧ hashOf (linePlace line).2 = h)
  let gen := ((setHome r.slices h).map fun k => (s.slice k).gen.toNat).getD 0
  let s1 : State := { s with
    mem := s.mem.filter fun e => !mine (e.1 / 128) || s.current (e.1 / 128)
    tags := s.tags.map fun e => if mine e.1 then (e.1, gen + 1) else e }
  (s1.setResize p { r with migrated := h + 1, lockTo := none }).keepLocks
    ((s.locks.map Lock.line).filter mine).eraseDups

/-- The walker goes on with the next set, or the rehash has ended. -/
def State.walkOn (s : State) (p h : Nat) : State :=
  if h + 1 = 65536 then s.after 0 (.moultCommit p) else s.after 0 (.rehashSetMigrate p)

/-- R280: the walker migrates one rehash set. One that changes its home is locked, for at most 8 microseconds, and
moves with its lines' contents, directory entries and locks. DEDUCED, log 78. -/
def execRehashSetMigrate (part : Nat) (s : State) : Out :=
  .next
    (match (s.part part).resize with
     | none => s
     | some r =>
       if r.phase ≠ .rehash ∨ 65536 ≤ r.migrated ∨ s.cycle < r.switchTo.getD 0 then s
       else if setHome (s.part part).slices r.migrated = setHome r.slices r.migrated then
         (s.setResize part { r with migrated := r.migrated + 1 }).walkOn part r.migrated
       else
         match r.lockTo with
         | none =>
           let d := s.within lockCycles
           (d.2.setResize part { r with lockTo := some (s.cycle + d.1) }).schedule d.1 (.rehashSetMigrate part)
         | some t => if s.cycle < t then s else (s.moveSet part r).walkOn part r.migrated)

/-- COMMIT begins, with the map switch that closes the window: departing slices are in transit (R274, R280). -/
def State.startCommit (s : State) (p : Nat) (r : Resize) : State :=
  let P := s.part p
  let s1 := (selected (P.slices &&& ~~~ r.slices)).foldl (fun s k => s.sliceCond k .transit) s
  let d := if r.slices = P.slices then (0, s1) else s1.within switchCycles
  (d.2.setResize p { r with phase := .commit, switchTo := some (s.cycle + d.1) }).after d.1 (.moultCommit p)

/-- The scrub of COMMIT: departing slices' channels are bumped, departing clusters' SRAMs zeroed, and all of them are
free (R274, R300). -/
def State.scrubLeaving (s : State) (p : Nat) (r : Resize) : State :=
  let P := s.part p
  let s1 := (selected (P.slices &&& ~~~ r.slices)).foldl (fun s k => s.scrubSlice k .free) s
  (selected (P.clusters &&& ~~~ r.clusters)).foldl (fun s k => s.scrubCluster k .free) s1

/-- A destroyed partition is gone, with its keys (R273, R302, R307). DESIGN CHOICE, log 59. -/
def State.endPart (s : State) (p : Nat) (r : Resize) : State :=
  ((((s.scrubLeaving p r).wipeSpace p).dropRegions p).setPart p Part.reset).reply r.fn stOk 0

/-- COMMIT: the new layout stands, a new policy generation where it lies outside the policy, and the reply is OK (R274,
R282, R305). DEDUCED, log 61. -/
def State.endResize (s : State) (p : Nat) (r : Resize) : State :=
  let P := s.part p
  let s1 := (s.scrubLeaving p r).updPart p fun P =>
    { P with
      clusters := r.clusters
      slices := r.slices
      resize := none
      policy := if r.inPolicy then P.policy else { P.policy with generation := P.policy.generation + 1 } }
  let s2 := if r.inPolicy then s1 else s1.renewTrust p
  let late := (selected (r.clusters &&& ~~~ P.clusters)).any fun k => decide ((s2.cluster k).batch ≠ [])
  let s3 := if late then s2.noteChange p else s2
  (s3.tell r.fn stOk 0).after 0 (.gangPlacement p)

/-- R274, R282: COMMIT. -/
def execMoultCommit (part : Nat) (s : State) : Out :=
  .next
    (match (s.part part).resize with
     | none => s
     | some r =>
       let P := s.part part
       if r.phase = .commit then
         if s.cycle < r.switchTo.getD 0 then s
         else if r.clusters = 0 then s.endPart part r
         else s.endResize part r
       else if if r.slices = P.slices then P.moved r else decide (r.phase = .rehash ∧ r.migrated = 65536) then
         s.startCommit part r
       else s)

end Sys2Proof.Machine
end

