-- ==== Sys2Proof/Machine/Scalar.lean ====
section
/-!
DEFINITION. Integer instructions of the SA and SB slots (R113 to R117).
-/
namespace Sys2Proof.Machine

open Sys2Proof

/-- The NOP of SA: as an absent slot (R19). -/
def execNopSa (s : State) : Out := .next s
/-- The NOP of SB: as an absent slot (R19). -/
def execNopSb (s : State) : Out := .next s

/-- 1 or 0 (R113). -/
def bit64 (b : Bool) : DWord := if b then 1 else 0

/-! ### OPR (R113, R114) -/

/-- R113. -/
def execAdd (d a b : BitVec 6) (s : State) : Out := .next (s.setS d (s.opS a + s.opS b) 1)
/-- R113. -/
def execSub (d a b : BitVec 6) (s : State) : Out := .next (s.setS d (s.opS a - s.opS b) 1)
/-- R113. -/
def execAnd (d a b : BitVec 6) (s : State) : Out := .next (s.setS d (s.opS a &&& s.opS b) 1)
/-- R113. -/
def execOr (d a b : BitVec 6) (s : State) : Out := .next (s.setS d (s.opS a ||| s.opS b) 1)
/-- R113. -/
def execXor (d a b : BitVec 6) (s : State) : Out := .next (s.setS d (s.opS a ^^^ s.opS b) 1)
/-- R113. -/
def execAndn (d a b : BitVec 6) (s : State) : Out := .next (s.setS d (s.opS a &&& ~~~ s.opS b) 1)

/-- Shift amount b[5:0] (R113). -/
def shAmt (b : DWord) : Nat := b.toNat % 64

/-- R113. -/
def execShl (d a b : BitVec 6) (s : State) : Out := .next (s.setS d (s.opS a <<< shAmt (s.opS b)) 1)
/-- R113. -/
def execShr (d a b : BitVec 6) (s : State) : Out := .next (s.setS d (s.opS a >>> shAmt (s.opS b)) 1)
/-- R113. -/
def execSra (d a b : BitVec 6) (s : State) : Out :=
  .next (s.setS d ((s.opS a).sshiftRight (shAmt (s.opS b))) 1)

/-- R113, R128. -/
def execMul (d a b : BitVec 6) (s : State) : Out := .next (s.setS d (s.opS a * s.opS b) 3)

/-- High half of the signed product (R113). -/
def mulHigh (a b : DWord) : DWord := (a.signExtend 128 * b.signExtend 128).extractLsb' 64 64
/-- High half of the unsigned product (R113). -/
def mulHighU (a b : DWord) : DWord := (a.setWidth 128 * b.setWidth 128).extractLsb' 64 64

/-- R113, R128. -/
def execMulh (d a b : BitVec 6) (s : State) : Out :=
  .next (s.setS d (mulHigh (s.opS a) (s.opS b)) 3)
/-- R113, R128. -/
def execMulhu (d a b : BitVec 6) (s : State) : Out :=
  .next (s.setS d (mulHighU (s.opS a) (s.opS b)) 3)

/-- Signed quotient truncated towards zero, with the cases of R114. -/
def divS (a b : DWord) : DWord := if b = 0 then BitVec.allOnes 64 else a.sdiv b
/-- R114. -/
def divU (a b : DWord) : DWord := if b = 0 then BitVec.allOnes 64 else a.udiv b
/-- Signed remainder with the sign of a (R113, R114). -/
def remS (a b : DWord) : DWord := if b = 0 then a else a.srem b
/-- R114. -/
def remU (a b : DWord) : DWord := if b = 0 then a else a.umod b

/-- A quotient or remainder lands after 4 to 66 cycles, which of them is open (R128). -/
def State.setDiv (s : State) (d : BitVec 6) (v : DWord) : State :=
  { s with delays := s.delays.drop 1 }.setS d v (4 + s.nextDelay % 63)

/-- R113, R114. -/
def execDiv (d a b : BitVec 6) (s : State) : Out := .next (s.setDiv d (divS (s.opS a) (s.opS b)))
/-- R113, R114. -/
def execDivu (d a b : BitVec 6) (s : State) : Out := .next (s.setDiv d (divU (s.opS a) (s.opS b)))
/-- R113, R114. -/
def execRem (d a b : BitVec 6) (s : State) : Out := .next (s.setDiv d (remS (s.opS a) (s.opS b)))
/-- R113, R114. -/
def execRemu (d a b : BitVec 6) (s : State) : Out := .next (s.setDiv d (remU (s.opS a) (s.opS b)))

/-- R113. -/
def execMin (d a b : BitVec 6) (s : State) : Out :=
  .next (s.setS d (if (s.opS a).slt (s.opS b) then s.opS a else s.opS b) 1)
/-- R113. -/
def execMax (d a b : BitVec 6) (s : State) : Out :=
  .next (s.setS d (if (s.opS a).slt (s.opS b) then s.opS b else s.opS a) 1)
/-- R113. -/
def execMinu (d a b : BitVec 6) (s : State) : Out :=
  .next (s.setS d (if (s.opS a).ult (s.opS b) then s.opS a else s.opS b) 1)
/-- R113. -/
def execMaxu (d a b : BitVec 6) (s : State) : Out :=
  .next (s.setS d (if (s.opS a).ult (s.opS b) then s.opS b else s.opS a) 1)
/-- R113. -/
def execSlt (d a b : BitVec 6) (s : State) : Out :=
  .next (s.setS d (bit64 ((s.opS a).slt (s.opS b))) 1)
/-- R113. -/
def execSltu (d a b : BitVec 6) (s : State) : Out :=
  .next (s.setS d (bit64 ((s.opS a).ult (s.opS b))) 1)
/-- R113. -/
def execSeq (d a b : BitVec 6) (s : State) : Out :=
  .next (s.setS d (bit64 (decide (s.opS a = s.opS b))) 1)
/-- R113. -/
def execSne (d a b : BitVec 6) (s : State) : Out :=
  .next (s.setS d (bit64 (decide (s.opS a ≠ s.opS b))) 1)

/-- Clear bits below the lowest set bit of the low `n` bits; `n` when there is none. -/
def lowZeros (f : Nat → Bool) : Nat → Nat → Nat
  | 0, k => k
  | n + 1, k => if f k then k else lowZeros f n (k + 1)

/-- Trailing zero bits; 64 for 0 (R113). -/
def ctz64 (a : DWord) : Nat := lowZeros (fun k => a.getLsbD k) 64 0
/-- Leading zero bits; 64 for 0 (R113). -/
def clz64 (a : DWord) : Nat := lowZeros (fun k => a.getLsbD (63 - k)) 64 0
/-- Set bits (R113). -/
def popc64 (a : DWord) : Nat := (List.range 64).countP fun k => a.getLsbD k

/-- R113. -/
def execClz (d a : BitVec 6) (s : State) : Out :=
  .next (s.setS d (BitVec.ofNat 64 (clz64 (s.opS a))) 1)
/-- R113. -/
def execCtz (d a : BitVec 6) (s : State) : Out :=
  .next (s.setS d (BitVec.ofNat 64 (ctz64 (s.opS a))) 1)
/-- R113. -/
def execPopc (d a : BitVec 6) (s : State) : Out :=
  .next (s.setS d (BitVec.ofNat 64 (popc64 (s.opS a))) 1)

/-! ### Immediates (R115, R116) -/

/-- R115. -/
def execAddi (d a : BitVec 6) (imm : BitVec 16) (s : State) : Out :=
  .next (s.setS d (s.opS a + sxImm imm) 1)
/-- R115. -/
def execAndi (d a : BitVec 6) (imm : BitVec 16) (s : State) : Out :=
  .next (s.setS d (s.opS a &&& zxImm imm) 1)
/-- R115. -/
def execOri (d a : BitVec 6) (imm : BitVec 16) (s : State) : Out :=
  .next (s.setS d (s.opS a ||| zxImm imm) 1)
/-- R115. -/
def execXori (d a : BitVec 6) (imm : BitVec 16) (s : State) : Out :=
  .next (s.setS d (s.opS a ^^^ zxImm imm) 1)
/-- R115. -/
def execShli (d a sh : BitVec 6) (s : State) : Out := .next (s.setS d (s.opS a <<< sh.toNat) 1)
/-- R115. -/
def execShri (d a sh : BitVec 6) (s : State) : Out := .next (s.setS d (s.opS a >>> sh.toNat) 1)
/-- R115. -/
def execSrai (d a sh : BitVec 6) (s : State) : Out :=
  .next (s.setS d ((s.opS a).sshiftRight sh.toNat) 1)
/-- R115. -/
def execSlti (d a : BitVec 6) (imm : BitVec 16) (s : State) : Out :=
  .next (s.setS d (bit64 ((s.opS a).slt (sxImm imm))) 1)
/-- R115. -/
def execSltiu (d a : BitVec 6) (imm : BitVec 16) (s : State) : Out :=
  .next (s.setS d (bit64 ((s.opS a).ult (sxImm imm))) 1)
/-- R116. -/
def execLui (d : BitVec 6) (imm : BitVec 22) (s : State) : Out :=
  .next (s.setS d (sxImm imm <<< 12) 1)

/-! ### Three operands (R117) -/

/-- R117. -/
def execSel (d a b c : BitVec 6) (s : State) : Out :=
  .next (s.setS d (if s.opS c ≠ 0 then s.opS a else s.opS b) 1)
/-- R117. -/
def execAdds (d a b sh : BitVec 6) (s : State) : Out :=
  .next (s.setS d (s.opS a + (s.opS b <<< sh.toNat)) 1)

end Sys2Proof.Machine
end

