-- ==== Sys2Proof/Machine/ScalarFp.lean ====
section
/-!
DEFINITION. FP32 instructions of the SA and SB slots (R126, R127).
-/
namespace Sys2Proof.Machine

open Sys2Proof

/-- The FP32 value in bits 31:0 of a scalar (R126). -/
def fpOf (x : DWord) : Ext := f32 (x.toNat % 2 ^ 32)

/-- An FP32 result: bits 63:32 are 0 (R126). -/
def fpRes (f : Word) (x : Ext) : DWord := BitVec.ofNat 64 (FTy.fp32.round (fmtRm f) false x)

/-- R126. -/
def execFadd (d a b : BitVec 6) (s : State) : Out :=
  .next (s.setS d (fpRes s.opFmt (Ext.add (fmtRm s.opFmt) (fpOf (s.opS a)) (fpOf (s.opS b)))) 4)
/-- R126. -/
def execFsub (d a b : BitVec 6) (s : State) : Out :=
  .next (s.setS d (fpRes s.opFmt (Ext.add (fmtRm s.opFmt) (fpOf (s.opS a)) (fpOf (s.opS b)).neg)) 4)
/-- R126. -/
def execFmul (d a b : BitVec 6) (s : State) : Out :=
  .next (s.setS d (fpRes s.opFmt (Ext.mul (fpOf (s.opS a)) (fpOf (s.opS b)))) 4)
/-- R126. -/
def execFmin (d a b : BitVec 6) (s : State) : Out :=
  .next (s.setS d (BitVec.ofNat 64
    (FTy.fp32.min ((s.opS a).toNat % 2 ^ 32) ((s.opS b).toNat % 2 ^ 32))) 4)
/-- R126. -/
def execFmax (d a b : BitVec 6) (s : State) : Out :=
  .next (s.setS d (BitVec.ofNat 64
    (FTy.fp32.max ((s.opS a).toNat % 2 ^ 32) ((s.opS b).toNat % 2 ^ 32))) 4)
/-- R126. -/
def execFcmplt (d a b : BitVec 6) (s : State) : Out :=
  .next (s.setS d (if Ext.lt (fpOf (s.opS a)) (fpOf (s.opS b)) = some true then 1 else 0) 4)
/-- R126. -/
def execFcmple (d a b : BitVec 6) (s : State) : Out :=
  .next (s.setS d (if Ext.lt (fpOf (s.opS b)) (fpOf (s.opS a)) = some false then 1 else 0) 4)
/-- R126. -/
def execFcmpeq (d a b : BitVec 6) (s : State) : Out :=
  .next (s.setS d (if Ext.eq (fpOf (s.opS a)) (fpOf (s.opS b)) then 1 else 0) 4)
/-- R126. -/
def execFcvtif (d a : BitVec 6) (s : State) : Out :=
  .next (s.setS d (fpRes s.opFmt (Ext.ofInt (s.opS a).toInt)) 4)
/-- R126, R65. -/
def execFcvtfi (d a : BitVec 6) (s : State) : Out :=
  .next (s.setS d (BitVec.ofInt 64
    ((fpOf (s.opS a)).toInt (fmtRm s.opFmt) (-(2 ^ 63 : Int)) (2 ^ 63 - 1))) 4)
/-- R126. -/
def execFdiv (d a b : BitVec 6) (s : State) : Out :=
  .next (s.setS d (fpRes s.opFmt (Ext.div (fpOf (s.opS a)) (fpOf (s.opS b)))) 14)
/-- R126. -/
def execFsqrt (d a : BitVec 6) (s : State) : Out :=
  .next (s.setS d (fpRes s.opFmt (fpOf (s.opS a)).sqrt) 14)
/-- R127. -/
def execFma (d a b : BitVec 6) (s : State) : Out :=
  .next (s.setS d (fpRes s.opFmt
    (Ext.add (fmtRm s.opFmt) (fpOf (s.opS d)) (Ext.mul (fpOf (s.opS a)) (fpOf (s.opS b))))) 4)

end Sys2Proof.Machine
end

