-- ==== Sys2Proof/Machine/ScalarMem.lean ====
section
/-!
DEFINITION. Loads, stores, ordered accesses and atomics of the SA and SB slots (R118 to R125).
-/
namespace Sys2Proof.Machine

open Sys2Proof

/-- Detail field of a scalar access (R120): size, write, atomic, ordered. -/
def scalarDetail (lg : Nat) (write atomic ordered : Bool) : DWord :=
  BitVec.ofNat 64 (lg + (if write then 8 else 0) + (if atomic then 16 else 0) +
    if ordered then 32 else 0)

/-- A loaded value of `2^lg` bytes in a register (R118, R122). -/
def extendLoad (lg : Nat) (signed : Bool) (v : Nat) : DWord :=
  if signed then BitVec.ofInt 64 (sval (8 * 2 ^ lg) v) else BitVec.ofNat 64 v

/-- The register that a scalar result is pending for; `s0` is none (R111). -/
def scalarReg (d : BitVec 6) : Option RegId := if d = 0 then none else some (.s d)

/-- Cycles until a value from this place can be used, and whether they are open (R128). -/
def Route.loadTime : Route → Nat × Bool
  | .stash _ _ _ => (6, false)
  | _ => (4, true)

/-- A scalar load of `2^lg` bytes (R118 to R120, R122). Later accesses wait for the value of an acquire. -/
def State.loadScalar (s : State) (d : BitVec 6) (ea : DWord) (lg : Nat) (signed acquire : Bool) :
    State :=
  let detail := scalarDetail lg false false acquire
  if ea.toNat % 2 ^ lg ≠ 0 then s.raise .align (some ea) (some detail)
  else
    let r := s.route s.cur ea true false
    match s.badRoute r ea (some detail) with
    | some t => t
    | none =>
      let v := extendLoad lg signed (s.readAt r (2 ^ lg))
      let s1 := if r = .refused then s.logMine ea else s
      (s1.updMe fun c => c.wrS d v).track (scalarReg d) .load r.isRemote (if acquire then 1 else 0)
        r.loadTime.1 r.loadTime.2

/-- A scalar store of the low `2^lg` bytes of a register (R118 to R120). Later accesses wait until an ordered
one has completed at device scope (R128). -/
def State.storeScalar (s : State) (d : BitVec 6) (ea : DWord) (lg : Nat) (ordered : Bool) : State :=
  let detail := scalarDetail lg true false ordered
  if ea.toNat % 2 ^ lg ≠ 0 then s.raise .align (some ea) (some detail)
  else
    let r := s.route s.cur ea false true
    match s.badRoute r ea (some detail) with
    | some t => t
    | none =>
      let s1 := if r = .refused then s.logMine ea else s.writeAt r (leBytes (2 ^ lg) (s.opS d).toNat)
      s1.track none .store r.isRemote (if ordered then 2 else 0) 1 r.isRemote

/-- R118. -/
def execLdb (d a : BitVec 6) (imm : BitVec 16) (s : State) : Out :=
  .next (s.loadScalar d (s.ea a imm) 0 true false)
/-- R118. -/
def execLdbu (d a : BitVec 6) (imm : BitVec 16) (s : State) : Out :=
  .next (s.loadScalar d (s.ea a imm) 0 false false)
/-- R118. -/
def execLdh (d a : BitVec 6) (imm : BitVec 16) (s : State) : Out :=
  .next (s.loadScalar d (s.ea a imm) 1 true false)
/-- R118. -/
def execLdhu (d a : BitVec 6) (imm : BitVec 16) (s : State) : Out :=
  .next (s.loadScalar d (s.ea a imm) 1 false false)
/-- R118. -/
def execLdw (d a : BitVec 6) (imm : BitVec 16) (s : State) : Out :=
  .next (s.loadScalar d (s.ea a imm) 2 true false)
/-- R118. -/
def execLdwu (d a : BitVec 6) (imm : BitVec 16) (s : State) : Out :=
  .next (s.loadScalar d (s.ea a imm) 2 false false)
/-- R118. -/
def execLdd (d a : BitVec 6) (imm : BitVec 16) (s : State) : Out :=
  .next (s.loadScalar d (s.ea a imm) 3 false false)
/-- R118. -/
def execStb (d a : BitVec 6) (imm : BitVec 16) (s : State) : Out :=
  .next (s.storeScalar d (s.ea a imm) 0 false)
/-- R118. -/
def execSth (d a : BitVec 6) (imm : BitVec 16) (s : State) : Out :=
  .next (s.storeScalar d (s.ea a imm) 1 false)
/-- R118. -/
def execStw (d a : BitVec 6) (imm : BitVec 16) (s : State) : Out :=
  .next (s.storeScalar d (s.ea a imm) 2 false)
/-- R118. -/
def execStd (d a : BitVec 6) (imm : BitVec 16) (s : State) : Out :=
  .next (s.storeScalar d (s.ea a imm) 3 false)

/-- log2 of an access size (R122). -/
def Size.lg (z : Sys2Proof.Size) : Nat :=
  match z with
  | .b => 0 | .h => 1 | .w => 2 | .d => 3

/-- R122: an acquire at device scope; later bundles with memory accesses wait for it. -/
def execLdaq (sz : Sys2Proof.Size) (d a : BitVec 6) (s : State) : Out :=
  .next (s.loadScalar d (s.opS a) (Size.lg sz) false true)

/-- R122: a release at device scope; it stalls until the earlier accesses, those of its own bundle among
them, have completed. -/
def execStrl (sz : Sys2Proof.Size) (d a : BitVec 6) (s : State) : Out :=
  .next (if s.me.openAt 2 then s.stalls else s.storeScalar d (s.opS a) (Size.lg sz) true)

/-! ### Atomics -/

/-- The new value of an AMO at width `n` bits (R123). -/
def amoNew (op : AmoOp) (n old b : Nat) : Nat :=
  match op with
  | .add => (old + b) % 2 ^ n
  | .swp => b
  | .and => old &&& b
  | .or => old ||| b
  | .xor => old ^^^ b
  | .min => if sval n old < sval n b then old else b
  | .max => if sval n old < sval n b then b else old
  | .minu => if old < b then old else b
  | .maxu => if old < b then b else old

/-- The read and the write of an atomic, in one step (R123 to R125). `new` gives the value to write,
or none to write nothing: then the tiles of other clusters that share the line keep it, since R160 has them
give it up to a write (DEDUCED, log 18). The scope says at which completion point a release waits and an acquire
lets later accesses go (R40, R45). -/
def State.atomic (s : State) (d : BitVec 6) (ea : DWord) (dword : Bool) (o : Order) (sys : Bool)
    (new : Nat → Option Nat) : State :=
  let lg := if dword then 3 else 2
  let order := if o = .acq ∨ o = .acqrel then sysStage sys else 0
  let detail := scalarDetail lg true true (decide (o ≠ .rlx))
  if (o = .rel ∨ o = .acqrel) ∧ s.me.openAt (sysStage sys) = true then s.stalls
  else if ea.toNat % 2 ^ lg ≠ 0 then s.raise .align (some ea) (some detail)
  else
    let r := s.route s.cur ea true true
    match s.badRoute r ea (some detail) with
    | some t => t
    | none =>
      let old := s.readAt r (2 ^ lg)
      let s1 :=
        if r = .refused then s.logMine ea
        else
          match new old with
          | some v => s.writeAt r (leBytes (2 ^ lg) v)
          | none => s
      (s1.updMe fun c => c.wrS d (extendLoad lg true old)).track (scalarReg d) .atomic r.isRemote
        order 1 true

/-- Operand of an atomic at its width (R123). -/
def atomOp (dword : Bool) (x : DWord) : Nat := if dword then x.toNat else x.toNat % 2 ^ 32

/-- R123. -/
def execAmo (op : AmoOp) (dword : Bool) (o : Order) (sys : Bool) (d a b : BitVec 6) (s : State) :
    Out :=
  .next (s.atomic d (s.opS a) dword o sys fun old =>
    some (amoNew op (if dword then 64 else 32) old (atomOp dword (s.opS b))))

/-- R124. -/
def execCas (dword : Bool) (o : Order) (sys : Bool) (d a b : BitVec 6) (s : State) : Out :=
  .next (s.atomic d (s.opS a) dword o sys fun old =>
    if old = atomOp dword (s.opS d) then some (atomOp dword (s.opS b)) else none)

end Sys2Proof.Machine
end

