-- ==== Sys2Proof/Machine/Selector.lean ====
section
/-!
DEFINITION. The selector of a core (R80 to R82): which context runs next.
-/
namespace Sys2Proof.Machine

open Sys2Proof

/-- A context that is to stop and stands where it may be stopped issues nothing more (R83). DEDUCED, log 47. -/
def Ctx.stopping (x : Ctx) : Bool := x.stopReq.isSome && x.afterSafe

/-- No context that could issue: none is resident, it is frozen on a fault, or it has been ended (R80, R109, R234). -/
def Ctx.halted (x : Ctx) : Bool := !x.occupied || x.frozen || x.ending.isSome

/-- Ready (R80). Whether the next bundle blocks is kept in `blocked`, which the issue logic renews
whenever it chooses. -/
def Ctx.ready (x : Ctx) : Bool := !x.halted && !x.blocked && !x.stopping

/-- The contexts of a core that are ready. -/
def State.readyOn (s : State) (k : Nat) : List Nat :=
  ((List.range 4).map fun i => 4 * k + i).filter fun c => (s.ctx c).ready

/-- The last selected context of a priority; context 3 at reset (R81). -/
def Core.lastAt (k : Core) (pri : Nat) : Nat := Store.get 3 k.last pri

/-- Round-robin order after a context (R81). -/
def robin (last : Nat) : List Nat := (List.range 4).map fun i => (last + 1 + i) % 4

/-- The lowest number in a list. -/
def lowest : List Nat → Option Nat
  | [] => none
  | x :: t =>
    match lowest t with
    | some y => some (if y < x then y else x)
    | none => some x

/-- The choice of R81. -/
def State.choose (s : State) (k : Nat) : Option Nat :=
  let l := s.readyOn k
  match lowest (l.map fun c => (s.ctx c).pri.toNat) with
  | none => none
  | some p =>
    ((robin ((s.core k).lastAt p)).map fun i => 4 * k + i).find? fun c =>
      decide (c ∈ l) && decide ((s.ctx c).pri.toNat = p)

/-- Choose, when no context runs: the choice takes this cycle, the bubble the next (R81). DEDUCED, log 48. -/
def State.select (s : State) (k : Nat) : State :=
  if (s.core k).running.isSome then s
  else
    match s.choose k with
    | none => s
    | some c =>
      s.updCore k fun r =>
        { r with
          running := some c
          last := Store.set 3 r.last (s.ctx c).pri.toNat (c % 4)
          waitTo := s.cycle + 2
          selAt := s.cycle + 2 }

/-- R81: with no context running, the selector chooses. -/
def execSelectorSwitch (core : Nat) (s : State) : Out := .next (s.select core)

/-- The running context gives way. -/
def State.unselect (s : State) (k : Nat) : State := s.updCore k fun r => { r with running := none }

/-- Cycles of a time slice (R82). DEDUCED, log 48. -/
def sliceCycles : Nat := 8192

/-- R82: a running context that stands at a safe point after a whole time slice gives way to a ready
context of equal or higher priority. DEDUCED, log 48. -/
def execTimeSliceExpiry (core : Nat) (s : State) : Out :=
  .next
    (let k := s.core core
     match k.running with
     | none => s
     | some c =>
       let x := s.ctx c
       if x.afterSafe = true ∧ k.selAt + sliceCycles ≤ s.cycle ∧
           ((s.readyOn core).any fun d => decide (d ≠ c) && decide ((s.ctx d).pri.toNat ≤ x.pri.toNat)) = true
       then
         ((s.updCore core fun r =>
           { r with last := Store.set 3 r.last x.pri.toNat (c % 4) }).unselect core).select core
       else s)

end Sys2Proof.Machine
end

