-- ==== Sys2Proof/Machine/Special.lean ====
section
/-!
DEFINITION. The special functions of the shuffle unit (R184): the exact value of each function, given
as an exact number where it is one and else enclosed between two numbers at rising precision until
both round alike.
-/
namespace Sys2Proof

/-- `n` terms of 2 * atanh(z) = 2 * (z + z^3/3 + ...), below and above; `z` and the result are in
units of 2^-p, `sq` is z^2, `pw` the power reached, `k` its exponent. -/
def atanhLo (p sq : Nat) : Nat → Nat → Nat → Nat → Nat
  | 0, _, _, acc => acc
  | n + 1, pw, k, acc => atanhLo p sq n (pw * sq / 2 ^ p) (k + 2) (acc + 2 * pw / k)

def atanhHi (p sq : Nat) : Nat → Nat → Nat → Nat → Nat
  | 0, pw, _, acc => acc + 2 * pw + 2
  | n + 1, pw, k, acc => atanhHi p sq n (pw * sq / 2 ^ p + 1) (k + 2) (acc + 2 * pw / k + 1)

/-- ln of a number from 1 to 2, given as u / v, in units of 2^-p. -/
def lnFix (p u v : Nat) : Nat × Nat :=
  let zl := (u - v) * 2 ^ p / (u + v)
  let zh := zl + 1
  (atanhLo p (zl * zl / 2 ^ p) (p / 2) zl 1 0, atanhHi p (zh * zh / 2 ^ p + 1) (p / 2) zh 1 0)

/-- ln 2 in units of 2^-p. -/
def ln2Fix (p : Nat) : Nat × Nat := lnFix p 2 1

/-- `n` terms of e^t for t below 1, in units of 2^-p. -/
def expLo (p t : Nat) : Nat → Nat → Nat → Nat → Nat
  | 0, _, _, acc => acc
  | n + 1, term, k, acc => expLo p t n (term * t / 2 ^ p / k) (k + 1) (acc + term)

def expHi (p t : Nat) : Nat → Nat → Nat → Nat → Nat
  | 0, term, _, acc => acc + 2 * term + 2
  | n + 1, term, k, acc => expHi p t n (term * t / 2 ^ p / k + 1) (k + 1) (acc + term)

/-- Square `j` times. -/
def sqLo (p : Nat) : Nat → Nat → Nat
  | 0, x => x
  | j + 1, x => sqLo p j (x * x / 2 ^ p)

def sqHi (p : Nat) : Nat → Nat → Nat
  | 0, x => x
  | j + 1, x => sqHi p j (x * x / 2 ^ p + 1)

/-- e^t for t = a * 2^-b at most 256, in units of 2^-p: the 2^-9 part of it squared nine times. -/
def expFix (p a b : Nat) : Nat × Nat :=
  let t := a * 2 ^ p / 2 ^ (b + 9)
  (sqLo p 9 (expLo p t p (2 ^ p) 1 0), sqHi p 9 (expHi p (t + 1) p (2 ^ p) 1 0))

/-- Precision in bits, then doubled, until both bounds round alike. DEDUCED, log 23. -/
def ziv (t : FTy) (sat : Bool) (f : Nat → Ext × Ext) : Nat → Nat → Nat
  | 0, p => t.round .rne sat (f p).1
  | n + 1, p =>
    let b := f p
    let lo := t.round .rne sat b.1
    if lo = t.round .rne sat b.2 then lo else ziv t sat f n (2 * p)

/-- Round the value enclosed by `f`. DEDUCED, log 23. -/
def enclose (t : FTy) (sat : Bool) (f : Nat → Ext × Ext) : Nat := ziv t sat f 4 128

/-- A number just above or below `2^e`. -/
def nearPow (above : Bool) (e : Int) : Ext :=
  .fin false (if above then 2 ^ 100 + 1 else 2 ^ 100 - 1) (e - 100)

/-- `x` lies below 2^k in magnitude. -/
def smallerThan (m : Nat) (e k : Int) : Bool := decide ((Nat.log2 m : Int) + e < k)

/-- 2^x (R184). DEDUCED, log 23. -/
def specExp2 (t : FTy) (sat : Bool) (x : Ext) : Nat :=
  match x with
  | .nan => t.dnan
  | .inf neg => t.round .rne sat (if neg then .zero false else .inf false)
  | .fin neg m e =>
    if m = 0 then t.round .rne sat (.fin false 1 0)
    else if smallerThan m e (-60) then t.round .rne sat (nearPow (!neg) 0)
    else if !smallerThan m e 9 then t.round .rne sat (.fin false 1 (if neg then -600 else 600))
    else
      -- x = n + f / 2^k with 0 ≤ f < 2^k
      let k := (-e).toNat
      let z : Int := (if neg then -(m : Int) else m) * 2 ^ e.toNat
      let n := z / (2 ^ k : Nat)
      let f := (z % (2 ^ k : Nat)).toNat
      if f = 0 then t.round .rne sat (.fin false 1 n)
      else
        enclose t sat fun p =>
          let l := ln2Fix p
          let lo := f * l.1 / 2 ^ k
          let hi := f * l.2 / 2 ^ k + 1
          (.fin false (expLo p lo p (2 ^ p) 1 0) (n - p), .fin false (expHi p hi p (2 ^ p) 1 0) (n - p))

/-- log2 x (R184). DEDUCED, log 23. -/
def specLog2 (t : FTy) (sat : Bool) (x : Ext) : Nat :=
  match x with
  | .nan => t.dnan
  | .inf neg => if neg then t.dnan else t.round .rne sat (.inf false)
  | .fin neg m e =>
    if m = 0 then t.round .rne sat (.inf true)
    else if neg then t.dnan
    else
      let b := Nat.log2 m
      let n : Int := b + e
      if m = 2 ^ b then t.round .rne sat (Ext.ofInt n)
      else
        enclose t sat fun p =>
          let y := lnFix p m (2 ^ b)
          let l := ln2Fix p
          let lo : Int := n * 2 ^ p + (y.1 * 2 ^ p / l.2 : Nat)
          let hi : Int := n * 2 ^ p + (y.2 * 2 ^ p / l.1 + 1 : Nat)
          (.fin (decide (lo < 0)) lo.natAbs (-p), .fin (decide (hi < 0)) hi.natAbs (-p))

/-- 1 / x (R184). DEDUCED, log 23. -/
def specRcp (t : FTy) (sat : Bool) (x : Ext) : Nat :=
  t.round .rne sat (Ext.div (.fin false 1 0) x)

/-- sqrt x (R184). DEDUCED, log 23. -/
def specSqrt (t : FTy) (sat : Bool) (x : Ext) : Nat := t.round .rne sat x.sqrt

/-- 1 / sqrt x (R184): the integer root of 2^400 / x, with its remainder folded into the last bit.
DEDUCED, log 23. -/
def specRsqrt (t : FTy) (sat : Bool) (x : Ext) : Nat :=
  match x with
  | .nan => t.dnan
  | .inf neg => if neg then t.dnan else t.round .rne sat (.zero false)
  | .fin neg m e =>
    if m = 0 then t.round .rne sat (.inf neg)
    else if neg then t.dnan
    else
      let num := 2 ^ (2 * fracBits + (-e).toNat)
      let den := m * 2 ^ e.toNat
      let r := isqrt (num / den)
      t.round .rne sat (.fin false (stick r (decide (r * r * den = num))) (-(fracBits : Int) - 1))

/-- u / v below and above, in units of 2^-700. -/
def quotLo (u v : Nat) : Ext := .fin false (u * 2 ^ 700 / v) (-700)
def quotHi (u v : Nat) : Ext := .fin false (u * 2 ^ 700 / v + 1) (-700)

def Ext.signed (neg : Bool) (x : Ext) : Ext := if neg then x.neg else x

/-- tanh x (R184): (E - 1) / (E + 1) with E = e^(2|x|). DEDUCED, log 23. -/
def specTanh (t : FTy) (sat : Bool) (x : Ext) : Nat :=
  match x with
  | .nan => t.dnan
  | .inf neg => t.round .rne sat (.fin neg 1 0)
  | .fin neg m e =>
    if m = 0 then t.round .rne sat (.zero neg)
    else if smallerThan m e (-40) then t.round .rne sat (.fin neg (m * 2 ^ 100 - 1) (e - 100))
    else if !smallerThan m e 6 then t.round .rne sat ((nearPow false 0).signed neg)
    else
      enclose t sat fun p =>
        let q := expFix p (2 * m * 2 ^ e.toNat) (-e).toNat
        ((quotLo (q.1 - 2 ^ p) (q.1 + 2 ^ p)).signed neg, (quotHi (q.2 - 2 ^ p) (q.2 + 2 ^ p)).signed neg)

/-- 1 / (1 + e^-x) (R184): with E = e^|x|, E / (E + 1) or 1 / (E + 1). DEDUCED, log 23. -/
def specSigm (t : FTy) (sat : Bool) (x : Ext) : Nat :=
  match x with
  | .nan => t.dnan
  | .inf neg => t.round .rne sat (if neg then .zero false else .fin false 1 0)
  | .fin neg m e =>
    if m = 0 then t.round .rne sat (.fin false 1 (-1))
    else if smallerThan m e (-60) then t.round .rne sat (nearPow (!neg) (-1))
    else if !smallerThan m e 8 then
      t.round .rne sat (if neg then .fin false 1 (-600) else nearPow false 0)
    else
      enclose t sat fun p =>
        let q := expFix p (m * 2 ^ e.toNat) (-e).toNat
        if neg then (quotLo (2 ^ p) (q.2 + 2 ^ p), quotHi (2 ^ p) (q.1 + 2 ^ p))
        else (quotLo q.1 (q.1 + 2 ^ p), quotHi q.2 (q.2 + 2 ^ p))

end Sys2Proof
end

