-- ==== Sys2Proof/Machine/Shuffle.lean ====
section
/-!
DEFINITION. Instructions of the XU slot (R183 to R190), and the events by which their results and the
writes of `fmt` come into force (R67, R87, R88).
-/
namespace Sys2Proof.Machine

open Sys2Proof

/-- The NOP of XU: as an absent slot (R19). -/
def execNopXu (s : State) : Out := .next s

/-! ### Special functions (R184, R185) -/

/-- A special function over the governed elements of a region. The result reaches the latch 10 cycles
after issue and `vd` as the twelfth later bundle issues (R185). -/
def State.sfun (s : State) (d a : BitVec 6) (l : Lanes) (f : FTy → Bool → Ext → Nat) : State :=
  s.withVt fun ty =>
    match ty with
    | .flt .fp32 => go .fp32
    | .flt .bf16 => go .bf16
    | _ => s.raise .illegalFormat none none
where
  go (t : FTy) : State :=
    let b := t.bits
    let res : SfRes :=
      { id := s.nextIdent
        vd := d
        mask := regionMap l b (s.gov l) 0 fun _ => 2 ^ b - 1
        val := regionMap l b (s.gov l) 0 fun e => f t (fmtSat s.opFmt) (t.decode (elt b (s.opV a) e))
        left := 12
        latched := false }
    ((s.updMe fun c => { c with sf := c.sf ++ [res] }).schedule 10
      (.sfResultLatch s.cur s.nextIdent)).fresh

/-- R184. -/
def execXexp2 (d a : BitVec 6) (l : Lanes) (s : State) : Out := .next (s.sfun d a l specExp2)
/-- R184. -/
def execXlog2 (d a : BitVec 6) (l : Lanes) (s : State) : Out := .next (s.sfun d a l specLog2)
/-- R184. -/
def execXrcp (d a : BitVec 6) (l : Lanes) (s : State) : Out := .next (s.sfun d a l specRcp)
/-- R184. -/
def execXrsqrt (d a : BitVec 6) (l : Lanes) (s : State) : Out := .next (s.sfun d a l specRsqrt)
/-- R184. -/
def execXsqrt (d a : BitVec 6) (l : Lanes) (s : State) : Out := .next (s.sfun d a l specSqrt)
/-- R184. -/
def execXtanh (d a : BitVec 6) (l : Lanes) (s : State) : Out := .next (s.sfun d a l specTanh)
/-- R184. -/
def execXsigm (d a : BitVec 6) (l : Lanes) (s : State) : Out := .next (s.sfun d a l specSigm)

/-! ### Transposer (R186 to R188) -/

/-- A 1024-bit lane group of a register. -/
def laneGroup (x : VWord) (g : Nat) : BitVec 1024 := x.extractLsb' (1024 * g) 1024

/-- The transposer after a row is pushed. -/
def Transposer.push (t : Transposer) (b : Nat) (row : BitVec 1024) : Transposer :=
  let rows := t.fill ++ [row]
  if rows.length = 1024 / b then { t with fill := [], bits := 0, xfer := some (rows, b, 8) }
  else { t with fill := rows, bits := b }

/-- R187. -/
def execTrpush (a : BitVec 6) (l : Lanes) (s : State) : Out :=
  .next (s.withVt fun t =>
    if s.me.tr.fill ≠ [] ∧ s.me.tr.bits ≠ t.bits then s.raise .illegalFormat none none
    else s.updMe fun c => { c with tr := c.tr.push t.bits (laneGroup (s.opV a) l.lg.toNat) })

/-- Column `c` of a block (R186). -/
def blockColumn (rows : List (BitVec 1024)) (b c : Nat) : Nat :=
  packBits b (rows.map fun r => (r.extractLsb' (b * c) b).toNat)

/-- R187. -/
def execTrpop (d : BitVec 6) (l : Lanes) (s : State) : Out :=
  .next
    (match s.me.tr.pop with
     | none => s.raise .schedule none none
     | some (rows, b) =>
       if rows.length ≤ s.me.tr.popped then s.raise .schedule none none
       else
         let col := blockColumn rows b s.me.tr.popped
         (s.updMe fun c => { c with tr := { c.tr with popped := c.tr.popped + 1 } }).setV d
           (splice (s.opV d) (laneBase l) 1024 col) 2)

/-- R187. -/
def execTrclr (s : State) : Out := .next (s.updMe fun c => { c with tr := .empty })

/-! ### What comes due as a bundle issues (R67, R88, R188)

Each of these events is the issue of one more bundle of the context; the issue logic runs them, in
this order, before the bundle reads its operands. -/

/-- The latest write whose delay has run out, else the value in force (R67). -/
def fmtDue (cur : Word) : List (Nat × Word) → Word
  | [] => cur
  | e :: t => fmtDue (if e.1 ≤ 1 then e.2 else cur) t

/-- R67: the delay of every `fmt` write in flight is one bundle shorter; those whose delay has run
out come into force. -/
def execFmtDelayExpiry (ctx : Nat) (s : State) : Out :=
  .next (s.updCtx ctx fun c =>
    { c with
      fmt := fmtDue c.fmt c.fmtPend
      fmtPend := (c.fmtPend.filter fun e => decide (1 < e.1)).map fun e => (e.1 - 1, e.2) })

/-- R88: the result of a special function reaches the context's latch. -/
def execSfResultLatch (ctx id : Nat) (s : State) : Out :=
  .next (s.updCtx ctx fun c =>
    { c with sf := c.sf.map fun r => if r.id = id then { r with latched := true } else r })

/-- R88, R185: every special-function result in flight is one bundle nearer; one that is due is
written into its register. -/
def execSfResultWrite (ctx : Nat) (s : State) : Out :=
  .next (s.updCtx ctx fun c =>
    let due := c.sf.filter fun r => decide (r.left ≤ 1)
    let c1 := due.foldl (fun c r => c.wrV r.vd ((c.rdV r.vd &&& ~~~ r.mask) ||| r.val)) c
    { c1 with sf := (c.sf.filter fun r => decide (1 < r.left)).map fun r =>
        { r with left := r.left - 1 } })

/-- R188: the block in transfer is one bundle nearer; when it is due it replaces the pop side. -/
def execTransposeBlockReady (ctx : Nat) (s : State) : Out :=
  .next (s.updCtx ctx fun c =>
    match c.tr.xfer with
    | none => c
    | some (rows, b, left) =>
      if left ≤ 1 then { c with tr := { c.tr with xfer := none, pop := some (rows, b), popped := 0 } }
      else { c with tr := { c.tr with xfer := some (rows, b, left - 1) } })

end Sys2Proof.Machine
end

