-- ==== Sys2Proof/Machine/VectorMem.lean ====
section
/-!
DEFINITION. Loads and stores of the VA and VB slots (R147 to R150).
-/
namespace Sys2Proof.Machine

open Sys2Proof

/-- Detail field of a vector access (R150): log2 of the unit, write, line or element number. -/
def vectorDetail (lg : Nat) (write : Bool) (i : Nat) : DWord :=
  BitVec.ofNat 64 (lg + (if write then 8 else 0) + 64 + 128 * i)

/-- A route at which the bundle has to wait (R80, R160). -/
def Route.waits : Route → Bool
  | .start _ _ => true
  | .wait | .busy => true
  | _ => false

/-- The slot being run has raised a fault in this attempt. -/
def State.hasFault (s : State) : Bool := s.iss.faults.any fun f => decide (f.slot = s.slot.index)

/-- Log every refused unit of an access (R301). -/
def State.logRefusals (s : State) (l : List (DWord × Route)) : State :=
  l.foldl (fun s x => if x.2 = .refused then s.logMine x.1 else s) s

/-! ### Whole lines (R148) -/

/-- The lines of a region that hold a governed lane: number within the region and address. -/
def vlines (l : Lanes) (p : PWord) (ea : DWord) : List (Nat × DWord) :=
  ((List.range l.w.groups).filter fun k =>
    decide (p.extractLsb' (32 * (l.lg.toNat + k)) 32 ≠ 0)).map fun k =>
      (k, ea + BitVec.ofNat 64 (128 * k))

/-- Every line translated before any byte moves: the routes, or what keeps the slot from
performing. -/
def State.lineRoutes (s : State) (ls : List (Nat × DWord)) (write : Bool) :
    Option State × List (Nat × DWord × Route) :=
  let rs := ls.map fun x => (x.1, x.2, s.route s.cur x.2 (!write) write)
  if rs.any fun x => x.2.2.waits then
    (some (rs.foldl (fun s x => if x.2.2.waits then (s.badRoute x.2.2 x.2.1 none).getD s else s) s), rs)
  else
    (rs.findSome? fun x => s.badRoute x.2.2 x.2.1 (some (vectorDetail 7 write x.1)), rs)

/-- Effective address of VLD and VST (R148). -/
def State.vea (s : State) (x : BitVec 6) (off : BitVec 8) : DWord := s.opS x + (sxImm off <<< 7)

/-- Some unit of the access goes through the L1. -/
def anyRemote (rs : List (Nat × DWord × Route)) : Bool := rs.any fun x => x.2.2.isRemote

/-- R148. ALIGN comes before the line is looked at, and so before a block. With no governed lane the result takes the
stash figure. DEDUCED, log 35; DESIGN CHOICE, log 36, 108. -/
def execVld (v x : BitVec 6) (off : BitVec 8) (l : Lanes) (s : State) : Out :=
  .next
    (let ea := s.vea x off
     if ea.toNat % 128 ≠ 0 then s.raise .align (some ea) (some (vectorDetail 7 false 0))
     else
       let rs := s.lineRoutes (vlines l (s.gov l) ea) false
       match rs.1 with
       | some t => t
       | none =>
         let val := fun k =>
           match rs.2.find? fun y => decide (y.1 = k) with
           | some y => s.readAt y.2.2 128
           | none => 0
         let lines := (List.range 4).map val
         let new := regionMap l 32 (s.gov l) (s.me.rdV v) fun e =>
           lines.getD (e / 32 - l.lg.toNat) 0 / 2 ^ (32 * (e % 32)) % 2 ^ 32
         let s1 := s.logRefusals (rs.2.map fun y => y.2)
         (s1.updMe fun c => c.wrV v new).track (some (.v v)) .load (anyRemote rs.2) 0
           (if anyRemote rs.2 then 10 else 8) (anyRemote rs.2))

/-- Store the governed lanes of one line. -/
def State.storeLine (s : State) (r : Route) (p : BitVec 32) (x : BitVec 1024) : State :=
  if p = BitVec.allOnes 32 then s.writeAt r (leBytes 128 x.toNat)
  else
    (List.range 32).foldl (fun s n =>
      if p.getLsbD n then s.writeAt (r.plus (4 * n)) (leBytes 4 (x.extractLsb' (32 * n) 32).toNat)
      else s) s

/-- R148. ALIGN comes before the line is looked at, and so before a block. DEDUCED, log 35; DESIGN CHOICE, log 36. -/
def execVst (v x : BitVec 6) (off : BitVec 8) (l : Lanes) (s : State) : Out :=
  .next
    (let ea := s.vea x off
     if ea.toNat % 128 ≠ 0 then s.raise .align (some ea) (some (vectorDetail 7 true 0))
     else
       let rs := s.lineRoutes (vlines l (s.gov l) ea) true
       match rs.1 with
       | some t => t
       | none =>
         let s1 := s.logRefusals (rs.2.map fun y => y.2)
         let s2 := rs.2.foldl (fun s y =>
           s.storeLine y.2.2 ((s.gov l).extractLsb' (32 * (l.lg.toNat + y.1)) 32)
             ((s.opV v).extractLsb' (1024 * (l.lg.toNat + y.1)) 1024)) s1
         s2.track none .store (anyRemote rs.2) 0 1 (anyRemote rs.2))

/-! ### Elements (R149, R150) -/

/-- Whether element `i` of the region has performed in an earlier attempt (R150). -/
def State.isDone (s : State) (i : Nat) : Bool := (Store.get 0 s.iss.done s.slot.index).getLsbD i

/-- Mark element `i` done. -/
def State.markDone (s : State) (i : Nat) : State :=
  let k := s.slot.index
  let m := Store.get 0 s.iss.done k ||| ((1 : BitVec 512) <<< i)
  s.updIss fun q => { q with done := Store.set 0 q.done k m }

/-- One element of `2^lg` bytes at an address, `i` in the region: it performs by `f`, or the slot
faults for the lowest element that cannot, or the bundle waits. A misaligned one raises ALIGN whatever its line waits
for. DESIGN CHOICE, log 36. -/
def State.elemAt (s : State) (lg : Nat) (write : Bool) (i : Nat) (a : DWord)
    (f : Route → State → State) : State :=
  let detail := vectorDetail lg write i
  if a.toNat % 2 ^ lg ≠ 0 then
    if s.hasFault then s else s.raise .align (some a) (some detail)
  else
    let r := s.route s.cur a (!write) write
    if s.hasFault ∧ r.waits = false ∧ (s.badRoute r a (some detail)).isSome = true then s
    else
      match s.badRoute r a (some detail) with
      | some t => t
      | none => (f r (if r = .refused then s.logMine a else s)).markDone i

/-- The elements of a region that take part: number in the region, absolute number (R149, R150). -/
def State.elemList (s : State) (l : Lanes) (b : Nat) : List (Nat × Nat) :=
  ((List.range (l.w.bits / b)).map fun i => (i, laneBase l / b + i)).filter fun x =>
    governs (s.gov l) b x.2 && !s.isDone x.1

/-- Element `e` of `b` bits replaced. -/
def setElt (b : Nat) (x : VWord) (e v : Nat) : VWord := splice x (b * e) b v

/-- Load the elements of a region; `addr i e` is the address of element `i`, `e` in absolute
numbers. From the stash alone the result takes `stash` cycles where R151 gives a figure; every other load of
elements takes until every element has returned, which is open. With no governed lane the result takes the stash
figure where there is one. DESIGN CHOICE, log 108. -/
def State.elemLoad (s : State) (v : BitVec 6) (l : Lanes) (b : Nat) (stash : Option Nat)
    (addr : Nat → Nat → DWord) : State :=
  let lg := Nat.log2 (b / 8)
  let es := s.elemList l b
  let remote := es.any fun x => (s.route s.cur (addr x.1 x.2) true false).isRemote
  let s1 := es.foldl (fun s x =>
    s.elemAt lg false x.1 (addr x.1 x.2) fun r s =>
      s.updMe fun c => c.wrV v (setElt b (c.rdV v) x.2 (s.readAt r (b / 8)))) s
  let fixed := if remote then none else stash
  s1.track (some (.v v)) .load remote 0 (fixed.getD 1) fixed.isNone

/-- Store the elements of a region in ascending order. -/
def State.elemStore (s : State) (v : BitVec 6) (l : Lanes) (b : Nat) (addr : Nat → Nat → DWord) :
    State :=
  let lg := Nat.log2 (b / 8)
  let es := s.elemList l b
  let remote := es.any fun x => (s.route s.cur (addr x.1 x.2) false true).isRemote
  let s1 := es.foldl (fun s x =>
    s.elemAt lg true x.1 (addr x.1 x.2) fun r s =>
      s.writeAt r (leBytes (b / 8) (elt b (s.opV v) x.2))) s
  s1.track none .store remote 0 1 remote

/-- Address of element `i` at a stride (R149). -/
def strideAddr (base stride : DWord) (i _e : Nat) : DWord := base + BitVec.ofNat 64 i * stride

/-- Address of lane `e` by an offset vector (R149). -/
def offsetAddr (base : DWord) (off : VWord) (_i e : Nat) : DWord :=
  base + (off.extractLsb' (32 * e) 32).signExtend 64

/-- R149. -/
def execVlds (v x b : BitVec 6) (l : Lanes) (s : State) : Out :=
  .next (s.withVt fun t => s.elemLoad v l t.bits (some 8) (strideAddr (s.opS x) (s.opS b)))

/-- R149. -/
def execVsts (v x b : BitVec 6) (l : Lanes) (s : State) : Out :=
  .next (s.withVt fun t => s.elemStore v l t.bits (strideAddr (s.opS x) (s.opS b)))

/-- R149. -/
def execVgath (v x b : BitVec 6) (l : Lanes) (s : State) : Out :=
  .next (s.elemLoad v l 32 none (offsetAddr (s.opS x) (s.opV b)))

/-- R149. -/
def execVscat (v x b : BitVec 6) (l : Lanes) (s : State) : Out :=
  .next (s.elemStore v l 32 (offsetAddr (s.opS x) (s.opV b)))

end Sys2Proof.Machine
end

