-- ==== Sys2Proof/Machine/Dispatch.lean ====
section
/-!
DEFINITION. The meaning of every instruction and event: one arm for each constructor of `Instr`.
-/
namespace Sys2Proof.Machine

open Sys2Proof

def exec (i : Instr) (s : State) : Host.Outcome State Fault Refusal :=
  match i with
  | .emptyBundle spix sp st => Sys2Proof.Machine.execEmptyBundle spix sp st s
  | .br off => Sys2Proof.Machine.execBr off s
  | .brc cc x off => Sys2Proof.Machine.execBrc cc x off s
  | .brp m p off => Sys2Proof.Machine.execBrp m p off s
  | .jmpr a => Sys2Proof.Machine.execJmpr a s
  | .call off => Sys2Proof.Machine.execCall off s
  | .callr a => Sys2Proof.Machine.execCallr a s
  | .loop a endOff => Sys2Proof.Machine.execLoop a endOff s
  | .loopi n endOff => Sys2Proof.Machine.execLoopi n endOff s
  | .brkl n => Sys2Proof.Machine.execBrkl n s
  | .fmtset val => Sys2Proof.Machine.execFmtset val s
  | .fmtsets a => Sys2Proof.Machine.execFmtsets a s
  | .waitk ka kb kc kd => Sys2Proof.Machine.execWaitk ka kb kc kd s
  | .waitks a => Sys2Proof.Machine.execWaitks a s
  | .fence sc k => Sys2Proof.Machine.execFence sc k s
  | .drain sc => Sys2Proof.Machine.execDrain sc s
  | .trap imm => Sys2Proof.Machine.execTrap imm s
  | .mfs d r => Sys2Proof.Machine.execMfs d r s
  | .mts r a => Sys2Proof.Machine.execMts r a s
  | .caphold port d => Sys2Proof.Machine.execCaphold port d s
  | .capadv port => Sys2Proof.Machine.execCapadv port s
  | .capdrop port => Sys2Proof.Machine.execCapdrop port s
  | .awaitf port d => Sys2Proof.Machine.execAwaitf port d s
  | .testf rd port d => Sys2Proof.Machine.execTestf rd port d s
  | .useopen ub a => Sys2Proof.Machine.execUseopen ub a s
  | .useclose ub => Sys2Proof.Machine.execUseclose ub s
  | .useq d ub => Sys2Proof.Machine.execUseq d ub s
  | .add d a b => Sys2Proof.Machine.execAdd d a b s
  | .sub d a b => Sys2Proof.Machine.execSub d a b s
  | .and d a b => Sys2Proof.Machine.execAnd d a b s
  | .or d a b => Sys2Proof.Machine.execOr d a b s
  | .xor d a b => Sys2Proof.Machine.execXor d a b s
  | .andn d a b => Sys2Proof.Machine.execAndn d a b s
  | .shl d a b => Sys2Proof.Machine.execShl d a b s
  | .shr d a b => Sys2Proof.Machine.execShr d a b s
  | .sra d a b => Sys2Proof.Machine.execSra d a b s
  | .mul d a b => Sys2Proof.Machine.execMul d a b s
  | .mulh d a b => Sys2Proof.Machine.execMulh d a b s
  | .mulhu d a b => Sys2Proof.Machine.execMulhu d a b s
  | .div d a b => Sys2Proof.Machine.execDiv d a b s
  | .divu d a b => Sys2Proof.Machine.execDivu d a b s
  | .rem d a b => Sys2Proof.Machine.execRem d a b s
  | .remu d a b => Sys2Proof.Machine.execRemu d a b s
  | .min d a b => Sys2Proof.Machine.execMin d a b s
  | .max d a b => Sys2Proof.Machine.execMax d a b s
  | .minu d a b => Sys2Proof.Machine.execMinu d a b s
  | .maxu d a b => Sys2Proof.Machine.execMaxu d a b s
  | .slt d a b => Sys2Proof.Machine.execSlt d a b s
  | .sltu d a b => Sys2Proof.Machine.execSltu d a b s
  | .seq d a b => Sys2Proof.Machine.execSeq d a b s
  | .sne d a b => Sys2Proof.Machine.execSne d a b s
  | .clz d a => Sys2Proof.Machine.execClz d a s
  | .ctz d a => Sys2Proof.Machine.execCtz d a s
  | .popc d a => Sys2Proof.Machine.execPopc d a s
  | .addi d a imm => Sys2Proof.Machine.execAddi d a imm s
  | .andi d a imm => Sys2Proof.Machine.execAndi d a imm s
  | .ori d a imm => Sys2Proof.Machine.execOri d a imm s
  | .xori d a imm => Sys2Proof.Machine.execXori d a imm s
  | .shli d a sh => Sys2Proof.Machine.execShli d a sh s
  | .shri d a sh => Sys2Proof.Machine.execShri d a sh s
  | .srai d a sh => Sys2Proof.Machine.execSrai d a sh s
  | .slti d a imm => Sys2Proof.Machine.execSlti d a imm s
  | .sltiu d a imm => Sys2Proof.Machine.execSltiu d a imm s
  | .lui d imm => Sys2Proof.Machine.execLui d imm s
  | .sel d a b c => Sys2Proof.Machine.execSel d a b c s
  | .adds d a b sh => Sys2Proof.Machine.execAdds d a b sh s
  | .ldb d a imm => Sys2Proof.Machine.execLdb d a imm s
  | .ldbu d a imm => Sys2Proof.Machine.execLdbu d a imm s
  | .ldh d a imm => Sys2Proof.Machine.execLdh d a imm s
  | .ldhu d a imm => Sys2Proof.Machine.execLdhu d a imm s
  | .ldw d a imm => Sys2Proof.Machine.execLdw d a imm s
  | .ldwu d a imm => Sys2Proof.Machine.execLdwu d a imm s
  | .ldd d a imm => Sys2Proof.Machine.execLdd d a imm s
  | .stb d a imm => Sys2Proof.Machine.execStb d a imm s
  | .sth d a imm => Sys2Proof.Machine.execSth d a imm s
  | .stw d a imm => Sys2Proof.Machine.execStw d a imm s
  | .std d a imm => Sys2Proof.Machine.execStd d a imm s
  | .ldaq sz d a => Sys2Proof.Machine.execLdaq sz d a s
  | .strl sz d a => Sys2Proof.Machine.execStrl sz d a s
  | .amo op dword o sys d a b => Sys2Proof.Machine.execAmo op dword o sys d a b s
  | .cas dword o sys d a b => Sys2Proof.Machine.execCas dword o sys d a b s
  | .fadd d a b => Sys2Proof.Machine.execFadd d a b s
  | .fsub d a b => Sys2Proof.Machine.execFsub d a b s
  | .fmul d a b => Sys2Proof.Machine.execFmul d a b s
  | .fmin d a b => Sys2Proof.Machine.execFmin d a b s
  | .fmax d a b => Sys2Proof.Machine.execFmax d a b s
  | .fcmplt d a b => Sys2Proof.Machine.execFcmplt d a b s
  | .fcmple d a b => Sys2Proof.Machine.execFcmple d a b s
  | .fcmpeq d a b => Sys2Proof.Machine.execFcmpeq d a b s
  | .fcvtif d a => Sys2Proof.Machine.execFcvtif d a s
  | .fcvtfi d a => Sys2Proof.Machine.execFcvtfi d a s
  | .fdiv d a b => Sys2Proof.Machine.execFdiv d a b s
  | .fsqrt d a => Sys2Proof.Machine.execFsqrt d a s
  | .fma d a b => Sys2Proof.Machine.execFma d a b s
  | .vadd d a b l => Sys2Proof.Machine.execVadd d a b l s
  | .vsub d a b l => Sys2Proof.Machine.execVsub d a b l s
  | .vmul d a b l => Sys2Proof.Machine.execVmul d a b l s
  | .vfma d a b l => Sys2Proof.Machine.execVfma d a b l s
  | .vfms d a b l => Sys2Proof.Machine.execVfms d a b l s
  | .vmin d a b l => Sys2Proof.Machine.execVmin d a b l s
  | .vmax d a b l => Sys2Proof.Machine.execVmax d a b l s
  | .vabs d a l => Sys2Proof.Machine.execVabs d a l s
  | .vneg d a l => Sys2Proof.Machine.execVneg d a l s
  | .vcmp pd cc a b l => Sys2Proof.Machine.execVcmp pd cc a b l s
  | .vsel d a b l => Sys2Proof.Machine.execVsel d a b l s
  | .vswp d a l => Sys2Proof.Machine.execVswp d a l s
  | .vlog3 d a b tt => Sys2Proof.Machine.execVlog3 d a b tt s
  | .vshl d a b l => Sys2Proof.Machine.execVshl d a b l s
  | .vshr d a b l => Sys2Proof.Machine.execVshr d a b l s
  | .vsra d a b l => Sys2Proof.Machine.execVsra d a b l s
  | .vcvt d a ty r l => Sys2Proof.Machine.execVcvt d a ty r l s
  | .vbcast d x l => Sys2Proof.Machine.execVbcast d x l s
  | .vget d a b => Sys2Proof.Machine.execVget d a b s
  | .viota d l => Sys2Proof.Machine.execViota d l s
  | .vperm d a b l => Sys2Proof.Machine.execVperm d a b l s
  | .vred fn d a l => Sys2Proof.Machine.execVred fn d a l s
  | .vacr v acc row => Sys2Proof.Machine.execVacr v acc row s
  | .vacw v acc row => Sys2Proof.Machine.execVacw v acc row s
  | .plog pd pa pb tt => Sys2Proof.Machine.execPlog pd pa pb tt s
  | .pxfer pd ps => Sys2Proof.Machine.execPxfer pd ps s
  | .vclass d a l => Sys2Proof.Machine.execVclass d a l s
  | .vld v x off l => Sys2Proof.Machine.execVld v x off l s
  | .vst v x off l => Sys2Proof.Machine.execVst v x off l s
  | .vlds v x b l => Sys2Proof.Machine.execVlds v x b l s
  | .vsts v x b l => Sys2Proof.Machine.execVsts v x b l s
  | .vgath v x b l => Sys2Proof.Machine.execVgath v x b l s
  | .vscat v x b l => Sys2Proof.Machine.execVscat v x b l s
  | .xexp2 d a l => Sys2Proof.Machine.execXexp2 d a l s
  | .xlog2 d a l => Sys2Proof.Machine.execXlog2 d a l s
  | .xrcp d a l => Sys2Proof.Machine.execXrcp d a l s
  | .xrsqrt d a l => Sys2Proof.Machine.execXrsqrt d a l s
  | .xsqrt d a l => Sys2Proof.Machine.execXsqrt d a l s
  | .xtanh d a l => Sys2Proof.Machine.execXtanh d a l s
  | .xsigm d a l => Sys2Proof.Machine.execXsigm d a l s
  | .trpush a l => Sys2Proof.Machine.execTrpush a l s
  | .trpop d l => Sys2Proof.Machine.execTrpop d l s
  | .mma m => Sys2Proof.Machine.execMma m s
  | .mmaq m => Sys2Proof.Machine.execMmaq m s
  | .mmal m => Sys2Proof.Machine.execMmal m s
  | .mxz acc => Sys2Proof.Machine.execMxz acc s
  | .mxepi acc vs vz => Sys2Proof.Machine.execMxepi acc vs vz s
  | .mxcb cb a => Sys2Proof.Machine.execMxcb cb a s
  | .mxrs d acc => Sys2Proof.Machine.execMxrs d acc s
  | .mxst acc th ty r => Sys2Proof.Machine.execMxst acc th ty r s
  | .mxsa a => Sys2Proof.Machine.execMxsa a s
  | .tmap th a => Sys2Proof.Machine.execTmap th a s
  | .tunmap th k => Sys2Proof.Machine.execTunmap th k s
  | .tfill th k => Sys2Proof.Machine.execTfill th k s
  | .twb th k => Sys2Proof.Machine.execTwb th k s
  | .tinv th => Sys2Proof.Machine.execTinv th s
  | .tsetf th f => Sys2Proof.Machine.execTsetf th f s
  | .probe w a b => Sys2Proof.Machine.execProbe w a b s
  | .unprobe a b => Sys2Proof.Machine.execUnprobe a b s
  | .cpylv l a b => Sys2Proof.Machine.execCpylv l a b s
  | .cpybs a b => Sys2Proof.Machine.execCpybs a b s
  | .cpygo kp ka kb kc ring => Sys2Proof.Machine.execCpygo kp ka kb kc ring s
  | .cpycv d a b => Sys2Proof.Machine.execCpycv d a b s
  | .gath a b k ring => Sys2Proof.Machine.execGath a b k ring s
  | .rbinit rb a b => Sys2Proof.Machine.execRbinit rb a b s
  | .rbwait rb => Sys2Proof.Machine.execRbwait rb s
  | .rbrel rb => Sys2Proof.Machine.execRbrel rb s
  | .sctld a => Sys2Proof.Machine.execSctld a s
  | .enq port a k => Sys2Proof.Machine.execEnq port a k s
  | .deq port a => Sys2Proof.Machine.execDeq port a s
  | .coll a k => Sys2Proof.Machine.execColl a k s
  | .l2lock d a b => Sys2Proof.Machine.execL2lock d a b s
  | .l2unlk d a b => Sys2Proof.Machine.execL2unlk d a b s
  | .fmtDelayExpiry ctx => Sys2Proof.Machine.execFmtDelayExpiry ctx s
  | .sfResultLatch ctx id => Sys2Proof.Machine.execSfResultLatch ctx id s
  | .sfResultWrite ctx => Sys2Proof.Machine.execSfResultWrite ctx s
  | .transposeBlockReady ctx => Sys2Proof.Machine.execTransposeBlockReady ctx s
  | .mxOccupancyEnd core => Sys2Proof.Machine.execMxOccupancyEnd core s
  | .mxstTileWriteDone ctx th => Sys2Proof.Machine.execMxstTileWriteDone ctx th s
  | .dmCommandStart core id => Sys2Proof.Machine.execDmCommandStart core id s
  | .ringSlotWriteStart core id => Sys2Proof.Machine.execRingSlotWriteStart core id s
  | .fillComplete core id => Sys2Proof.Machine.execFillComplete core id s
  | .fillFail core id => Sys2Proof.Machine.execFillFail core id s
  | .copyComplete core id => Sys2Proof.Machine.execCopyComplete core id s
  | .copyFail core id => Sys2Proof.Machine.execCopyFail core id s
  | .writeBackComplete core id => Sys2Proof.Machine.execWriteBackComplete core id s
  | .unmapComplete core id => Sys2Proof.Machine.execUnmapComplete core id s
  | .enqAppend core id => Sys2Proof.Machine.execEnqAppend core id s
  | .collDescriptorRead core id => Sys2Proof.Machine.execCollDescriptorRead core id s
  | .collectiveComplete group => Sys2Proof.Machine.execCollectiveComplete group s
  | .collectiveTimeout group => Sys2Proof.Machine.execCollectiveTimeout group s
  | .engineLeaseExpiry part => Sys2Proof.Machine.execEngineLeaseExpiry part s
  | .accessCompletion ctx id => Sys2Proof.Machine.execAccessCompletion ctx id s
  | .resultLanding ctx id => Sys2Proof.Machine.execResultLanding ctx id s
  | .pageRequestReply ctx vpage r => Sys2Proof.Machine.execPageRequestReply ctx vpage r s
  | .pageWalkComplete part vpage m => Sys2Proof.Machine.execPageWalkComplete part vpage m s
  | .foreignLineWrite agent addr data => Sys2Proof.Machine.execForeignLineWrite agent addr data s
  | .foreignLineRead agent addr => Sys2Proof.Machine.execForeignLineRead agent addr s
  | .termsUnitAnswer ctx slot => Sys2Proof.Machine.execTermsUnitAnswer ctx slot s
  | .selectorSwitch core => Sys2Proof.Machine.execSelectorSwitch core s
  | .timeSliceExpiry core => Sys2Proof.Machine.execTimeSliceExpiry core s
  | .contextStop ctx => Sys2Proof.Machine.execContextStop ctx s
  | .trapRecordAppend cluster => Sys2Proof.Machine.execTrapRecordAppend cluster s
  | .trtailWrite cluster val => Sys2Proof.Machine.execTrtailWrite cluster val s
  | .ctxResume ctx => Sys2Proof.Machine.execCtxResume ctx s
  | .ctxKill ctx => Sys2Proof.Machine.execCtxKill ctx s
  | .ctxSave ctx => Sys2Proof.Machine.execCtxSave ctx s
  | .ctxRestore ctx => Sys2Proof.Machine.execCtxRestore ctx s
  | .registerWrite r val => Sys2Proof.Machine.execRegisterWrite r val s
  | .pageEviction part vpage version => Sys2Proof.Machine.execPageEviction part vpage version s
  | .launchRecordArrival part system record => Sys2Proof.Machine.execLaunchRecordArrival part system record s
  | .gangPlacement part => Sys2Proof.Machine.execGangPlacement part s
  | .dispatchAging part => Sys2Proof.Machine.execDispatchAging part s
  | .reservationLapse part => Sys2Proof.Machine.execReservationLapse part s
  | .victimSaveTimeout part ctx => Sys2Proof.Machine.execVictimSaveTimeout part ctx s
  | .loadImage fn addr => Sys2Proof.Machine.execLoadImage fn addr s
  | .installTerms fn handle obj => Sys2Proof.Machine.execInstallTerms fn handle obj s
  | .bindRegion fn handle base capsule => Sys2Proof.Machine.execBindRegion fn handle base capsule s
  | .removeTerms fn handle dest => Sys2Proof.Machine.execRemoveTerms fn handle dest s
  | .statement fn handle dest => Sys2Proof.Machine.execStatement fn handle dest s
  | .timeUpdate fn addr => Sys2Proof.Machine.execTimeUpdate fn addr s
  | .partCreate fn block => Sys2Proof.Machine.execPartCreate fn block s
  | .partResize fn block => Sys2Proof.Machine.execPartResize fn block s
  | .partStatus fn block => Sys2Proof.Machine.execPartStatus fn block s
  | .partDestroy fn block => Sys2Proof.Machine.execPartDestroy fn block s
  | .portSet fn port kind base lines => Sys2Proof.Machine.execPortSet fn port kind base lines s
  | .portDeclare fn port time n => Sys2Proof.Machine.execPortDeclare fn port time n s
  | .queuePush fn port line time => Sys2Proof.Machine.execQueuePush fn port line time s
  | .frontierReset fn => Sys2Proof.Machine.execFrontierReset fn s
  | .engineLease fn engines ms => Sys2Proof.Machine.execEngineLease fn engines ms s
  | .attach fn token => Sys2Proof.Machine.execAttach fn token s
  | .mailboxBadCommand fn => Sys2Proof.Machine.execMailboxBadCommand fn s
  | .moultQuiesce part => Sys2Proof.Machine.execMoultQuiesce part s
  | .quiesceTimeout part => Sys2Proof.Machine.execQuiesceTimeout part s
  | .moultMove part => Sys2Proof.Machine.execMoultMove part s
  | .moultRehash part => Sys2Proof.Machine.execMoultRehash part s
  | .rehashSetMigrate part => Sys2Proof.Machine.execRehashSetMigrate part s
  | .moultCommit part => Sys2Proof.Machine.execMoultCommit part s
  | .incrementArrival ctx slot => Sys2Proof.Machine.execIncrementArrival ctx slot s
  | .incrementAck ctx slot => Sys2Proof.Machine.execIncrementAck ctx slot s
  | .chorusRoundStart part => Sys2Proof.Machine.execChorusRoundStart part s
  | .roundCompute part => Sys2Proof.Machine.execRoundCompute part s
  | .announcementApply part => Sys2Proof.Machine.execAnnouncementApply part s
  | .nvStoreWriteComplete handle => Sys2Proof.Machine.execNvStoreWriteComplete handle s
  | .hostMemoryAccess fn addr write len => Sys2Proof.Machine.execHostMemoryAccess fn addr write len s
  | .atsInvalidation part stale => Sys2Proof.Machine.execAtsInvalidation part stale s
  | .flitRetry port => Sys2Proof.Machine.execFlitRetry port s
  | .linkPortDown port => Sys2Proof.Machine.execLinkPortDown port s
  | .powerLimitReached reached => Sys2Proof.Machine.execPowerLimitReached reached s
  | .ageingMonitorRead clusters slices => Sys2Proof.Machine.execAgeingMonitorRead clusters slices s
  | .nopCtl => Sys2Proof.Machine.execNopCtl s
  | .nopSa => Sys2Proof.Machine.execNopSa s
  | .nopSb => Sys2Proof.Machine.execNopSb s
  | .nopVa => Sys2Proof.Machine.execNopVa s
  | .nopVb => Sys2Proof.Machine.execNopVb s
  | .nopMx => Sys2Proof.Machine.execNopMx s
  | .nopXu => Sys2Proof.Machine.execNopXu s
  | .nopDm => Sys2Proof.Machine.execNopDm s
  | .ret => Sys2Proof.Machine.execRet s
  | .yield => Sys2Proof.Machine.execYield s
  | .exit => Sys2Proof.Machine.execExit s
  | .trclr => Sys2Proof.Machine.execTrclr s
  | .powerLoss => Sys2Proof.Machine.execPowerLoss s
  | .powerUpRecovery => Sys2Proof.Machine.execPowerUpRecovery s
  | .orderlyShutdown => Sys2Proof.Machine.execOrderlyShutdown s
  | .deviceReset => Sys2Proof.Machine.execDeviceReset s
  | .bringUpComplete => Sys2Proof.Machine.execBringUpComplete s
  | .lifeCycleChange => Sys2Proof.Machine.execLifeCycleChange s
  | .hostLinkDown => Sys2Proof.Machine.execHostLinkDown s
  | .hostLinkRetrained => Sys2Proof.Machine.execHostLinkRetrained s

end Sys2Proof.Machine
end

