-- ==== Sys2Proof/Machine/Issue.lean ====
section
/-!
DEFINITION. How a bundle issues (R19, R21, R24 to R28, R41, R78, R80, R88 to R90, R121, R128, R198) and
what a core does in a cycle (R27, R80 to R82).
-/
namespace Sys2Proof.Machine

open Sys2Proof

/-! ### The bundle at the program counter -/

/-- The words that follow a header. -/
def Text.run (g : Text) (n : Nat) : Nat → List Word
  | 0 => []
  | k + 1 => g.word n :: Text.run g (n + 1) k

/-- The bundle at an address of a text, or why it is none (R21, R28). -/
def Text.bundleAt (g : Text) (a : DWord) : Except DecodeErr Bundle :=
  if g.isStart a then
    let h := g.word (a.toNat / 4)
    decodeBundle a h (g.run (a.toNat / 4 + 1) (hdrSlots h).length)
  else .error (.opcode none)

/-- The bundle that a context issues next. -/
def State.fetch (s : State) (c : Nat) : Except DecodeErr Bundle :=
  match s.text c with
  | none => .error (.opcode none)
  | some g => g.bundleAt (s.ctx c).pc

/-- A line of the text that the bundle at the program counter takes up has an uncorrectable error (R311). -/
def State.fetchBad (s : State) (c : Nat) : Bool :=
  let n := (s.ctx c).pc.toNat / 4
  (s.cluster (clusterOf c)).textBad.any fun x =>
    decide (x.1 = (s.ctx c).image ∧ n / 32 ≤ x.2 ∧ x.2 ≤ (n + bundleWords (s.headerAt c (s.ctx c).pc) - 1) / 32)

/-- Cause, slot and operand of a refused bundle (R28). -/
def DecodeErr.fault : DecodeErr → Nat × Cause × Option DWord
  | .opcode (some sl) => (sl.index, .illegalOpcode, none)
  | .opcode none => (15, .illegalOpcode, none)
  | .format sl => (sl.index, .illegalFormat, none)
  | .operand sl n => (sl.index, .illegalOperand, n)

/-! ### Checks on the bundle as a whole (R25, R26, R88, R121) -/

def Bundle.reads (b : Bundle) : List RegId := b.slots.flatMap fun p => Instr.reads p.2 p.1
def Bundle.writes (b : Bundle) : List RegId := b.slots.flatMap fun p => Instr.writes p.2 p.1

/-- Lane groups of the VA and VB slots. -/
def Bundle.laneGroups (b : Bundle) : List Nat := b.slots.flatMap fun p => Instr.laneGroups p.2

/-- R25, against every earlier bundle of the group. -/
def Ctx.groupClash (x : Ctx) (b : Bundle) : Bool :=
  ((Bundle.reads b).any fun r => decide (r ∈ x.groupW)) ||
    (Bundle.writes b).any fun r => decide (r ∈ x.groupW) || decide (r ∈ x.groupR)

/-- An atomic beside another access (R121). -/
def Bundle.mixedAtomic (b : Bundle) : Bool :=
  let l := b.slots.filterMap fun p => Instr.access p.2
  decide (.atomic ∈ l) && decide (1 < l.length)

/-- A bundle that writes a register with a special-function result pending (R88). -/
def Ctx.latchClash (x : Ctx) (b : Bundle) : Bool :=
  x.sf.any fun r => decide (.v r.vd ∈ Bundle.writes b)

/-- Checks 5 and 6 of R28, then R88. -/
def Ctx.bundleCheck (x : Ctx) (b : Bundle) : Option Cause :=
  if ¬ (Bundle.writes b).Nodup ∨ x.groupClash b = true ∨ Bundle.mixedAtomic b = true then
    some .illegalGroup
  else if ¬ (Bundle.laneGroups b).Nodup then some .schedule
  else if x.latchClash b then some .schedule
  else none

/-! ### Stalls and fences (R88, R106, R128, R151) -/

def Bundle.accesses (b : Bundle) : Bool := b.slots.any fun p => (Instr.access p.2).isSome

/-- Synchronous accesses of slots that have to wait: for an LDAQ, STRL or acquiring atomic outstanding, or as a
release for earlier accesses (R45, R122, R128). -/
def Ctx.orderStall (x : Ctx) (l : List (Slot × Instr)) : Bool :=
  (l.any fun p => (Instr.access p.2).isSome) && (x.outst.any fun a => decide (a.stage < a.order)) ||
    l.any fun p => x.openAt (Instr.releaseAt p.2)

/-- A slot that reads or writes a register with a result pending (R128, R151). -/
def Ctx.pendingOn (x : Ctx) (l : List RegId) : Bool := x.score.any fun q => decide (q.reg ∈ l)

/-- A synchronous DM instruction not finished, a register with a result pending, a special function not finished,
or accesses that have to wait. -/
def Ctx.stallsOn (x : Ctx) (b : Bundle) (now : Nat) : Bool :=
  decide (now < x.stallTo) || x.pendingOn (Bundle.reads b ++ Bundle.writes b) ||
    (x.sf.any fun r => decide (r.left ≤ 1) && !r.latched) || x.orderStall b.slots

/-- A command of the context, reissued by a restore, waits for a journal entry: the context's bundles wait for it
(R105, R167). DEDUCED, log 51. -/
def State.awaitsEntry (s : State) (c : Nat) : Bool :=
  (s.core (coreOf c)).journal.any fun q => decide (q.ctx = c ∧ q.entry = 65)

/-- Whether it blocks shows without the registers that an instruction reads: the engine, the tiles and the accumulator
of the MX slot, the accumulator of VACW, the queue of a DEQ while it is empty (R80). -/
def State.blindTo (s : State) (c : Nat) (p : Slot × Instr) : Bool :=
  match p.2 with
  | .vacw _ _ _ => true
  | .deq _ port => s.queueEmpty c port
  | _ => decide (p.1 = .mx)

/-- The slots of which it can be told whether they block: those whose operands have landed, and those that need none
for it (R80). -/
def State.tellers (s : State) (c : Nat) (l : List (Slot × Instr)) : List (Slot × Instr) :=
  l.filter fun p => s.blindTo c p || !(s.ctx c).pendingOn (Instr.reads p.2 p.1)

/-- An access that a fence holds back (R106). -/
def FenceKind.bars (k : FenceKind) (a : AccKind) : Bool :=
  match k with
  | .acq | .full => true
  | .rel => decide (a ≠ .load)

/-- A drain keeps the context (R47, R106). -/
def Ctx.drained (x : Ctx) : Bool := x.drain.any fun f => x.openOf f.ids (scopeStage f.scope)

/-- A drain or a fence keeps a slot's access from performing (R46, R47, R106). -/
def Ctx.barred (x : Ctx) (p : Slot × Instr) : Bool :=
  match Instr.access p.2 with
  | none => false
  | some a => x.drained || x.fences.any fun f => x.openOf f.ids (scopeStage f.scope) && FenceKind.bars f.kind a

/-- A fence or a drain keeps the slots from issuing (R47, R106). -/
def Ctx.fenced (x : Ctx) (l : List (Slot × Instr)) : Bool := x.drained || l.any x.barred

/-! ### Running the slots (R26, R41, R48, R89, R121) -/

/-- The phase of a slot: reads before stores, stores in slot order, then what looks back at the whole
bundle, then DM, whose accesses follow the bundle's stores. A STRL, for which the accesses of its bundle are
earlier ones (R122), and EXIT (R109) come after all of them. DESIGN CHOICE, log 44. -/
def phaseOf (p : Slot × Instr) : Nat :=
  match p.2 with
  | .exit => 7
  | .strl _ _ _ => 6
  | .fence _ _ | .drain _ | .yield => 4
  | .mxst _ _ _ _ => 3
  | i =>
    match p.1 with
    | .dm => 5
    | .xu | .mx => 1
    | _ => if Instr.isStore i then 2 else 0

/-- The slots but STRL and EXIT, in the order in which their effects come about. DESIGN CHOICE, log 44. -/
def runOrder (l : List (Slot × Instr)) : List (Slot × Instr) :=
  (List.range 6).flatMap fun n => l.filter fun p => decide (phaseOf p = n)

/-- The STRL slots. -/
def lateSlots (l : List (Slot × Instr)) : List (Slot × Instr) := l.filter fun p => decide (phaseOf p = 6)

/-- The slot has performed (R89, R91). -/
def State.performed (s : State) (sl : Slot) : State :=
  s.updIss fun i => { i with performed := i.performed ||| (1 : BitVec 8) <<< sl.index }

/-- A slot reads a register that has an uncorrectable error (R311, R312). -/
def Latch.poisons (l : Latch) (p : Slot × Instr) : Bool := (Instr.reads p.2 p.1).any fun r => decide (r ∈ l.regBad)

/-- An error goes from a register that a slot has written. DESIGN CHOICE, log 100. -/
def State.mendRegs (s : State) (p : Slot × Instr) : State :=
  if s.me.regBad = [] then s
  else s.updMe fun c => { c with regBad := c.regBad.filter fun r => decide (r ∉ Instr.writes p.2 p.1) }

/-- Run one slot of the context `s.cur`; its performed bit is set unless it has faulted. One that reads a poisoned
register raises ECC_UNCORRECTED (R312). DESIGN CHOICE, log 1, 100. -/
def State.runSlot (s : State) (p : Slot × Instr) : Out :=
  let n := s.iss.faults.length
  if s.iss.latch.poisons p then .next (State.raise { s with slot := p.1 } .eccUncorrected none none)
  else
    match exec p.2 { s with slot := p.1 } with
    | .next t => .next (if t.iss.faults.length = n then (t.performed p.1).mendRegs p else t)
    | o => o

/-- Run slots in order. DESIGN CHOICE, log 44. -/
def State.runSlots : State → List (Slot × Instr) → Out
  | s, [] => .next s
  | s, p :: t =>
    match s.runSlot p with
    | .next u => u.runSlots t
    | o => o

/-- Run the STRL slots in order, up to one that blocks or stalls: that one and those behind it have not performed
(R122). -/
def State.runLate : State → List (Slot × Instr) → Out
  | s, [] => .next s
  | s, p :: t =>
    match s.runSlot p with
    | .next u =>
      let waits := fun i : Issue => { i with block := u.iss.block, stall := u.iss.stall, later := u.iss.later }
      if u.iss.block = true ∨ u.iss.stall = true then .next (s.updIss waits) else u.runLate t
    | o => o

/-- Run a slot that may be kept from performing while the others go on (R198). DEDUCED, log 49. -/
def State.runAlone (s : State) (p : Slot × Instr) : Out :=
  match s.runSlot p with
  | .next t => if t.iss.block = true ∨ t.iss.stall = true then .next s else .next t
  | o => o

/-- The slots of a bundle whose MX slot comes too early (R198). DEDUCED, log 49. -/
def State.runEarly : State → List (Slot × Instr) → Out
  | s, [] => .next s
  | s, p :: t =>
    match s.runAlone p with
    | .next u => u.runEarly t
    | o => o

/-- Mark a tile busy. -/
def State.markBusy (s : State) (x : Nat × Nat) (b : BusyBy) : State :=
  s.updTile x.1 x.2 fun t => { t with busy := t.busy ++ [b] }

/-- The engine, the accumulator and the tiles are held from now (R197 to R199). DEDUCED, log 80. -/
def State.applyHold (s : State) (c : Nat) : State :=
  match (s.ctx c).iss.hold with
  | none => s
  | some h =>
    let until_ := s.cycle + h.cycles
    let k := coreOf c
    let s1 := s.updCtx c fun x =>
      let i := { x.iss with hold := none }
      { x with mxUntil := until_, accBusy := h.acc.toList, iss := i }
    let s2 := s1.updCore k fun r =>
      { r with mxHolder := some c, mxUntil := until_, mxTiles := h.tiles }
    let s3 := h.tiles.foldl (fun s x => if h.store = some x then s else s.markBusy x .mx) s2
    let s4 := h.store.toList.foldl (fun s x => s.markBusy x .mxst) s3
    s4.schedule h.cycles (.mxOccupancyEnd k)

/-! ### What a bundle that does not issue sets going (R160, R162, R231, R252) -/

/-- An increment is on its way: no stop is taken before its bundle has issued (R252, R260). DESIGN CHOICE, log 43. -/
def State.addInc (s : State) (c : Nat) (sl : Slot) (port : BitVec 6) (t : LTime) (hold : Bool) : State :=
  if (s.ctx c).incs.any fun i => decide (i.slot = sl) then s
  else
    ((s.updCtx c fun x =>
      { x with incs := x.incs ++ [⟨s.nextIdent, sl, port, t, hold, .sent⟩], afterSafe := false }).after 0
      (.incrementArrival c sl)).fresh

def State.addAsk (s : State) (c : Nat) (sl : Slot) (ub : BitVec 3) (kind : Nat) (h : BitVec 12) : State :=
  if (s.ctx c).asks.any fun a => decide (a.slot = sl) then s
  else
    (s.updCtx c fun x =>
      { x with asks := x.asks ++ [⟨sl, ub, kind, h, false, 0, false, 0, 0⟩] }).after 0
      (.termsUnitAnswer c sl)

/-- Page requests of a partition's function that are outstanding (R291). -/
def State.pagesAsked (s : State) (p : Nat) : Nat :=
  s.host.pri.countP fun r => decide ((s.ctx r.1).part = p) && decide (r.2.2 = 0 ∨ r.2.2 = 3)

/-- DEDUCED, log 39. -/
def State.addPage (s : State) (c vp : Nat) : State :=
  if (s.host.pri.any fun r => decide (r.1 = c ∧ r.2.1 = vp)) = true ∨
      512 ≤ s.pagesAsked (s.ctx c).part then s
  else { s with host := { s.host with pri := s.host.pri ++ [(c, vp, 0)] } }

/-- `pure` holds when the bundle stalls and does not block. -/
def State.setGoing (s : State) (c : Nat) (pure : Bool) (l : Later) : State :=
  match l with
  | .startFill o th => s.startFill o th
  | .pageRequest vp => s.addPage c vp
  | .increment sl port t hold => if pure then s.addInc c sl port t hold else s
  | .askTerms sl ub kind h => if pure then s.addAsk c sl ub kind h else s

def State.setAllGoing (s : State) (c : Nat) (pure : Bool) (l : List Later) : State :=
  l.foldl (fun s x => s.setGoing c pure x) s

/-! ### The end of a bundle (R24, R78, R83, R96) -/

/-- The back-edge of R78 over the levels, innermost first: the levels that stay, and the body's first
bundle where one goes round again. -/
def backEdge (a : DWord) : List LoopLevel → List LoopLevel × Option DWord
  | [] => ([], none)
  | l :: t =>
    if l.endA ≠ a then (l :: t, none)
    else if l.lc.toNat + 1 < l.lb.toNat then ({ l with lc := l.lc + 1 } :: t, some l.body)
    else backEdge a t

/-- The bundle at an address ends an active loop (R24, R78). -/
def Ctx.endsLoop (x : Ctx) (a : DWord) : Bool :=
  match x.loops.getLast? with
  | some l => decide (l.endA = a)
  | none => false

/-- What a bundle leaves for the core to know once it has issued. -/
structure Issued where
  mask : BitVec 8
  groups : List Nat
  closing : Bool
  sp : Bool
  yield : Bool
  deriving DecidableEq, Repr

/-- The bundle was a safe point (R83, R107). DEDUCED, log 92. -/
def Issued.safePoint (i : Issued) : Bool := i.sp && !i.yield

/-- What an end of the run of bundles leaves: a trap of the whole bundle, or EXIT. -/
def Issued.trapped : Issued := ⟨0, [], true, false, false⟩

/-- Whether a bundle closes its issue group (R24). -/
def Ctx.closing (x : Ctx) (b : Bundle) : Bool :=
  hdrSt b.hdr || hdrSp b.hdr || (b.slots.any fun p => Instr.closes p.2) || x.endsLoop b.addr ||
    decide (7 ≤ x.groupLen)

def State.info (s : State) (c : Nat) (b : Bundle) : Issued :=
  { mask := hdrMask b.hdr
    groups := Bundle.laneGroups b
    closing := (s.ctx c).closing b
    sp := hdrSp b.hdr
    yield := (s.ctx c).iss.yield }

/-- The safe-point entry that a header names (R84). -/
def State.safeEntry (s : State) (c : Nat) (h : Word) : Option SafeEntry :=
  match s.image c with
  | some g => g.safes[(hdrSpix h).toNat]?
  | none => none

/-- Every slot has performed: the back-edge or the branch chooses the next bundle, the issue group goes
on or ends, a safe point is passed, and the bundle's fence or drain comes into force (R24, R78, R83, R96, R106).
A bundle that holds YIELD is no safe point, whatever its header says (R107). DEDUCED, log 92. -/
def State.finish (s : State) (c : Nat) (b : Bundle) : State :=
  let i := s.info c b
  let safe := s.safeEntry c b.hdr
  s.updCtx c fun x =>
    let e := backEdge b.addr x.loops.reverse
    let pc :=
      if x.endsLoop b.addr then e.2.getD (nextBundle b.addr b.hdr)
      else x.iss.target.getD (nextBundle b.addr b.hdr)
    { x with
      pc := pc
      loops := if x.endsLoop b.addr then e.1.reverse else x.loops
      groupLen := if i.closing then 0 else x.groupLen + 1
      groupR := if i.closing then [] else x.groupR ++ Bundle.reads b
      groupW := if i.closing then [] else x.groupW ++ Bundle.writes b
      safe := if i.safePoint then safe else x.safe
      afterSafe := i.safePoint
      blocked := false
      fences := x.fences ++ x.fenceNow
      drain := x.drain ++ x.drainNow
      iss := .empty }

/-! ### An attempt to issue -/

/-- What comes of it: issued (a trap counts as issued), kept back by a block or a stall, EXIT kept back
after the other slots have performed, or no next state at all. -/
inductive Attempt where
  | issued (t : State) (i : Issued)
  | blocked (t : State)
  | stalled (t : State)
  | held (t : State)
  | stop (o : Out)

/-- A context freezes in the midst of a bundle: it is no longer directly after a safe point. -/
def State.freeze (s : State) (c : Nat) : State :=
  (s.updCtx c fun x => { x with afterSafe := false }).takeTrap c

/-- The bundle as the issue buffer holds it. -/
def Issue.bundle (i : Issue) : Bundle := ⟨i.addr, i.hdr, i.slots⟩

/-- The slots that have performed stay performed, the others issue later. -/
def State.keptBack (s : State) (c : Nat) : State :=
  s.updCtx c fun x =>
    let i := { x.iss with replay := true, block := false, stall := false, later := [] }
    { x with afterSafe := false, iss := i }

/-- EXIT comes last (R89, R109); no stop is taken while it blocks. `old` is the state before the attempt. -/
def State.endWithExit (t old : State) (c : Nat) (sl : Slot) : Attempt :=
  match exec .exit { t with slot := sl } with
  | .next u =>
    if (u.ctx c).halted then .issued u .trapped
    else if u.iss.block then
      (if t.iss.performed = old.iss.performed then
        .blocked ((old.setAllGoing c false u.iss.later).updCtx c fun x => { x with afterSafe := false })
      else .held (t.keptBack c))
    else .issued (u.freeze c) (t.info c t.iss.bundle)
  | o => .stop o

/-- Every slot but EXIT has been run: fault, EXIT, or the end of the bundle. The other slots of a bundle have performed
where one faults (R89), though it is an LDAQ, which R45 has perform before every later access. DEDUCED, log 94. -/
def State.close (u old : State) (c : Nat) (slots : List (Slot × Instr)) : Attempt :=
  if u.iss.faults ≠ [] then .issued (u.freeze c) (u.info c u.iss.bundle)
  else
    match slots.find? fun p => decide (p.2 = .exit) with
    | some p => u.endWithExit old c p.1
    | none => .issued (u.finish c u.iss.bundle) (u.info c u.iss.bundle)

/-- The slots but STRL and EXIT have been run: block, stall, STRL, then the rest. A STRL that waits for an
access of its own bundle leaves the slots that have performed. DEDUCED, log 93. -/
def State.settle (t old : State) (c : Nat) (slots : List (Slot × Instr)) : Attempt :=
  if t.iss.block then .blocked (old.setAllGoing c false t.iss.later)
  else if t.iss.stall then .stalled (old.setAllGoing c true t.iss.later)
  else
    match t.runLate (lateSlots slots) with
    | .next u =>
      if u.iss.block then .blocked (old.setAllGoing c false u.iss.later)
      else if u.iss.stall then
        .stalled (if u.iss.performed = old.iss.performed then old.setAllGoing c true u.iss.later
          else (u.applyHold c).keptBack c)
      else (u.applyHold c).close old c slots
    | o => .stop o

/-- A slot of MX comes before its spacing has passed (R198). DEDUCED, log 49. -/
def Ctx.early (x : Ctx) (now : Nat) (l : List (Slot × Instr)) : Bool :=
  decide (now < x.mxUntil) && l.any fun p => decide (p.1 = .mx ∧ p.2 ≠ .nopMx)

/-- Run the slots of a bundle whose operands have been read, or an empty bundle's header. In a bundle whose MX slot
comes too early, accesses that an open fence or drain bars do not perform. DEDUCED, log 49. -/
def State.run (s old : State) (c : Nat) (hdr : Word) (slots : List (Slot × Instr)) : Attempt :=
  let l := if slots = [] then [(Slot.ctl, emptyOf hdr)] else runOrder slots
  if (s.ctx c).early s.cycle slots then
    match s.runEarly ((l ++ lateSlots slots).filter fun p => !(s.ctx c).barred p) with
    | .next t => .issued ((t.applyHold c).freeze c) (t.info c t.iss.bundle)
    | o => .stop o
  else
    match s.runSlots l with
    | .next t => t.settle old c slots
    | o => .stop o

/-- The counts of bundles that pass as one more issues (R67, R88, R188). DESIGN CHOICE, log 50. -/
def State.tick (s : State) (c : Nat) : Out :=
  match exec (.fmtDelayExpiry c) s with
  | .next t =>
    match exec (.sfResultWrite c) t with
    | .next u => exec (.transposeBlockReady c) u
    | o => o
  | o => o

/-- The operands as the bundle reads them (R26). -/
def Ctx.latchNow (x : Ctx) : Latch := ⟨x.s, x.v, x.p, x.acc, x.rs, x.accBad, x.regBad, x.fmt⟩

/-- The issue buffer of a bundle that begins to issue. -/
def Ctx.loadIssue (x : Ctx) (b : Bundle) : Issue :=
  { Issue.empty with
    addr := b.addr, hdr := b.hdr, slots := b.slots, time := x.time, latch := x.latchNow }

/-- A bundle that has not issued stays in the buffer as the one that waits. -/
def State.waiting (s : State) (c : Nat) (b : Bundle) : State :=
  s.updCtx c fun x =>
    let i := { Issue.empty with addr := b.addr, hdr := b.hdr, slots := b.slots }
    { x with iss := i }

/-- The mark that a context is issuing. -/
def State.acting (s : State) (c : Nat) : State := { s with cur := c }

/-- A bundle fails as a whole (R28). DESIGN CHOICE, log 50. -/
def State.refuse (s : State) (c : Nat) (b : Bundle) (slot : Nat) (cause : Cause) (op : Option DWord) :
    State :=
  (s.updCtx c fun x => { x with afterSafe := false, iss := x.loadIssue b }).bundleFault c slot cause op

/-- The word at the program counter has a start bit (R21). -/
def State.marked (s : State) (c : Nat) : Bool :=
  match s.text c with
  | none => false
  | some g => g.isStart (s.ctx c).pc

/-- The bundle at the program counter, or slot, cause and operand of what is wrong with its words (R28, R311): the
target where the word has no start bit (R21, R98), free where check 1 of R28 fails (log 31). DESIGN CHOICE, log 50,
100. -/
def State.fetched (s : State) (c : Nat) : Except (Nat × Cause × Option DWord) Bundle :=
  if s.fetchBad c then .error (15, .eccUncorrected, none)
  else
    match s.fetch c with
    | .ok b => .ok b
    | .error e =>
      let f := DecodeErr.fault e
      .error (f.1, f.2.1, if s.marked c then f.2.2 else some (s.ctx c).pc)

/-- Issue the bundle at the program counter. A blocked bundle raises no fault (R80), so the checks that look at
more than its words come after the block; after a drain the bundle blocks whatever its words are (R106). One that
stalls blocks too where a slot blocks of which that can be told. DESIGN CHOICE, log 50. -/
def State.issueNew (s : State) (c : Nat) : Attempt :=
  let old := s.acting c
  match old.tick c with
  | .next t =>
    match old.fetched c with
    | .error e =>
      let b : Bundle := ⟨(s.ctx c).pc, old.headerAt c (s.ctx c).pc, []⟩
      if (old.ctx c).drained then .blocked (old.waiting c b)
      else if old.awaitsEntry c = true ∨ s.cycle < (old.ctx c).stallTo then .stalled (old.waiting c b)
      else .issued (t.refuse c b e.1 e.2.1 e.2.2) .trapped
    | .ok b =>
      let kept := old.waiting c b
      let go := fun (l : List (Slot × Instr)) =>
        (t.updCtx c fun x => { x with iss := x.loadIssue b }).run kept c b.hdr l
      let checked := fun (r : Attempt) =>
        match (t.ctx c).bundleCheck b with
        | some cause => .issued (t.refuse c b 15 cause none) .trapped
        | none => r
      if (old.ctx c).early s.cycle b.slots then checked (go b.slots)
      else if (old.ctx c).fenced b.slots then .blocked kept
      else if old.awaitsEntry c = true ∨ (old.ctx c).stallsOn b s.cycle = true then
        match go (old.tellers c b.slots) with
        | .blocked u => .blocked u
        | _ => checked (.stalled kept)
      else
        match go b.slots with
        | .blocked u => .blocked u
        | r => checked r
  | o => .stop o

/-- Issue the unperformed slots of the bundle in the replay buffer (R90). Accumulators are read now, and a load
reads memory afresh (R54), so that it sees a store of its own bundle that has performed (R89), which R41
forbids of a bundle that issues whole. A store that faulted performs now, behind a store of a higher slot of its bundle
(R89), which R42 and R121 have the other way about in a bundle that issues whole. DEDUCED, log 94. -/
def State.issueAgain (s : State) (c : Nat) : Attempt :=
  let old := s.acting c
  let x := s.ctx c
  let slots := x.iss.slots.filter fun p => !x.iss.performed.getLsbD p.1.index
  let t := old.updCtx c fun x =>
    let l := { x.iss.latch with acc := x.acc, rs := x.rs, bad := x.accBad }
    let i := { x.iss with latch := l, faults := [], block := false, stall := false, later := [] }
    { x with iss := i }
  if x.fenced slots then .blocked old
  else
    let r := t.run old c x.iss.hdr slots
    if old.awaitsEntry c = true ∨ x.orderStall (slots.filter fun p => decide (p ∉ lateSlots slots)) = true then
      match r with
      | .blocked u => .blocked u
      | _ => .stalled old
    else r

/-- Try to issue for a context, whose text Gecko keeps in the instruction store (R14). -/
def State.tryBundle (s : State) (c : Nat) : Attempt :=
  let t := s.withText c
  if (s.ctx c).iss.replay then t.issueAgain c else t.issueNew c

/-! ### A core's turn in a cycle (R27, R80 to R82, R107) -/

def State.setBlocked (s : State) (c : Nat) (b : Bool) : State :=
  s.updCtx c fun x => { x with blocked := b }

/-- Find out whether a waiting context's next bundle blocks (R80); a tile that it touches starts to
fill (R160). -/
def State.look (s : State) (c : Nat) : State :=
  let x := s.ctx c
  if x.halted = true ∨ x.stopping = true then s
  else
    match s.tryBundle c with
    | .blocked t => (State.setBlocked { t with cur := s.cur } c true)
    | _ => s.setBlocked c false

/-- Renew what the selector goes by, for every context of a core but the running one. -/
def State.lookAll (s : State) (k : Nat) : State :=
  (List.range 4).foldl (fun s i =>
    if (s.core k).running = some (4 * k + i) then s else s.look (4 * k + i)) s

/-- Choose anew (R81). -/
def State.chooseAnew (s : State) (k : Nat) : Out :=
  exec (.selectorSwitch k) ((s.unselect k).lookAll k)

/-- At a safe point: a context that is to stop gives way; else R82. -/
def State.atSafePoint (s : State) (k c : Nat) : Out :=
  if (s.ctx c).stopReq.isSome then s.chooseAnew k
  else
    let t := s.lookAll k
    let pri := (t.ctx c).pri.toNat
    if (t.readyOn k).any fun d => decide (d ≠ c) && decide ((t.ctx d).pri.toNat < pri) then
      exec (.selectorSwitch k) (t.unselect k)
    else exec (.timeSliceExpiry k) t

/-- A bundle of the running context has issued. `pairs` tells whether the next one may join it in this
cycle (R27). -/
def State.afterIssue (s : State) (k c : Nat) (i : Issued) (pairs : Bool) : Out :=
  if (s.ctx c).halted = true ∨ i.yield = true then s.chooseAnew k
  else if i.safePoint then s.atSafePoint k c
  else if pairs = true ∧ i.closing = false then
    .next (s.updCore k fun r => { r with pair := some (i.mask, i.groups) })
  else .next s

/-- The lane groups of the words behind a header that decode on their own. -/
def Text.groupsAt (g : Text) (n : Nat) : List Nat :=
  let h := g.word n
  (pairWords (hdrSlots h) (g.run (n + 1) (hdrSlots h).length)).flatMap fun p =>
    match decodeWord p.1 (hdrLent h p.1) p.2 with
    | some i => i.laneGroups
    | none => []

/-- The mask and the lane groups of the word at the program counter, read as a header. -/
def State.nextNeeds (s : State) (c : Nat) : BitVec 8 × List Nat :=
  match s.text c with
  | some g => (hdrMask (g.word ((s.ctx c).pc.toNat / 4)), g.groupsAt ((s.ctx c).pc.toNat / 4))
  | none => (0, [])

/-- The second bundle of a cycle (R27); one that traps does so in that cycle. -/
def State.pairTurn (s : State) (k c : Nat) (mask : BitVec 8) (groups : List Nat) : Out :=
  let need := s.nextNeeds c
  if (s.ctx c).halted = true ∨ need.1 &&& mask ≠ 0 ∨ (groups.any fun g => decide (g ∈ need.2)) = true then .next s
  else
    match s.tryBundle c with
    | .issued t i => t.afterIssue k c i false
    | .stop o => o
    | _ => .next s

/-- The running context's next bundle, first of its cycle. -/
def State.firstTurn (s : State) (k c : Nat) : Out :=
  match s.tryBundle c with
  | .issued t i => t.afterIssue k c i true
  | .stalled t => .next t
  | .blocked t => (t.setBlocked c true).chooseAnew k
  | .held t => (t.setBlocked c true).chooseAnew k
  | .stop o => o

/-- While the power limit is reached, empty issue cycles are inserted; which cycles is open (R313).
DESIGN CHOICE, log 68. -/
def State.throttled (s : State) : Bool × State :=
  if s.host.throttle then s.drawBit else (false, s)

/-- A core's turn. -/
def State.coreTurn (s0 : State) (k : Nat) : Out :=
  let core := s0.core k
  let s := s0.updCore k fun r => { r with pair := none }
  match core.pair, core.running with
  | some p, some c => s.pairTurn k c p.1 p.2
  | _, running =>
    if s.cycle < core.waitTo then .next s
    else
      let d := s.throttled
      if d.1 then .next d.2
      else
        match running with
        | none => d.2.chooseAnew k
        | some c =>
          if (s.ctx c).halted = true ∨ (s.ctx c).stopping = true then
            d.2.chooseAnew k
          else d.2.firstTurn k c

end Sys2Proof.Machine
end

