-- ==== Sys2Proof/Machine/Step.lean ====
section
/-!
DEFINITION. One step of the device: an event that is due, else the turn of a core, else the next cycle.
And how an instruction is placed where the next step issues it.
-/
namespace Sys2Proof.Machine

open Sys2Proof

/-- Cores that hold a context, in ascending order. DESIGN CHOICE, log 2. -/
def State.busyCores (s : State) : List Nat :=
  ((s.ctxs.filter fun e => e.2.occupied).map fun e => coreOf e.1).eraseDups

/-- The clock ticks (R9): every core that holds a context has its turn in the new cycle. Errors of memory strike, what
peer devices have sent arrives, and members of collectives and contexts that are ending go on with it, before that
(R109, R294, R311).
DESIGN CHOICE, log 2, 70, 100. -/
def State.nextCycle (s : State) : State :=
  let t := (State.errorsStrike { s with cycle := s.cycle + 1 }).peersArrive.collsEnd.finishEnds
  { t with todo := t.busyCores }

/-- Nothing acts any more: the power is gone and no power-up is to come (R235, R236). DESIGN CHOICE, log 73. -/
def State.dead (s : State) : Bool :=
  !s.host.powered && !(s.agenda.any fun e => decide (e.2 = .powerUpRecovery))

/-- A core has had its turn; it has another in the same cycle when a second bundle may join (R27). -/
def State.turnDone (s : State) (k : Nat) (rest : List Nat) : State :=
  { s with todo := if (s.core k).pair.isSome then k :: rest else rest }

/-- The turn of the next core of this cycle, or the next cycle. DESIGN CHOICE, log 2. -/
def State.turn (s : State) : Out :=
  match s.todo with
  | k :: rest =>
    match s.coreTurn k with
    | .next t => .next (t.turnDone k rest)
    | o => o
  | [] => if s.dead then .fault .noPower else .next s.nextCycle

/-- One step. DESIGN CHOICE, log 2, 73. -/
def step (s : State) : Host.Outcome State Fault Refusal :=
  match s.agenda with
  | e :: r => if e.1 ≤ s.cycle then exec e.2 { s with agenda := r } else s.turn
  | [] => s.turn

/-! ### Placing an instruction -/

/-- The words of a bundle that holds the table's word alone. DESIGN CHOICE, log 12, 13. -/
def wordsFor (x : Word) : List Word :=
  if fld x 16 16 = 0 ∧ fld x 0 8 = 0 then [x]
  else
    match tableChoice x with
    | some p => [headerOne p.1 0, x]
    | none => [headerOne .ctl 0, x]

/-- A text of one bundle. DESIGN CHOICE, log 13. -/
def textOf (ws : List Word) : Text := { words := Store.put 0 [] 0 ws, len := ws.length, starts := [0] }

/-- An image whose text is one bundle. DESIGN CHOICE, log 13. -/
def imageOf (ws : List Word) : Image :=
  { text := textOf ws, safes := [], kernels := [], sums := [], digest := 0 }

/-- `s` with an instruction as the one bundle of image 0 of partition 0, in a context that runs on core 0
and whose turn comes next. The bits of `w` above `nbits` are dropped. DESIGN CHOICE, log 13. -/
def State.withFetchWord (s : State) (nbits w : Nat) : State :=
  let g := imageOf (wordsFor (BitVec.ofNat 32 (w % 2 ^ nbits)))
  let s1 := (s.updPart 0 fun P => { P with images := Store.set none P.images 0 (some g) }).updCluster 0
    fun k => { k with istore := Store.set none k.istore 0 (some g.text) }
  let s2 := s1.setCtx 0 { Ctx.free with occupied := true }
  let s3 := s2.updCore 0 fun k => { k with running := some 0, waitTo := 0, pair := none }
  let h := { s3.host with throttle := false }
  { s3 with agenda := [], todo := [0], host := h }

end Sys2Proof.Machine
end

