-- ==== Sys2Proof/Safety.lean ====
section
/-!
DEFINITION. The terms in which statements about the machine are made: what an instruction leaves as it
was, what it writes, and the invariants of the state. A safe run is one on which no step faults.
-/
namespace Sys2Proof.Machine

open Sys2Proof

/-! ### What is left as it was -/

/-- `m` is `l` with more at its end, every added element satisfying `p`. -/
def Grows {α : Type} (p : α → Prop) (l m : List α) : Prop := ∃ r, m = l ++ r ∧ ∀ x ∈ r, p x

/-- Context `y` is context `x` but for the registers in `W`, which may be pending, and for accesses of the
kinds in `A` that are outstanding besides. -/
def Ctx.keepsBut (W : List RegId) (A : List AccKind) (x y : Ctx) : Prop :=
  (∀ n, RegId.s n ∉ W → y.rdS n = x.rdS n) ∧ (∀ n, RegId.v n ∉ W → y.rdV n = x.rdV n) ∧
    (∀ n, RegId.p n ∉ W → y.rdP n = x.rdP n) ∧ Grows (fun q => q.reg ∈ W) x.score y.score ∧
    Grows (fun q => q.kind ∈ A) x.outst y.outst ∧
    { y with s := x.s, v := x.v, p := x.p, score := x.score, outst := x.outst } = x

/-- The agenda of `t` is that of `s` and what the running context's own results and accesses add. -/
def State.agendaKept (s t : State) : Prop :=
  (∀ e ∈ s.agenda, e ∈ t.agenda) ∧
    ∀ e ∈ t.agenda, e ∈ s.agenda ∨ ∃ id, e.2 = .resultLanding s.cur id ∨ e.2 = .accessCompletion s.cur id

/-- Everything but one context and the model's own bookkeeping is as it was; memory byte for byte. -/
def State.othersKept (s t : State) : Prop :=
  (∀ d, d ≠ s.cur → t.ctx d = s.ctx d) ∧ (∀ k, t.byte k = s.byte k) ∧ s.agendaKept t ∧
    { t with ctxs := s.ctxs, agenda := s.agenda, delays := s.delays, nextIdent := s.nextIdent } = s

/-- The frame of an instruction that writes the registers `W` alone, and of a load (`A`): every other
register, flag, special register and accumulator, and all of memory, is as it was. -/
def State.regsOnly (W : List RegId) (A : List AccKind) (s t : State) : Prop :=
  s.me.keepsBut W A t.me ∧ s.othersKept t

/-- The frame of an instruction that makes the running context `y` and changes nothing else. -/
def State.onlyMe (s t : State) (y : Ctx) : Prop :=
  t.me = y ∧ (∀ d, d ≠ s.cur → t.ctx d = s.ctx d) ∧ { t with ctxs := s.ctxs } = s

/-- As `onlyMe`, for context `c`. -/
def State.onlyCtx (s t : State) (c : Nat) (y : Ctx) : Prop :=
  t.ctx c = y ∧ (∀ d, d ≠ c → t.ctx d = s.ctx d) ∧ { t with ctxs := s.ctxs } = s

/-- The frame of an event that makes partition `p` the partition `P` and changes nothing else. -/
def State.onlyPart (s t : State) (p : Nat) (P : Part) : Prop :=
  t.part p = P ∧ (∀ q, q ≠ p → t.part q = s.part q) ∧ { t with parts := s.parts } = s

/-- The frame of an event that makes core `k` the core `x` and changes nothing else. -/
def State.onlyCore (s t : State) (k : Nat) (x : Core) : Prop :=
  t.core k = x ∧ (∀ j, j ≠ k → t.core j = s.core j) ∧ { t with cores := s.cores } = s

/-- Partition `Q` is `P` but for its log of refused accesses (R301, R304). -/
def Part.logOnly (P Q : Part) : Prop := { Q with logSeq := P.logSeq, refusals := P.refusals } = P

/-- `t` is `s` but for memory with its tags and poisoned lines, the tables of handles, and the logs of partitions. -/
def State.onlyMemory (s t : State) : Prop :=
  (∀ c, { t.ctx c with tiles := (s.ctx c).tiles } = s.ctx c) ∧ (∀ p, (s.part p).logOnly (t.part p)) ∧
    { t with ctxs := s.ctxs, mem := s.mem, tags := s.tags, parts := s.parts, poison := s.poison } = s

/-- A tile that shares line `line` of memory has recorded line `l` (R158): a write of `line` by another
agent sends its bytes home (R160). -/
def State.sharesWith (s : State) (line l : Nat) : Prop :=
  ∃ x ∈ s.sharers line, ∃ t, s.tile x.1 x.2.1 = some t ∧ ∃ j ∈ t.phys, j.2 = l + 1

/-- A tile that has given up its contents (R160). -/
def Tile.givenUp (t : Tile) : Tile := t.settled.emptied

/-- Every tile is as it was, or shares a line in `L` and has given up its contents (R160). -/
def State.tilesKept (L : Nat → Prop) (s t : State) : Prop :=
  ∀ c th, t.tile c th = s.tile c th ∨
    (∃ line j, L line ∧ (c, th, j) ∈ s.sharers line) ∧ t.tile c th = (s.tile c th).map Tile.givenUp

/-- A byte of the top 64 KiB of a partition, where the device keeps its logs (R304). -/
def State.deviceOwned (s : State) (k : Nat) : Prop :=
  ∃ p, keyOf p (s.part p).ownedFrom ≤ k ∧ k < keyOf p (s.part p).ownedFrom + 65536

/-- A write of the lines in `L` may reach byte `k`: a tile that shares one of them goes home to its line, or has a line
refused, which is logged (R160, R301). -/
def State.reaches (L : Nat → Prop) (s : State) (k : Nat) : Prop :=
  ∃ line, L line ∧ (s.sharesWith line (k / 128) ∨ s.sharers line ≠ [] ∧ s.deviceOwned k)

/-- Every byte of memory outside `B` that a write of the lines in `L` does not reach is as it was. -/
def State.bytesKept (L B : Nat → Prop) (s t : State) : Prop :=
  ∀ k, ¬ B k → ¬ s.reaches L k → t.byte k = s.byte k

/-! ### What an instruction does -/

/-- `i` completes and makes the running context `y`, no more. -/
def Makes (s : State) (i : Instr) (y : Ctx) : Prop := ∃ t, exec i s = .next t ∧ s.onlyMe t y

/-- `i` completes, writes `v` to scalar register `d` (a write to `s0` is discarded, R111) and leaves
everything else. -/
def WritesS (s : State) (i : Instr) (d : BitVec 6) (v : DWord) : Prop :=
  ∃ t, exec i s = .next t ∧ t.me.rdS d = (if d = 0 then 0 else v) ∧ s.regsOnly [.s d] [] t

/-- `i` completes, writes `v` to vector register `d` and leaves everything else. -/
def WritesV (s : State) (i : Instr) (d : BitVec 6) (v : VWord) : Prop :=
  ∃ t, exec i s = .next t ∧ t.me.rdV d = v ∧ s.regsOnly [.v d] [] t

/-- `i` completes, writes `v` to predicate register `d` (`p0` and `p8` stay all ones, R130) and leaves
everything else. -/
def WritesP (s : State) (i : Instr) (d : BitVec 4) (v : PWord) : Prop :=
  ∃ t, exec i s = .next t ∧ t.me.rdP d = (if d = 0 ∨ d = 8 then BitVec.allOnes 128 else v) ∧
    s.regsOnly [.p d] [] t

/-- Element `e` of `b` bits of a vector register (R129). -/
def eltBits (b : Nat) (x : VWord) (e : Nat) : BitVec b := x.extractLsb' (b * e) b

/-- `i` completes, writes vector register `d` so that every element of `b` bits that the region holds and
the predicate governs is what `f` gives, every other element as the bundle read it, and leaves everything
else (R130, R131). -/
def WritesElts (s : State) (i : Instr) (d : BitVec 6) (l : Lanes) (b : Nat) (f : Nat → Nat) : Prop :=
  ∃ t, exec i s = .next t ∧
    (∀ e, e < 4096 / b →
      eltBits b (t.me.rdV d) e =
        if inRegion l (b * e / 32) = true ∧ (s.gov l).getLsbD (b * e / 32) = true then
          BitVec.ofNat b (f e)
        else eltBits b (s.opV d) e) ∧ s.regsOnly [.v d] [] t

/-- `i` is a next state in which its slot has raised the fault `c` and nothing else has changed (R89). -/
def Faults (s : State) (i : Instr) (c : Cause) (op det : Option DWord) : Prop :=
  Makes s i { s.me with iss := { s.me.iss with
    faults := s.me.iss.faults ++ [⟨s.slot.index, c, op, det, 0⟩] } }

/-- `i` is a next state in which its bundle is marked as one that blocks, and nothing else has changed
(R80). -/
def Blocks (s : State) (i : Instr) : Prop :=
  Makes s i { s.me with iss := { s.me.iss with block := true } }

/-- `i` is a next state in which its bundle is marked as one that stalls, and nothing else has changed
(R128). -/
def Stalls (s : State) (i : Instr) : Prop :=
  Makes s i { s.me with iss := { s.me.iss with stall := true } }

/-- `i` completes and changes nothing. -/
def ChangesNothing (s : State) (i : Instr) : Prop := exec i s = .next s

/-! ### Loads, stores and atomics -/

/-- Every access of the running context that is outstanding has passed completion point `n` of R40: 2 at the home of its
line, 3 at system scope. -/
def allPast (s : State) (n : Nat) : Prop := ∀ x ∈ s.me.outst, n ≤ x.stage

/-- A route that ends at bytes of a tile or of memory. -/
def Route.isPlace (r : Route) : Prop := (∃ c th o, r = .stash c th o) ∨ ∃ k, r = .mem k

/-- `i` loads `2^lg` bytes at `ea` into scalar register `d`, extended by `f`, wherever the address leads to
a place, and leaves everything else, every byte of memory included; a refused read gives ones (R119). -/
def LoadsS (s : State) (i : Instr) (d : BitVec 6) (ea : DWord) (lg : Nat) (f : Nat → DWord) : Prop :=
  ea.toNat % 2 ^ lg = 0 →
    ((s.route s.cur ea true false).isPlace →
      ∃ t, exec i s = .next t ∧
        t.me.rdS d = (if d = 0 then 0 else f (s.readAt (s.route s.cur ea true false) (2 ^ lg))) ∧
        s.regsOnly [.s d] [.load] t) ∧
    (s.route s.cur ea true false = .refused →
      ∃ t, exec i s = .next t ∧ t.me.rdS d = (if d = 0 then 0 else f (2 ^ (8 * 2 ^ lg) - 1)) ∧
        t.iss = s.iss ∧ t.mem = (s.logMine ea).mem)

/-- `u` is `s` with `bytes` stored at key `k` of memory and nothing else changed: every byte outside them
reads as before but in lines that a tile holds which shares the line stored to, and such tiles alone give
up their contents (R160). -/
def State.storedAt (s u : State) (k : Nat) (bytes : List Byte) : Prop :=
  u.rdMem k bytes.length = bytes ∧ s.onlyMemory u ∧ s.tilesKept (fun l => l = k / 128) u ∧
    s.bytesKept (fun l => l = k / 128) (fun j => k ≤ j ∧ j < k + bytes.length) u

/-- `u` is `s` with `bytes` stored at byte `o` of tile `th` of context `c`, which was `tl`: a backed tile
turns DIRTY, and tiles elsewhere that share the line give up their contents (R160). -/
def State.stashedAt (s u : State) (c th o : Nat) (tl : Tile) (bytes : List Byte) : Prop :=
  u.tile c th = some { tl with
    data := Store.put 0 tl.data o bytes, st := if tl.scr then tl.st else .dirty } ∧
    s.onlyMemory u ∧
    (∀ a b, ¬ (a = c ∧ b = th) → u.tile a b = s.tile a b ∨
      (∃ line j, Store.get 0 tl.phys (o / 128) = line + 1 ∧ (a, b, j) ∈ s.sharers line) ∧
        u.tile a b = (s.tile a b).map Tile.givenUp) ∧
    s.bytesKept (fun l => Store.get 0 tl.phys (o / 128) = l + 1) (fun _ => False) u

/-- `i` stores the bytes of `v` at `ea` wherever the address leads to a place, and leaves everything else; a
refused write is dropped and logged (R119). -/
def StoresS (s : State) (i : Instr) (ea : DWord) (lg : Nat) (v : Nat) : Prop :=
  ea.toNat % 2 ^ lg = 0 →
    (∀ k, s.route s.cur ea false true = .mem k →
      ∃ u t, exec i s = .next t ∧ s.storedAt u k (leBytes (2 ^ lg) v) ∧ u.regsOnly [] [.store] t) ∧
    (∀ c th o tl, s.route s.cur ea false true = .stash c th o → s.tile c th = some tl →
      ∃ u t, exec i s = .next t ∧ s.stashedAt u c th o tl (leBytes (2 ^ lg) v) ∧
        u.regsOnly [] [.store] t) ∧
    (s.route s.cur ea false true = .refused →
      ∃ t, exec i s = .next t ∧ t.iss = s.iss ∧ t.mem = (s.logMine ea).mem)

/-- `i` reads `2^lg` bytes at `ea`, writes what `new` makes of them, if anything, and puts the old value
into scalar register `d`, in one step (R123 to R125). -/
def SwapsS (s : State) (i : Instr) (d : BitVec 6) (ea : DWord) (lg : Nat) (new : Nat → Option Nat) :
    Prop :=
  ea.toNat % 2 ^ lg = 0 →
    let r := s.route s.cur ea true true
    let old := s.readAt r (2 ^ lg)
    (∀ k, r = .mem k → ∃ u t, exec i s = .next t ∧
      (match new old with
       | some v => s.storedAt u k (leBytes (2 ^ lg) v)
       | none => u = s) ∧
      t.me.rdS d = (if d = 0 then 0 else extendLoad lg true old) ∧ u.regsOnly [.s d] [.atomic] t) ∧
    (∀ c th o tl, r = .stash c th o → s.tile c th = some tl → ∃ u t, exec i s = .next t ∧
      (match new old with
       | some v => s.stashedAt u c th o tl (leBytes (2 ^ lg) v)
       | none => u = s) ∧
      t.me.rdS d = (if d = 0 then 0 else extendLoad lg true old) ∧ u.regsOnly [.s d] [.atomic] t) ∧
    (r = .refused → ∃ t, exec i s = .next t ∧ t.iss = s.iss ∧ t.mem = (s.logMine ea).mem ∧
      t.me.rdS d = (if d = 0 then 0 else extendLoad lg true (2 ^ (8 * 2 ^ lg) - 1)))

/-- A scalar access that finds no place faults, blocks, stalls or starts a fill, and does nothing else (R80, R119,
R120, R160, R199, R312). -/
def StopsS (s : State) (i : Instr) (ea : DWord) (lg : Nat) (read write : Bool) : Prop :=
  let r := s.route s.cur ea read write
  (ea.toNat % 2 ^ lg ≠ 0 → ∃ det, Faults s i .align (some ea) (some det)) ∧
    (ea.toNat % 2 ^ lg = 0 →
      (r = .miss → ∃ det, Faults s i .lateMiss (some ea) (some det)) ∧
      (r = .prot → ∃ det, Faults s i .protection (some ea) (some det)) ∧
      (r = .faulted → ∃ det, Faults s i .fillFault (some ea) (some det)) ∧
      (r = .hostGone → ∃ det, Faults s i .hostGone (some ea) (some det)) ∧
      (r = .poison → ∃ det, Faults s i .eccUncorrected (some ea) (some det)) ∧
      (r = .wait → Blocks s i) ∧ (r = .busy → Stalls s i) ∧
      ∀ c th, r = .start c th → Makes s i { s.me with iss := { s.me.iss with
        block := true, later := s.me.iss.later ++ [.startFill c th] } })

/-! ### Shapes of the statements -/

/-- `i` makes control go to `a` once its bundle has performed, and changes nothing else (R96). -/
def GoesTo (s : State) (i : Instr) (a : DWord) : Prop :=
  Makes s i { s.me with iss := { s.me.iss with target := some a } }

/-- The special registers of R93, by number. -/
def specialRegs : List (BitVec 12) :=
  [0x000, 0x001, 0x002, 0x003, 0x004, 0x005, 0x010, 0x011, 0x012, 0x013, 0x014, 0x015, 0x020, 0x030, 0x031, 0x032,
    0x033, 0x034, 0x035, 0x040, 0x041, 0x050, 0x051, 0x052, 0x053, 0x054, 0x055]

/-- Line `k` of a region holds a governed lane (R148). -/
def lineGoverned (s : State) (l : Lanes) (k : Nat) : Prop :=
  k < l.w.groups ∧ ∃ n, n < 32 ∧ (s.gov l).getLsbD (32 * (l.lg.toNat + k) + n) = true

/-- `t` with the done marks of `s` (R150). -/
def withDone (s t : State) : State := t.updIss fun i => { i with done := s.iss.done }

/-- `i` loads the governed elements of a region that have not performed yet, in one attempt, whenever each has
its place (R149, R150). -/
def LoadsElts (s : State) (i : Instr) (v : BitVec 6) (l : Lanes) (b : Nat) (addr : Nat → Nat → DWord) :
    Prop :=
  let first := 1024 * l.lg.toNat / b
  let todo := fun e => inRegion l (b * e / 32) = true ∧ (s.gov l).getLsbD (b * e / 32) = true ∧
    (Store.get 0 s.iss.done s.slot.index).getLsbD (e - first) = false
  (∀ e, e < 4096 / b → todo e → (addr (e - first) e).toNat % (b / 8) = 0 ∧
    (s.route s.cur (addr (e - first) e) true false).isPlace) → s.hasFault = false →
  ∃ t, exec i s = .next t ∧ s.regsOnly [.v v] [.load] (withDone s t) ∧
    ∀ e, e < 4096 / b →
      eltBits b (t.me.rdV v) e =
        (if todo e then BitVec.ofNat b (s.readAt (s.route s.cur (addr (e - first) e) true false) (b / 8))
         else eltBits b (s.me.rdV v) e) ∧
      (todo e → (Store.get 0 t.iss.done s.slot.index).getLsbD (e - first) = true)

/-- The `n` bytes at one place and those at another have a byte in common. -/
def Route.meets (n : Nat) (r q : Route) : Prop :=
  (∃ k m, r = .mem k ∧ q = .mem m ∧ k < m + n ∧ m < k + n) ∨
    ∃ c th o p, r = .stash c th o ∧ q = .stash c th p ∧ o < p + n ∧ p < o + n

/-- A write at a place is a write of line `x` of memory: the tiles elsewhere that share it give it up (R160). -/
def State.claims (s : State) (r : Route) (x : Nat) : Prop :=
  (∃ k, r = .mem k ∧ x = k / 128) ∨
    ∃ c th o t, r = .stash c th o ∧ s.tile c th = some t ∧ Store.get 0 t.phys (o / 128) = x + 1

/-- `i` stores the governed elements of a region that have not performed yet, in ascending order, whenever each
has its place in memory or in a tile, and none of them makes a tile that another is stored to give up its contents.
Nothing else changes, and every element that no later one overlaps is there afterwards; one in memory, unless the
device keeps a log there, which a later one may add to (R149, R150, R160). -/
def StoresElts (s : State) (i : Instr) (v : BitVec 6) (l : Lanes) (b : Nat) (addr : Nat → Nat → DWord) :
    Prop :=
  let first := 1024 * l.lg.toNat / b
  let todo := fun e => inRegion l (b * e / 32) = true ∧ (s.gov l).getLsbD (b * e / 32) = true ∧
    (Store.get 0 s.iss.done s.slot.index).getLsbD (e - first) = false
  let on := fun e => e < 4096 / b ∧ todo e
  let r := fun e => s.route s.cur (addr (e - first) e) false true
  let n := b / 8
  let lines := fun x => ∃ e, on e ∧ s.claims (r e) x
  (∀ e, on e → (addr (e - first) e).toNat % n = 0 ∧ (r e).isPlace) →
  (∀ e f c th o x j, on e → on f → r e = .stash c th o → s.claims (r f) x → (c, th, j) ∈ s.sharers x →
    ∃ p, r f = .stash c th p) →
  s.hasFault = false →
  ∃ u t, exec i s = .next t ∧ s.onlyMemory u ∧ u.regsOnly [] [.store] (withDone s t) ∧
    (∀ e, on e → (Store.get 0 t.iss.done s.slot.index).getLsbD (e - first) = true) ∧
    s.bytesKept lines (fun j => ∃ e k, on e ∧ r e = .mem k ∧ k ≤ j ∧ j < k + n) u ∧
    (∀ c th, (∀ e o, on e → r e ≠ .stash c th o) → u.tile c th = s.tile c th ∨
      (∃ x j, lines x ∧ (c, th, j) ∈ s.sharers x) ∧ u.tile c th = (s.tile c th).map Tile.givenUp) ∧
    (∀ c th tl, s.tile c th = some tl → (∃ e o, on e ∧ r e = .stash c th o) →
      ∃ d, u.tile c th = some { tl with data := d, st := if tl.scr then tl.st else .dirty } ∧
        ∀ k, (∀ e o, on e → r e = .stash c th o → ¬ (o ≤ k ∧ k < o + n)) →
          Store.get 0 d k = Store.get 0 tl.data k) ∧
    ∀ e, on e → (∀ f, e < f → on f → ¬ Route.meets n (r e) (r f)) →
      let bytes := leBytes n (eltBits b (s.opV v) e).toNat
      (∀ k, r e = .mem k → ((∃ f, e < f ∧ on f) → ∀ j, k ≤ j → j < k + n → ¬ s.deviceOwned j) →
        u.rdMem k n = bytes) ∧
      ∀ c th o tl, r e = .stash c th o → u.tile c th = some tl → Store.list 0 tl.data o n = bytes

/-- The matrix engine takes an instruction that names accumulator `acc` (R198, R199). -/
def engineFree (s : State) (acc : Option (BitVec 3)) : Prop :=
  s.me.mxUntil ≤ s.cycle ∧ s.engineTaken = false ∧ ∀ a, acc = some a → a.toNat ∉ s.me.accBusy

/-- None of the first `rows` rows of accumulator `n`, as the bundle read them, has an uncorrectable error (R200). -/
def accClean (s : State) (n rows : Nat) : Prop := ∀ r ∈ s.iss.latch.bad, ¬ (128 * n ≤ r ∧ r < 128 * n + rows)

/-- `t` is `s` but for the contents of accumulators and row sums and the hold on the engine. -/
def onlyAcc (s t : State) (h : MxHold) : Prop :=
  s.onlyMe t { s.me with
    acc := t.me.acc, accBad := t.me.accBad, rs := t.me.rs, iss := { s.me.iss with hold := some h } }

/-- The tiles of a multiply stand ready (R202): both handles are mapped plain tiles, FULL, not busy, of the types
that `fmt` selects, in different bank groups, unsealed and free of poison. -/
def operandsReady (s : State) (m : MmaArgs) (ta tb : Tile) : Prop :=
  m.ta.toNat < 24 ∧ m.tb.toNat < 24 ∧ s.me.tile m.ta.toNat = some ta ∧ s.me.tile m.tb.toNat = some tb ∧
    ta.ty.toNat = fmtMxa s.opFmt ∧ tb.ty.toNat = fmtMxb s.opFmt ∧
    (∀ t ∈ [ta, tb], (t.st = .full ∨ t.st = .dirty) ∧ t.busy = [] ∧ t.sealed = false ∧ t.poison = []) ∧
    ta.bankY ≠ tb.bankY

/-- Element `k` of row `i` of a tile whose type has `b` bits (R156). -/
def tileElt (t : Tile) (b i k : Nat) : Nat := rowElt b (t.row i) k

/-- What a multiply leaves of its accumulator: rows from `rows` on, other accumulators, and everything but its
hold on the engine for `beats` cycles (R203). -/
def mmaFrame (s t : State) (m : MmaArgs) (beats rows : Nat) : Prop :=
  onlyAcc s t ⟨beats, some m.acc.toNat, [(s.cur, m.ta.toNat), (s.cur, m.tb.toNat)], none⟩ ∧
    ∀ j, (j / 128 ≠ m.acc.toNat ∨ rows ≤ j % 128) →
      Store.get 0 t.me.acc j = Store.get 0 s.me.acc j ∧ (j ∈ t.me.accBad ↔ j ∈ s.me.accBad)

/-- The journal of the running context's core has room (R167). -/
def journalRoom (s : State) : Prop :=
  (s.core (s.cur / 4)).journal.countP (fun q => decide (q.entry < 64)) < 64

/-- `t` is `u` but that command `q` of kind `kind` has entered the journal of core `k` in its lowest free entry
and is to start; the bundle that issued it is noted with it (R48, R104, R166, R167). -/
def postedOn (s u t : State) (kind : CmdKind) (tok : BitVec 5) (waits : List Nat) : Prop :=
  let k := s.cur / 4
  ∃ q, t.core k = { u.core k with journal := (u.core k).journal ++ [q] } ∧
    q.id = u.nextIdent ∧ q.ctx = s.cur ∧ q.part = s.me.part ∧ q.kind = kind ∧ q.tok = tok ∧
    q.waits = waits ∧ q.started = false ∧ q.failed = none ∧ q.killed = false ∧ q.after = [] ∧
    (q.entry < 64 ∧ (∀ r ∈ (u.core k).journal, r.entry ≠ q.entry) ∧
      ∀ e, e < q.entry → ∃ r ∈ (u.core k).journal, r.entry = e) ∧
    (∃ w, s.cycle ≤ w ∧ ∀ e, e ∈ t.agenda ↔ e ∈ u.agenda ∨ e = (w, .dmCommandStart k q.id)) ∧
    (∀ j, j ≠ k → t.core j = u.core j) ∧
    t.me = { u.me with iss := { u.me.iss with cmd := some q.id } } ∧ (∀ d, d ≠ s.cur → t.ctx d = u.ctx d) ∧
    { t with
      ctxs := u.ctxs, cores := u.cores, agenda := u.agenda, delays := u.delays, nextIdent := u.nextIdent } = u

/-- `i` posts a command and does nothing else, or stalls while the journal is full. -/
def PostsCmd (s : State) (i : Instr) (kind : CmdKind) (tok : BitVec 5) (waits : List Nat) : Prop :=
  (journalRoom s → ∃ t, exec i s = .next t ∧ postedOn s s t kind tok waits) ∧ (¬ journalRoom s → Stalls s i)

/-- The handle names no tile (R175). -/
def noTile (s : State) (th : BitVec 5) : Prop := 24 ≤ th.toNat ∨ s.me.tile th.toNat = none

/-- Commands in flight of the running context that produce one of these tokens (R166). -/
def tokenProducers (s : State) (ks : List (BitVec 5)) : List Nat :=
  ((s.cores.flatMap fun e => e.2.journal).filter fun q =>
    decide (q.ctx = s.cur ∧ q.tok ≠ 31 ∧ q.tok ∈ ks)).map Cmd.id

/-- The command of an event under way (R166): it has started and has not failed. -/
def underWay (s : State) (k id : Nat) (q : Cmd) (kind : CmdKind) : Prop :=
  s.cmd k id = some q ∧ q.started = true ∧ q.failed = none ∧ q.kind = kind

/-- The command has left its journal (R166). -/
def cmdGone (u : State) (k id : Nat) : Prop := ∀ r ∈ (u.core k).journal, r.id ≠ id

/-- The command stays in its journal with its mark (R165); a fill that a touch started, which has no entry there, is
gone. -/
def cmdFailed (u : State) (k id : Nat) (q : Cmd) (f : FailKind × DWord) : Prop :=
  if q.entry = 64 then cmdGone u k id else ∃ r ∈ (u.core k).journal, r.id = id ∧ r.failed = some f

/-- The port that an instruction names is bound, and the partition's frontiers are not frozen (R246, R254). -/
def portReady (s : State) (n p : BitVec 6) : Prop :=
  s.me.port n = some p ∧ (s.part s.me.part).underflow = none

/-- An instruction that counts first (R252): it sends its increment and stalls, stalls until Chorus has answered,
and then does `go` or, where Chorus refused, faults. -/
def Counts (s : State) (i : Instr) (p : BitVec 6) (t : LTime) (hold : Bool) (go : Prop) : Prop :=
  let rest := s.me.incs.filter fun i => decide (i.slot ≠ s.slot)
  (s.incOf s.slot = none → Makes s i { s.me with iss := { s.me.iss with
    stall := true, later := s.me.iss.later ++ [.increment s.slot p t hold] } }) ∧
  ∀ j, s.incOf s.slot = some j →
    (j.st = .acked → go) ∧ ((j.st = .sent ∨ j.st = .counted ∨ j.st = .refused) → Stalls s i) ∧
    (j.st = .ackedRefused → Makes s i { s.me with
      incs := rest
      iss := { s.me.iss with faults := s.me.iss.faults ++ [⟨s.slot.index, .frontierOrder, none, some 1, 0⟩] } })

/-- R253, R258: what the announcement that the cluster has applied says of a port, at a depth. -/
def reachedAt (s : State) (p : BitVec 6) (d : Depth) : Prop :=
  ∃ f, Store.get none (s.cluster (s.cur / 32)).ann p.toNat = some f ∧ f.reaches s.me.iss.time d.val = true

/-- The context that has taken the terms unit's answer to its question (R225). -/
def answered (s : State) : Ctx := { s.me with asks := s.me.asks.filter fun a => decide (a.slot ≠ s.slot) }

/-- Context `y` is `x` but for what a recall of shared lines may do to its tiles (R160). -/
def sameBut (x y : Ctx) : Prop := { y with tiles := x.tiles } = x

/-- `t` is what is left of `s` once the slot of context `c` is free, with `status` in its status word: its registers
are as they were (R109, R209, R217). -/
def SlotFreed (s t : State) (c status : Nat) : Prop :=
  let x := s.ctx c
  t.ctx c = x.ended ∧ ∀ key, x.statusAddr ≠ 0 → x.statusAddr.toNat % 8 = 0 →
    s.xlate x.part x.statusAddr true = .ok key true → t.rdMem key 8 = leBytes 8 status

/-- A context that is ending still has to wait: for its tiles, its write-backs, which perform at cycle `n`, its matrix
instruction, or a busy tile that keeps the line of its status word (R109, R160, R234). -/
def State.endWaits (s : State) (c n : Nat) : Prop :=
  (s.ctx c).tiles ≠ [] ∨ s.cycle < n ∨ s.cycle < (s.ctx c).mxUntil ∨ s.statusBusy c = true

/-- `t` is what is left of `s` once context `c` has begun to end with `status` (R109, R209, R217, R234): its locks and
page requests are gone, no command is its own any more, and its slot is free, or it runs no more and waits. -/
def Ended (s t : State) (c status : Nat) : Prop :=
  let x := s.ctx c
  (∀ l ∈ t.locks, l.ctx ≠ x.identity) ∧ (∀ r ∈ t.host.pri, r.1 ≠ c) ∧
    (c < 2048 → x.identity ≠ 0 → ∀ k, ∀ q ∈ (t.core k).journal, q.ctx ≠ c) ∧
    (SlotFreed s t c status ∨ ∃ n, (t.ctx c).ending = some (n, status) ∧ t.endWaits c n ∧
      (t.ctx c).ready = false ∧ (t.ctx c).ended = x.ended ∧ (t.ctx c).caps = [])

/-- `t` is `u` but for the reply of a command: the door is clear and, while the host link is not down, the status and
the reply value stand in MBSTAT and an interrupt has been raised (R289, R292). -/
def Replied (u t : State) (fn st v : Nat) : Prop :=
  let m := u.mail fn
  t.mail fn = (if u.host.ready = true ∧ u.host.link = .down then { m with door := false, taken := false, waits := none }
    else { m with door := false, taken := false, waits := none, stat := BitVec.ofNat 64 (st + 256 * v), msi :=
      m.msi + 1 }) ∧
    { t with host := { t.host with mail := u.host.mail } } = u

/-- `i` completes with this reply and changes nothing else. -/
def RepliesOnly (s : State) (i : Instr) (fn st v : Nat) : Prop := ∃ t, exec i s = .next t ∧ Replied s t fn st v

/-- Core `k` is the next to have its turn, context `c` runs on it, and nothing keeps a new bundle from it (R27,
R80, R81, R90, R313). -/
def hasTurn (s : State) (k c : Nat) (rest : List Nat) : Prop :=
  (∀ e r, s.agenda = e :: r → s.cycle < e.1) ∧ s.todo = k :: rest ∧ (s.core k).pair = none ∧
    (s.core k).running = some c ∧ (s.core k).waitTo ≤ s.cycle ∧ s.host.throttle = false ∧
    (s.ctx c).occupied = true ∧ (s.ctx c).frozen = false ∧ (s.ctx c).stopping = false ∧
    (s.ctx c).ending = none ∧ (s.ctx c).iss.replay = false

/-- What the step of a core's turn answers, given what the turn does. -/
def turnEnds (k : Nat) (rest : List Nat) (o : Out) : Out :=
  match o with
  | .next y => .next (y.turnDone k rest)
  | o => o

/-! ### Invariants -/

/-- Memory has its canonical form. -/
def State.memWf (s : State) : Prop := Memory.wf s.mem

/-- No event of the agenda stands behind a later one. -/
def State.agendaSorted (s : State) : Prop := s.agenda.Pairwise fun a b => a.1 ≤ b.1

end Sys2Proof.Machine
end

