-- ==== Sys2Proof/Certificates/Slice0/Obligations.lean ====
section
/-!
DEFINITION. The statements made of the machine. Each docstring names the rules of spec/ it rests on.
-/
open Sys2Proof Sys2Proof.Machine

/-! ### Scalar slots -/

/-- R113: the two-operand integer instructions that need no compare, each as arithmetic on the values that
its bundle read. -/
def Obligations.ScalarArithmeticWritesItsResult : Prop :=
  ∀ (s : State) (d a b : BitVec 6), let x := s.opS a; let y := s.opS b; let n := y.toNat % 64
    WritesS s (.add d a b) d (BitVec.ofNat 64 (x.toNat + y.toNat)) ∧
    WritesS s (.sub d a b) d (BitVec.ofInt 64 (x.toInt - y.toInt)) ∧
    WritesS s (.mul d a b) d (BitVec.ofInt 64 (x.toInt * y.toInt)) ∧
    WritesS s (.mulh d a b) d (BitVec.ofInt 64 (x.toInt * y.toInt / 2 ^ 64)) ∧
    WritesS s (.mulhu d a b) d (BitVec.ofNat 64 (x.toNat * y.toNat / 2 ^ 64)) ∧
    WritesS s (.and d a b) d (x &&& y) ∧ WritesS s (.or d a b) d (x ||| y) ∧
    WritesS s (.xor d a b) d (x ^^^ y) ∧ WritesS s (.andn d a b) d (x &&& ~~~ y) ∧
    WritesS s (.shl d a b) d (BitVec.ofNat 64 (x.toNat * 2 ^ n)) ∧
    WritesS s (.shr d a b) d (BitVec.ofNat 64 (x.toNat / 2 ^ n)) ∧
    WritesS s (.sra d a b) d (BitVec.ofInt 64 (x.toInt / 2 ^ n))

/-- R113, R114: division truncates towards zero and never traps. -/
def Obligations.ScalarDivisionNeverTraps : Prop :=
  ∀ (s : State) (d a b : BitVec 6), let x := s.opS a; let y := s.opS b
    WritesS s (.div d a b) d
      (if y = 0 then BitVec.ofInt 64 (-1) else BitVec.ofInt 64 (x.toInt.tdiv y.toInt)) ∧
    WritesS s (.divu d a b) d
      (if y = 0 then BitVec.ofInt 64 (-1) else BitVec.ofNat 64 (x.toNat / y.toNat)) ∧
    WritesS s (.rem d a b) d (if y = 0 then x else BitVec.ofInt 64 (x.toInt.tmod y.toInt)) ∧
    WritesS s (.remu d a b) d (if y = 0 then x else BitVec.ofNat 64 (x.toNat % y.toNat))

/-- R113, R115 to R117: compares, minima and maxima, the three bit counts, the immediate forms, LUI, SEL and
ADDS. -/
def Obligations.ScalarComparesCountsAndImmediates : Prop :=
  (∀ (s : State) (d a b : BitVec 6), let x := s.opS a; let y := s.opS b
     WritesS s (.min d a b) d (BitVec.ofInt 64 (min x.toInt y.toInt)) ∧
     WritesS s (.max d a b) d (BitVec.ofInt 64 (max x.toInt y.toInt)) ∧
     WritesS s (.minu d a b) d (BitVec.ofNat 64 (min x.toNat y.toNat)) ∧
     WritesS s (.maxu d a b) d (BitVec.ofNat 64 (max x.toNat y.toNat)) ∧
     WritesS s (.slt d a b) d (if x.toInt < y.toInt then 1 else 0) ∧
     WritesS s (.sltu d a b) d (if x.toNat < y.toNat then 1 else 0) ∧
     WritesS s (.seq d a b) d (if x = y then 1 else 0) ∧
     WritesS s (.sne d a b) d (if x = y then 0 else 1) ∧
     (∃ n, WritesS s (.clz d a) d (BitVec.ofNat 64 n) ∧ n ≤ 64 ∧ x.toNat < 2 ^ (64 - n) ∧
       (n < 64 → 2 ^ (63 - n) ≤ x.toNat)) ∧
     (∃ n, WritesS s (.ctz d a) d (BitVec.ofNat 64 n) ∧ n ≤ 64 ∧ x.toNat % 2 ^ n = 0 ∧
       (n < 64 → x.toNat / 2 ^ n % 2 = 1)) ∧
     WritesS s (.popc d a) d (BitVec.ofNat 64 ((List.range 64).map fun i => x.toNat / 2 ^ i % 2).sum)) ∧
  ∀ (s : State) (d a b c sh : BitVec 6) (imm : BitVec 16) (u : BitVec 22), let x := s.opS a
    WritesS s (.addi d a imm) d (BitVec.ofInt 64 (x.toInt + imm.toInt)) ∧
    WritesS s (.andi d a imm) d (x &&& BitVec.ofNat 64 imm.toNat) ∧
    WritesS s (.ori d a imm) d (x ||| BitVec.ofNat 64 imm.toNat) ∧
    WritesS s (.xori d a imm) d (x ^^^ BitVec.ofNat 64 imm.toNat) ∧
    WritesS s (.shli d a sh) d (BitVec.ofNat 64 (x.toNat * 2 ^ sh.toNat)) ∧
    WritesS s (.shri d a sh) d (BitVec.ofNat 64 (x.toNat / 2 ^ sh.toNat)) ∧
    WritesS s (.srai d a sh) d (BitVec.ofInt 64 (x.toInt / 2 ^ sh.toNat)) ∧
    WritesS s (.slti d a imm) d (if x.toInt < imm.toInt then 1 else 0) ∧
    WritesS s (.sltiu d a imm) d (if x.toNat < (BitVec.ofInt 64 imm.toInt).toNat then 1 else 0) ∧
    WritesS s (.lui d u) d (BitVec.ofInt 64 (u.toInt * 4096)) ∧
    WritesS s (.sel d a b c) d (if s.opS c = 0 then s.opS b else x) ∧
    WritesS s (.adds d a b sh) d (BitVec.ofNat 64 (x.toNat + (s.opS b).toNat * 2 ^ sh.toNat))


/-- R126, R127: FP32 in the scalar slots, rounded once with `fmt.rm`; bits 63:32 of a result are 0. -/
def Obligations.ScalarFloatWritesItsResult : Prop :=
  ∀ (s : State) (d a b : BitVec 6),
    let m := fmtRm s.opFmt
    let x := FTy.fp32.decode ((s.opS a).toNat % 2 ^ 32)
    let y := FTy.fp32.decode ((s.opS b).toNat % 2 ^ 32)
    let z := FTy.fp32.decode ((s.opS d).toNat % 2 ^ 32)
    let out := fun v : Ext => BitVec.ofNat 64 (FTy.fp32.round m false v)
    WritesS s (.fadd d a b) d (out (Ext.add m x y)) ∧
    WritesS s (.fsub d a b) d (out (Ext.add m x y.neg)) ∧
    WritesS s (.fmul d a b) d (out (Ext.mul x y)) ∧
    WritesS s (.fdiv d a b) d (out (Ext.div x y)) ∧
    WritesS s (.fsqrt d a) d (out x.sqrt) ∧
    WritesS s (.fma d a b) d (out (Ext.add m z (Ext.mul x y))) ∧
    WritesS s (.fcvtif d a) d (out (Ext.ofInt (s.opS a).toInt)) ∧
    WritesS s (.fcvtfi d a) d (BitVec.ofInt 64 (x.toInt m (-(2 ^ 63)) (2 ^ 63 - 1))) ∧
    WritesS s (.fcmplt d a b) d (if Ext.lt x y = some true then 1 else 0) ∧
    WritesS s (.fcmple d a b) d (if Ext.lt y x = some false then 1 else 0) ∧
    WritesS s (.fcmpeq d a b) d (if Ext.lt x y = some false ∧ Ext.lt y x = some false then 1 else 0) ∧
    WritesS s (.fmin d a b) d (BitVec.ofNat 64
      (FTy.fp32.min ((s.opS a).toNat % 2 ^ 32) ((s.opS b).toNat % 2 ^ 32))) ∧
    WritesS s (.fmax d a b) d (BitVec.ofNat 64
      (FTy.fp32.max ((s.opS a).toNat % 2 ^ 32) ((s.opS b).toNat % 2 ^ 32)))

/-- R60, R63, R64: a result that is a finite number is correctly rounded. Toward zero, no number of the format lies
between it and the exact value; to nearest, none lies nearer. A value that the format holds comes back in every
mode. -/
def Obligations.RoundingIsCorrect : Prop :=
  (∀ (t : FTy) (neg : Bool) (m : Nat) (e : Int) (a : Nat),
     let x := Ext.fin neg m e
     let far := fun r : Nat => (Ext.add .rne x (t.decode r).neg).abs
     (∃ n k j, t.decode a = .fin n k j) →
     ((∃ n k j, t.decode (t.round .rtz false x) = .fin n k j) →
       Ext.lt x.abs (t.decode (t.round .rtz false x)).abs = some false ∧
       (Ext.lt x.abs (t.decode a).abs = some false →
         Ext.lt (t.decode (t.round .rtz false x)).abs (t.decode a).abs = some false)) ∧
     ((∃ n k j, t.decode (t.round .rne false x) = .fin n k j) →
       Ext.lt (far a) (far (t.round .rne false x)) = some false)) ∧
  ∀ (t : FTy) (m : Rnd) (sat : Bool) (a : Nat), a < 2 ^ t.bits →
    (∀ neg, t.decode a ≠ .inf neg) → t.decode a ≠ .nan → t.round m sat (t.decode a) = a

/-- R118, R119, R122: loads give the bytes of their place, extended by sign or with zeros; LDAQ takes its address from
a register. Stores write the low bytes of their register, lowest first, and nothing else; STRL waits until every
access that is outstanding has completed at device scope.
The model's choices in it: log 6 and 88. -/
def Obligations.LoadsAndStoresKeepToTheirPlace : Prop :=
  (∀ (s : State) (d a : BitVec 6) (imm : BitVec 16) (sz : Sys2Proof.Size),
     let ea := s.opS a + BitVec.ofInt 64 imm.toInt
     let sx := fun n v => BitVec.ofInt 64 ((BitVec.ofNat n v).toInt)
     let zx := fun v => BitVec.ofNat 64 v
     LoadsS s (.ldb d a imm) d ea 0 (sx 8) ∧ LoadsS s (.ldbu d a imm) d ea 0 zx ∧
     LoadsS s (.ldh d a imm) d ea 1 (sx 16) ∧ LoadsS s (.ldhu d a imm) d ea 1 zx ∧
     LoadsS s (.ldw d a imm) d ea 2 (sx 32) ∧ LoadsS s (.ldwu d a imm) d ea 2 zx ∧
     LoadsS s (.ldd d a imm) d ea 3 zx ∧ LoadsS s (.ldaq sz d a) d (s.opS a) (Size.lg sz) zx) ∧
  ∀ (s : State) (d a : BitVec 6) (imm : BitVec 16) (sz : Sys2Proof.Size),
    let ea := s.opS a + BitVec.ofInt 64 imm.toInt
    let v := (s.opS d).toNat
    StoresS s (.stb d a imm) ea 0 v ∧ StoresS s (.sth d a imm) ea 1 v ∧
    StoresS s (.stw d a imm) ea 2 v ∧ StoresS s (.std d a imm) ea 3 v ∧
    (allPast s 2 → StoresS s (.strl sz d a) (s.opS a) (Size.lg sz) v) ∧
    (¬ allPast s 2 → Stalls s (.strl sz d a))

/-- R123 to R125, R45: an atomic reads and writes in one step; one with release order waits until every access that is
outstanding has completed at its scope.
The model's choices in it: log 6 and 88. -/
def Obligations.AtomicsReadAndWriteInOneStep : Prop :=
  ∀ (s : State) (op : AmoOp) (dword : Bool) (o : Order) (sys : Bool) (d a b : BitVec 6),
    let lg := if dword then 3 else 2
    let n := if dword then 64 else 32
    let y := (s.opS b).toNat % 2 ^ n
    let sx := fun z => (BitVec.ofNat n z).toInt
    let f := fun old : Nat =>
      match op with
      | .add => (old + y) % 2 ^ n
      | .swp => y
      | .and => old &&& y
      | .or => old ||| y
      | .xor => old ^^^ y
      | .min => if sx old < sx y then old else y
      | .max => if sx old < sx y then y else old
      | .minu => min old y
      | .maxu => max old y
    let go := (o = .rel ∨ o = .acqrel) → allPast s (if sys then 3 else 2)
    (go → SwapsS s (.amo op dword o sys d a b) d (s.opS a) lg fun old => some (f old)) ∧
    (go → SwapsS s (.cas dword o sys d a b) d (s.opS a) lg fun old =>
      if old = (s.opS d).toNat % 2 ^ n then some y else none) ∧
    (¬ go → Stalls s (.amo op dword o sys d a b) ∧ Stalls s (.cas dword o sys d a b))

/-- R80, R120, R160: a scalar access that is misaligned, or finds no place, raises its fault in its own slot,
or makes its bundle block or stall, and does nothing else: no register, no byte of memory and no flag changes.
The model's choice in it: log 32. -/
def Obligations.ScalarAccessStopsByCause : Prop :=
  ∀ (s : State) (d a b : BitVec 6) (imm : BitVec 16) (sz : Sys2Proof.Size) (op : AmoOp) (dword : Bool)
    (o : Order) (sys : Bool),
    let ea := s.opS a + BitVec.ofInt 64 imm.toInt
    let lg := if dword then 3 else 2
    StopsS s (.ldb d a imm) ea 0 true false ∧ StopsS s (.ldbu d a imm) ea 0 true false ∧
    StopsS s (.ldh d a imm) ea 1 true false ∧ StopsS s (.ldhu d a imm) ea 1 true false ∧
    StopsS s (.ldw d a imm) ea 2 true false ∧ StopsS s (.ldwu d a imm) ea 2 true false ∧
    StopsS s (.ldd d a imm) ea 3 true false ∧
    StopsS s (.ldaq sz d a) (s.opS a) (Size.lg sz) true false ∧
    StopsS s (.stb d a imm) ea 0 false true ∧ StopsS s (.sth d a imm) ea 1 false true ∧
    StopsS s (.stw d a imm) ea 2 false true ∧ StopsS s (.std d a imm) ea 3 false true ∧
    (allPast s 3 → StopsS s (.strl sz d a) (s.opS a) (Size.lg sz) false true ∧
      StopsS s (.amo op dword o sys d a b) (s.opS a) lg true true ∧
      StopsS s (.cas dword o sys d a b) (s.opS a) lg true true)

/-! ### The control slot -/

/-- R96 to R98: branches. A target is the bundle's own address plus four times the offset; the link is the
address of the bundle that follows, and CALLR reads its target before `s62` is written. -/
def Obligations.BranchesChooseTheNextBundle : Prop :=
  ∀ (s : State) (o26 : BitVec 26) (o17 : BitVec 17) (o20 : BitVec 20) (a : BitVec 6) (p : BitVec 4)
    (cc : BrCond) (m : PredMode),
    let here := s.iss.addr
    let next := here + BitVec.ofNat 64 (4 * bundleWords s.iss.hdr)
    let x := (s.opS a).toInt
    let bits := s.opP p
    let c := match cc with
      | .eqz => decide (x = 0) | .nez => decide (x ≠ 0) | .ltz => decide (x < 0)
      | .gez => decide (0 ≤ x) | .gtz => decide (0 < x) | .lez => decide (x ≤ 0)
    let q := match m with
      | .any => decide (∃ n : Fin 128, bits.getLsbD n = true)
      | .all => decide (∀ n : Fin 128, bits.getLsbD n = true)
      | .none => decide (∀ n : Fin 128, bits.getLsbD n = false)
    let linked := fun (t : DWord) => { s.me with
      s := Store.set 0 s.me.s 62 next, iss := { s.me.iss with target := some t } }
    GoesTo s (.br o26) (here + BitVec.ofInt 64 (4 * o26.toInt)) ∧
    (c = true → GoesTo s (.brc cc a o17) (here + BitVec.ofInt 64 (4 * o17.toInt))) ∧
    (c = false → ChangesNothing s (.brc cc a o17)) ∧
    (q = true → GoesTo s (.brp m p o20) (here + BitVec.ofInt 64 (4 * o20.toInt))) ∧
    (q = false → ChangesNothing s (.brp m p o20)) ∧
    GoesTo s (.jmpr a) (s.opS a) ∧ GoesTo s .ret (s.opS 62) ∧
    Makes s (.call o26) (linked (here + BitVec.ofInt 64 (4 * o26.toInt))) ∧
    Makes s (.callr a) (linked (s.opS a))

/-- R78, R100, R101: LOOP and LOOPI push a level, skip a loop of no rounds, and refuse a sixth level or a
bound above 65535; BRKL pops levels and leaves the outermost of them. -/
def Obligations.LoopsPushAndPopLevels : Prop :=
  ∀ (s : State) (a : BitVec 6) (imm : BitVec 12) (e : BitVec 14) (n : Fin 5),
    let last := s.iss.addr + BitVec.ofNat 64 (4 * e.toNat)
    let next := s.iss.addr + BitVec.ofNat 64 (4 * bundleWords s.iss.hdr)
    let after := fun x : DWord => x + BitVec.ofNat 64 (4 * bundleWords (s.headerAt s.cur x))
    let pushes := fun (i : Instr) (v : Nat) =>
      (65535 < v → Faults s i .illegalOperand (some (BitVec.ofNat 64 v)) none) ∧
      (v = 0 → GoesTo s i (after last)) ∧
      (1 ≤ v ∧ v ≤ 65535 ∧ s.me.loops.length = 5 → Faults s i .illegalOperand none none) ∧
      (1 ≤ v ∧ v ≤ 65535 ∧ s.me.loops.length < 5 →
        Makes s i { s.me with loops := s.me.loops ++ [⟨0, BitVec.ofNat 16 v, last, next⟩] })
    let k := n.val + 1
    pushes (.loop a e) (s.opS a).toNat ∧ pushes (.loopi imm e) imm.toNat ∧
    (s.me.loops.length < k →
      Faults s (.brkl n) .illegalOperand (some (BitVec.ofNat 64 k)) none) ∧
    (∀ l, s.me.loops[s.me.loops.length - k]? = some l → k ≤ s.me.loops.length →
      Makes s (.brkl n) { s.me with
        loops := s.me.loops.take (s.me.loops.length - k)
        iss := { s.me.iss with target := some (after l.endA) } })

/-- R66, R67, R93, R94, R103, R110: a write to `fmt`, by FMTSET, FMTSETS or MTS, is in force from the fourth bundle on;
each bundle that issues brings every write in flight one nearer, and the last of those that come due stands. MTS to any
other register that R93 lists changes nothing. MFS reads each register that R93 lists as it stands. -/
def Obligations.SpecialRegistersAreReadAndFmtDelayed : Prop :=
  (∀ (s : State) (v : BitVec 20) (a : BitVec 6) (r : BitVec 12) (c : Nat),
     let kept := fun x : Nat => BitVec.ofNat 32 (x % 2 ^ 20) &&& 0x000fff7f
     let sets := fun (i : Instr) (x : Nat) =>
       Makes s i { s.me with fmtPend := s.me.fmtPend ++ [(4, kept x)] }
     sets (.fmtset v) v.toNat ∧ sets (.fmtsets a) (s.opS a).toNat ∧
     sets (.mts 0x020 a) (s.opS a).toNat ∧
     (r ∈ specialRegs → r ≠ 0x020 → ChangesNothing s (.mts r a)) ∧
     (∃ t, exec (.fmtDelayExpiry c) s = .next t ∧
       let old := (s.ctx c).fmtPend
       let due := old.filter fun e => decide (e.1 ≤ 1)
       s.onlyCtx t c { s.ctx c with
         fmt := ((due.getLast?).map Prod.snd).getD (s.ctx c).fmt
         fmtPend := (old.filter fun e => decide (1 < e.1)).map fun e => (e.1 - 1, e.2) })) ∧
  ∀ (s : State) (d : BitVec 6) (r : BitVec 12), r ∈ specialRegs →
    let z := fun {n : Nat} (x : BitVec n) => BitVec.ofNat 64 x.toNat
    let x := s.me
    let t := s.iss.time
    let v : DWord :=
      if r = 0x000 then z t.e else if r = 0x001 then z t.l1 else if r = 0x002 then z t.l2
      else if r = 0x003 then z t.l3 else if r = 0x004 then z t.l4 else if r = 0x005 then z t.l5
      else if r = 0x010 then BitVec.ofNat 64 x.loops.length
      else if r = 0x011 then z (x.lb 1) else if r = 0x012 then z (x.lb 2)
      else if r = 0x013 then z (x.lb 3) else if r = 0x014 then z (x.lb 4)
      else if r = 0x015 then z (x.lb 5) else if r = 0x020 then z s.opFmt
      else if r = 0x030 then BitVec.ofNat 64 (s.cur % 4)
      else if r = 0x031 then BitVec.ofNat 64 (s.cur / 4 % 8)
      else if r = 0x032 then z x.vcore else if r = 0x033 then z x.vcluster
      else if r = 0x034 then BitVec.ofNat 64 (x.part % 16) else if r = 0x035 then z x.pri
      else if r = 0x040 then BitVec.ofNat 64 s.cycle else if r = 0x041 then s.tclockWord
      else if r = 0x050 then z x.rt.e else if r = 0x051 then z x.rt.l1 else if r = 0x052 then z x.rt.l2
      else if r = 0x053 then z x.rt.l3 else if r = 0x054 then z x.rt.l4 else z x.rt.l5
    WritesS s (.mfs d r) d v

/-- R104, R168: WAITK and WAITKS. While a command of a named token runs the bundle blocks; a failed command is
reported, then a failed link, whose marks are cleared; else the instruction changes nothing. -/
def Obligations.TokenWaitsBlockReportOrPass : Prop :=
  ∀ (s : State) (ka kb kc kd : BitVec 5) (a : BitVec 6),
    let waits := fun (i : Instr) (ks : List Nat) =>
      let cmds := ks.flatMap fun k => s.producers s.cur k
      let runs := ∃ k ∈ ks, s.producers s.cur k ≠ [] ∧ ∀ q ∈ s.producers s.cur k, q.failed = none
      let failed := ∃ q ∈ cmds, q.failed ≠ none
      (runs → Blocks s i) ∧
      (¬ runs → failed → ∃ q f x, q ∈ cmds ∧ q.failed = some (f, x) ∧
        (∀ r ∈ cmds, ∀ g y, r.failed = some (g, y) → FailKind.rank f ≤ FailKind.rank g) ∧
        Faults s i (FailKind.cause f) (some x) (some (BitVec.ofNat 64 (q.entry % 64 + 64)))) ∧
      (¬ runs → ¬ failed → (∀ k ∈ ks, s.me.linkFail.getLsbD k = false) → ChangesNothing s i) ∧
      (¬ runs → ¬ failed → (∃ k ∈ ks, s.me.linkFail.getLsbD k = true) →
        ∃ t op, exec i s = .next t ∧
          t.iss.faults = s.iss.faults ++ [⟨s.slot.index, .linkFailed, some op, none, 0⟩] ∧
          (∀ k, k < 31 → t.me.linkFail.getLsbD k = (decide (k ∉ ks) && s.me.linkFail.getLsbD k)) ∧
          (∀ k, k < 64 → op.getLsbD k = (decide (k ∈ ks) && s.me.linkFail.getLsbD k)))
    waits (.waitk ka kb kc kd) ([ka.toNat, kb.toNat, kc.toNat, kd.toNat].filter fun k => decide (k < 31)) ∧
    waits (.waitks a) ((List.range 31).filter fun k => (s.opS a).getLsbD k)

/-- R19, R46, R47, R95, R106 to R108: a NOP and an empty bundle do nothing, YIELD asks for another choice of context,
and TRAP faults with SOFTWARE_TRAP and its immediate, its slot having performed. FENCE and DRAIN are noted and come into
force as their bundle ends: they hold the accesses outstanding that they wait for, if there are any; at scope ctx they
order nothing. -/
def Obligations.FencesNopsYieldAndTrap : Prop :=
  (∀ (s : State) (imm : BitVec 16) (x : BitVec 6) (sp st : Bool),
     (∀ i ∈ [Instr.nopCtl, .nopSa, .nopSb, .nopVa, .nopVb, .nopMx, .nopXu, .nopDm, .emptyBundle x sp st],
       ChangesNothing s i) ∧
     Makes s .yield { s.me with iss := { s.me.iss with yield := true } } ∧
     Makes s (.trap imm) { s.me with iss := { s.me.iss with
       performed := s.me.iss.performed ||| 1
       faults := s.me.iss.faults ++
         [⟨s.slot.index, .softwareTrap, some (BitVec.ofNat 64 imm.toNat), none, 0⟩] } }) ∧
  ∀ (s : State) (sc : Scope) (k : FenceKind) (c : Nat) (b : Bundle),
    let covered := (s.ctx c).outst.filter fun a => decide (k ≠ .acq ∨ a.kind ≠ .store)
    let remote := (s.ctx c).outst.filter fun a => a.remote
    let after := (s.finish c b).ctx c
    (sc = .ctx → ChangesNothing s (.fence sc k) ∧ ChangesNothing s (.drain sc)) ∧
    (sc ≠ .ctx →
      Makes s (.fence sc k) { s.me with iss := { s.me.iss with fence := some (sc, k) } } ∧
      Makes s (.drain sc) { s.me with iss := { s.me.iss with drain := some sc } }) ∧
    ((s.ctx c).iss.fence = none → after.fences = (s.ctx c).fences) ∧
    ((s.ctx c).iss.fence = some (sc, k) → after.fences = (s.ctx c).fences ++
      if covered = [] then [] else [⟨sc, k, covered.map Access.id⟩]) ∧
    ((s.ctx c).iss.drain = none → after.drain = (s.ctx c).drain) ∧
    ((s.ctx c).iss.drain = some sc → after.drain = (s.ctx c).drain ++
      if remote = [] then [] else [⟨sc, remote.map Access.id⟩])

/-! ### Vector slots -/

/-- R58, R62 to R64, R131, R134: element-wise arithmetic in the type that `fmt.vt` selects. Integers wrap; a
floating result is rounded once, with `fmt.rm` and `fmt.sat`. Where the code selects no vector type, every
instruction that consumes it faults with ILLEGAL_FORMAT and does nothing else. -/
def Obligations.VectorArithmeticIsElementwise : Prop :=
  (∀ (s : State) (d a b : BitVec 6) (l : Lanes) (t : ETy), s.vt = some t →
     let f := s.opFmt
     let m := fmtRm f
     let w := t.bits
     let x := fun e => (eltBits w (s.opV a) e).toNat
     let y := fun e => (eltBits w (s.opV b) e).toNat
     let z := fun e => (eltBits w (s.opV d) e).toNat
     let pick := fun (g : FTy → Nat → Ext) (h : Bool → Nat → Int) (e : Nat) =>
       match t with
       | .flt q => q.round m (fmtSat f) (g q e)
       | .int n sg => (BitVec.ofInt n (h sg e)).toNat
       | .lut4 => 0
     let val := fun (sg : Bool) (v : Nat) => if sg then (BitVec.ofNat w v).toInt else (v : Int)
     WritesElts s (.vadd d a b l) d l w (pick (fun q e => Ext.add m (q.decode (x e)) (q.decode (y e)))
       fun _ e => x e + y e) ∧
     WritesElts s (.vsub d a b l) d l w (pick (fun q e => Ext.add m (q.decode (x e)) (q.decode (y e)).neg)
       fun _ e => (x e : Int) - (y e : Int)) ∧
     WritesElts s (.vmul d a b l) d l w (pick (fun q e => Ext.mul (q.decode (x e)) (q.decode (y e)))
       fun _ e => x e * y e) ∧
     WritesElts s (.vfma d a b l) d l w (pick
       (fun q e => Ext.add m (q.decode (z e)) (Ext.mul (q.decode (x e)) (q.decode (y e))))
       fun _ e => z e + x e * y e) ∧
     WritesElts s (.vfms d a b l) d l w (pick
       (fun q e => Ext.add m (q.decode (z e)) (Ext.mul (q.decode (x e)) (q.decode (y e))).neg)
       fun _ e => (z e : Int) - (x e : Int) * (y e : Int)) ∧
     WritesElts s (.vabs d a l) d l w (pick (fun q e => (q.decode (x e)).abs)
       fun sg e => (val sg (x e)).natAbs) ∧
     WritesElts s (.vneg d a l) d l w (pick (fun q e => (q.decode (x e)).neg) fun _ e => -(x e : Int)) ∧
     WritesElts s (.vmin d a b l) d l w (fun e => match t with
       | .flt q => q.min (x e) (y e)
       | .int _ sg => if val sg (y e) < val sg (x e) then y e else x e
       | .lut4 => 0) ∧
     WritesElts s (.vmax d a b l) d l w (fun e => match t with
       | .flt q => q.max (x e) (y e)
       | .int _ sg => if val sg (x e) < val sg (y e) then y e else x e
       | .lut4 => 0)) ∧
  ∀ (s : State) (d a b : BitVec 6) (l : Lanes) (pd : BitVec 3) (cc : VCond) (ty : BitVec 4) (r : RndSel)
    (fn : RedFn), s.vt = none →
    ∀ i ∈ [Instr.vadd d a b l, .vsub d a b l, .vmul d a b l, .vfma d a b l, .vfms d a b l, .vmin d a b l,
      .vmax d a b l, .vabs d a l, .vneg d a l, .vcmp pd cc a b l, .vshl d a b l, .vshr d a b l,
      .vsra d a b l, .vcvt d a ty r l, .vbcast d a l, .vget d a b, .viota d l, .vperm d a b l,
      .vred fn d a l, .vclass d a l, .vlds d a b l, .vsts d a b l, .trpush a l, .xexp2 d a l, .xlog2 d a l,
      .xrcp d a l, .xrsqrt d a l, .xsqrt d a l, .xtanh d a l, .xsigm d a l],
      Faults s i .illegalFormat none none

/-- R135 to R139: compares, predicate logic, selection, exchange and three-input logic, bit by bit and lane by
lane. `p0` and `p8` are never written. -/
def Obligations.PredicatesAndSelection : Prop :=
  ∀ (s : State) (d a b : BitVec 6) (l : Lanes) (pd pa pb : BitVec 3) (ps t4 : BitVec 4) (tt : BitVec 8)
    (cc : VCond),
    let g := s.gov l
    let x := fun e => eltBits 32 (s.opV a) e
    let y := fun e => eltBits 32 (s.opV b) e
    let z := fun e => eltBits 32 (s.opV d) e
    let one := fun (q : Bool) (k : Nat) => if q then k else 0
    (∀ t, s.vt = some t →
      let lt := fun (u v : Nat) => match t with
        | .flt q => decide (Ext.lt (q.decode u) (q.decode v) = some true)
        | .int w true => decide ((BitVec.ofNat w u).toInt < (BitVec.ofNat w v).toInt)
        | _ => decide (u < v)
      let nan := fun (u : Nat) => match t with
        | .flt q => decide (q.decode u = .nan)
        | _ => false
      let both := fun (u v : Nat) => !nan u && !nan v
      let cond := fun (u v : Nat) => match cc with
        | .eq => both u v && !lt u v && !lt v u
        | .ne => !(both u v && !lt u v && !lt v u)
        | .lt => lt u v
        | .le => both u v && !lt v u
        | .gt => lt v u
        | .ge => both u v && !lt u v
        | .gtn => lt v u || (!nan u && nan v)
        | .un => nan u || nan v
      ∃ v, WritesP s (.vcmp pd cc a b l) (s.slot.pred pd) v ∧ ∀ n, n < 128 →
      (v.getLsbD n = true ↔
        if inRegion l n = true then
          g.getLsbD n = true ∧ ∀ e, e / (32 / t.bits) = n → cond
            (eltBits t.bits (s.opV a) e).toNat (eltBits t.bits (s.opV b) e).toNat = true
        else (s.opP (s.slot.pred pd)).getLsbD n = true)) ∧
    (∃ v, WritesP s (.plog pd pa pb t4) (s.slot.pred pd) v ∧ ∀ n, n < 128 →
      v.getLsbD n = t4.getLsbD (one ((s.opP (s.slot.pred pa)).getLsbD n) 2 +
        one ((s.opP (s.slot.pred pb)).getLsbD n) 1)) ∧
    WritesP s (.pxfer pd ps) (s.slot.pred pd) (s.opP ps) ∧
    (∃ v, WritesV s (.vsel d a b l) d v ∧ ∀ e, e < 128 →
      eltBits 32 v e = if inRegion l e = true then (if g.getLsbD e = true then x e else y e) else z e) ∧
    (∃ v, WritesV s (.vlog3 d a b tt) d v ∧ ∀ n, n < 4096 →
      v.getLsbD n = tt.getLsbD (one ((s.opV d).getLsbD n) 4 + one ((s.opV a).getLsbD n) 2 +
        one ((s.opV b).getLsbD n) 1)) ∧
    (∃ t, exec (.vswp d a l) s = .next t ∧ s.regsOnly [.v d, .v a] [] t ∧ ∀ e, e < 128 →
      let on := inRegion l e = true ∧ g.getLsbD e = true
      eltBits 32 (t.me.rdV a) e = (if on then z e else x e) ∧
      (d ≠ a → eltBits 32 (t.me.rdV d) e = if on then x e else z e))

/-- R140, R142, R143, R145: shifts (an amount of the width or more shifts everything out), lane moves, element
numbers, permutations and classes. -/
def Obligations.VectorShiftsAndLaneMoves : Prop :=
  ∀ (s : State) (d a b : BitVec 6) (l : Lanes) (t : ETy), s.vt = some t →
    let w := t.bits
    let x := fun e => (eltBits w (s.opV a) e).toNat
    let y := fun e => (eltBits w (s.opV b) e).toNat
    let i := (s.opS b).toNat
    WritesElts s (.vshl d a b l) d l w (fun e => x e * 2 ^ y e) ∧
    WritesElts s (.vshr d a b l) d l w (fun e => x e / 2 ^ y e) ∧
    WritesElts s (.vsra d a b l) d l w
      (fun e => (BitVec.ofInt w ((eltBits w (s.opV a) e).toInt / 2 ^ y e)).toNat) ∧
    WritesElts s (.vbcast d a l) d l w (fun _ => (s.opS a).toNat) ∧
    WritesElts s (.vperm d a b l) d l w
      (fun e => x (1024 * l.lg.toNat / w + y e % (l.w.bits / w))) ∧
    WritesElts s (.vclass d a l) d l w (fun e => match t with
      | .flt q =>
        let sub := decide (x e / 2 ^ q.fbits % 2 ^ q.ebits = 0)
        match q.decode (x e) with
        | .nan => 0
        | .inf true => 1
        | .inf false => 8
        | .fin true 0 _ => 4
        | .fin false 0 _ => 5
        | .fin true _ _ => if sub then 3 else 2
        | .fin false _ _ => if sub then 6 else 7
      | .int n true => if (BitVec.ofNat n (x e)).toInt = 0 then 5 else if (BitVec.ofNat n (x e)).toInt < 0 then 2 else 7
      | .int _ false => if x e = 0 then 5 else 7
      | .lut4 => 0) ∧
    ((∃ n sg, t = .int n sg) → WritesElts s (.viota d l) d l w id) ∧
    ((∀ n sg, t ≠ .int n sg) → Faults s (.viota d l) .illegalFormat none none) ∧
    (i < 4096 / w → WritesS s (.vget d a b) d
      (match t with
       | .int _ true => BitVec.ofInt 64 (eltBits w (s.opV a) i).toInt
       | _ => BitVec.ofNat 64 (x i))) ∧
    (4096 / w ≤ i → Faults s (.vget d a b) .illegalOperand (some (s.opS b)) none)

/-- R141: conversion. Between types of one width it is element-wise and governed; else the elements of the
source region fill the destination region from its start, what is left of it is 0, and a predicate other than
0 faults. A destination of no type faults whatever the predicate is.
The model's choice in it, format before predicate: log 36. -/
def Obligations.ConversionPacksElements : Prop :=
  ∀ (s : State) (d a : BitVec 6) (ty : BitVec 4) (r : RndSel) (l : Lanes) (t u : ETy), s.vt = some t →
    let i := Instr.vcvt d a ty r l
    let c := convert t u (rndOf s.opFmt r) (fmtSat s.opFmt)
    let x := fun e => c (eltBits t.bits (s.opV a) e).toNat
    (vtyOf ty.toNat = none → Faults s i .illegalFormat none none) ∧
    (vtyOf ty.toNat = some u →
      (t.bits = u.bits → WritesElts s i d l t.bits x) ∧
      (t.bits ≠ u.bits → l.p ≠ 0 → Faults s i .illegalOperand none none) ∧
      (t.bits ≠ u.bits → l.p = 0 → l.lg.toNat + l.w.groups ≤ 4 → ∃ v, WritesV s i d v ∧
        ∀ e, e < 4096 / u.bits →
          let k := e - 1024 * l.lg.toNat / u.bits
          eltBits u.bits v e =
            if inRegion l (u.bits * e / 32) = true then
              (if k < l.w.bits / max t.bits u.bits then
                BitVec.ofNat u.bits (x (1024 * l.lg.toNat / t.bits + k)) else 0)
            else eltBits u.bits (s.opV d) e))

/-- R144: a reduction leaves its result in the lowest element of the region and 0 in the others. An integer sum
is exact modulo the width, an integer minimum or maximum is one of the governed elements and bounds them all;
over no governed element the result is 0. A floating result follows the tree of R144. -/
def Obligations.ReductionsFoldTheGovernedElements : Prop :=
  ∀ (s : State) (fn : RedFn) (d a : BitVec 6) (l : Lanes) (t : ETy), s.vt = some t →
    l.lg.toNat + l.w.groups ≤ 4 →
    let w := t.bits
    let es := (List.range (4096 / w)).filter fun e =>
      inRegion l (w * e / 32) && (s.gov l).getLsbD (w * e / 32)
    let x := fun e => (eltBits w (s.opV a) e).toNat
    let val := fun (sg : Bool) (v : Nat) => if sg then (BitVec.ofNat w v).toInt else (v : Int)
    ∃ v r, WritesV s (.vred fn d a l) d v ∧
      (∀ e, e < 4096 / w → eltBits w v e =
        if e = 1024 * l.lg.toNat / w then BitVec.ofNat w r
        else if inRegion l (w * e / 32) = true then 0 else eltBits w (s.opV d) e) ∧
      (es = [] → r = 0) ∧
      (∀ n sg, t = .int n sg → es ≠ [] →
        match fn with
        | .add => BitVec.ofNat w r = BitVec.ofNat w (es.map x).sum
        | .min => (∃ e ∈ es, r = x e) ∧ ∀ e ∈ es, val sg r ≤ val sg (x e)
        | .max => (∃ e ∈ es, r = x e) ∧ ∀ e ∈ es, val sg (x e) ≤ val sg r) ∧
      ∀ q, t = .flt q → r = ((redTree (redOp s.opFmt t fn) (Nat.log2 (l.w.bits / w))
        ((List.range (l.w.bits / w)).map fun i =>
          let e := 1024 * l.lg.toNat / w + i
          if (s.gov l).getLsbD (w * e / 32) = true then some (x e) else none)).headD none).getD 0

/-- R146, R80, R200: VACR and VACW move one row of an accumulator. The accumulator must be granted; while a matrix
instruction has it the bundle blocks; the row must be below 128. A row with an uncorrectable error is not read, and a
write of it mends it. -/
def Obligations.AccumulatorRowsMove : Prop :=
  ∀ (s : State) (v : BitVec 6) (acc : BitVec 3) (row : RowSel),
    let n := match row with
      | .imm k => k.toNat
      | .reg x => (s.opS x).toNat
    let granted := acc.toNat < s.me.accN
    let k0 := acc.toNat * 128 + n
    (granted → acc.toNat ∉ s.me.accBusy → n < 128 →
      (k0 ∉ s.iss.latch.bad → WritesV s (.vacr v acc row) v (Store.get 0 s.iss.latch.acc k0)) ∧
      (k0 ∈ s.iss.latch.bad → Faults s (.vacr v acc row) .eccUncorrected none none) ∧
      ∃ t, exec (.vacw v acc row) s = .next t ∧
        s.onlyMe t { s.me with acc := t.me.acc, accBad := t.me.accBad } ∧
        (∀ k, k ∈ t.me.accBad ↔ k ∈ s.me.accBad ∧ k ≠ k0) ∧
        ∀ k, Store.get 0 t.me.acc k =
          if k = k0 then s.opV v else Store.get 0 s.me.acc k) ∧
    (granted → acc.toNat ∈ s.me.accBusy → Blocks s (.vacr v acc row) ∧ Blocks s (.vacw v acc row)) ∧
    ∀ i ∈ [Instr.vacr v acc row, .vacw v acc row],
      (s.me.accN ≤ acc.toNat → Faults s i .illegalOperand (some (BitVec.ofNat 64 acc.toNat)) none) ∧
      (granted → acc.toNat ∉ s.me.accBusy → 128 ≤ n → Faults s i .illegalOperand (some (BitVec.ofNat 64 n)) none)

/-! ### Vector loads and stores -/

/-- R148: VLD and VST move whole lines of which only governed lanes count. A misaligned address faults; when
every line with a governed lane has its place, a load writes the governed lanes and a store their bytes, and
nothing else changes.
The model's choices in it: log 6, 35 and, for a misaligned address in a tile that is not ready, 36. -/
def Obligations.VectorLinesMove : Prop :=
  ∀ (s : State) (v a : BitVec 6) (off : BitVec 8) (l : Lanes),
    let ea := s.opS a + BitVec.ofInt 64 (128 * off.toInt)
    let at_ := fun k : Nat => ea + BitVec.ofNat 64 (128 * k)
    let rd := fun k => s.route s.cur (at_ k) true false
    let wr := fun k => s.route s.cur (at_ k) false true
    (ea.toNat % 128 ≠ 0 →
      (∃ det, Faults s (.vld v a off l) .align (some ea) (some det)) ∧
      ∃ det, Faults s (.vst v a off l) .align (some ea) (some det)) ∧
    (ea.toNat % 128 = 0 → (∀ k, lineGoverned s l k → (rd k).isPlace) →
      ∃ t, exec (.vld v a off l) s = .next t ∧ s.regsOnly [.v v] [.load] t ∧
        ∀ e, e < 128 → eltBits 32 (t.me.rdV v) e =
          if inRegion l e = true ∧ (s.gov l).getLsbD e = true then
            BitVec.ofNat 32 (s.readAt (rd (e / 32 - l.lg.toNat)) 128 / 2 ^ (32 * (e % 32)))
          else eltBits 32 (s.me.rdV v) e) ∧
    (ea.toNat % 128 = 0 → (∀ k, lineGoverned s l k → (wr k).isPlace) →
      ∃ u t, exec (.vst v a off l) s = .next t ∧ s.onlyMemory u ∧ u.regsOnly [] [.store] t ∧
        ∀ key : Nat → Nat, (∀ k, lineGoverned s l k → wr k = .mem (key k)) →
          let lines := fun x => ∃ k, lineGoverned s l k ∧ x = key k / 128
          s.tilesKept lines u ∧
          s.bytesKept lines (fun j => ∃ k n, k < l.w.groups ∧ n < 32 ∧
            (s.gov l).getLsbD (32 * (l.lg.toNat + k) + n) = true ∧
            key k + 4 * n ≤ j ∧ j < key k + 4 * n + 4) u ∧
          ((∀ k, s.sharers (key k / 128) = []) → (∀ k, key k % 128 = 0) →
            (∀ j k, lineGoverned s l j → lineGoverned s l k → key j = key k → j = k) →
            ∀ k n, k < l.w.groups → n < 32 →
              (s.gov l).getLsbD (32 * (l.lg.toNat + k) + n) = true →
              u.rdMem (key k + 4 * n) 4 =
                leBytes 4 (eltBits 32 (s.opV v) (32 * (l.lg.toNat + k) + n)).toNat))

/-- R149, R150: strided and indexed accesses. Element i of a strided region is at the base plus i strides;
lane e of an indexed one at the base plus its signed offset. Every governed element that no later one overlaps is moved,
between memory or a tile and its register.
The model's choices in it: log 6 and 35. -/
def Obligations.StridedAndIndexedElementsMove : Prop :=
  ∀ (s : State) (v a b : BitVec 6) (l : Lanes), l.lg.toNat + l.w.groups ≤ 4 →
    let base := s.opS a
    let strided := fun (i _ : Nat) => base + BitVec.ofNat 64 i * s.opS b
    let indexed := fun (_ e : Nat) => base + BitVec.ofInt 64 (eltBits 32 (s.opV b) e).toInt
    (∀ t, s.vt = some t → LoadsElts s (.vlds v a b l) v l t.bits strided ∧
      StoresElts s (.vsts v a b l) v l t.bits strided) ∧
    LoadsElts s (.vgath v a b l) v l 32 indexed ∧ StoresElts s (.vscat v a b l) v l 32 indexed

/-! ### The shuffle slot -/

/-- R87, R88, R184, R185: a special function reads its operands at issue and puts its governed results in flight,
12 bundles from their register; they reach the latch 10 cycles after issue. Any type but FP32 and BF16 faults. The
results in flight come one bundle nearer as each bundle issues; each, with its twelfth, replaces the governed bits of
its register. -/
def Obligations.SpecialFunctionsFlyAndLand : Prop :=
  (∀ (s : State) (d a : BitVec 6) (l : Lanes) (t : ETy), s.vt = some t →
     let starts := fun (i : Instr) (f : FTy → Bool → Ext → Nat) =>
       (∀ q, t = .flt q → (q = .fp32 ∨ q = .bf16) →
         ∃ u r, exec i s = .next u ∧ u.me.sf = s.me.sf ++ [r] ∧ r.vd = d ∧ r.left = 12 ∧
           r.latched = false ∧ r.id = s.nextIdent ∧
           (∀ e, e < 4096 / q.bits →
             let on := inRegion l (q.bits * e / 32) = true ∧ (s.gov l).getLsbD (q.bits * e / 32) = true
             eltBits q.bits r.mask e = (if on then BitVec.allOnes q.bits else 0) ∧
             eltBits q.bits r.val e = if on then BitVec.ofNat q.bits
               (f q (fmtSat s.opFmt) (q.decode (eltBits q.bits (s.opV a) e).toNat)) else 0) ∧
           (∀ e, e ∈ u.agenda ↔ e ∈ s.agenda ∨ e = (s.cycle + 10, .sfResultLatch s.cur s.nextIdent)) ∧
           { u.me with sf := s.me.sf } = s.me ∧
           { u with ctxs := s.ctxs, agenda := s.agenda, nextIdent := s.nextIdent } = s) ∧
       ((∀ q, t = .flt q → q ≠ .fp32 ∧ q ≠ .bf16) → Faults s i .illegalFormat none none)
     starts (.xexp2 d a l) specExp2 ∧ starts (.xlog2 d a l) specLog2 ∧ starts (.xrcp d a l) specRcp ∧
     starts (.xrsqrt d a l) specRsqrt ∧ starts (.xsqrt d a l) specSqrt ∧ starts (.xtanh d a l) specTanh ∧
     starts (.xsigm d a l) specSigm) ∧
  ∀ (s : State) (c id : Nat),
    (∃ t, exec (.sfResultLatch c id) s = .next t ∧ s.onlyCtx t c { s.ctx c with
      sf := (s.ctx c).sf.map fun q => if q.id = id then { q with latched := true } else q }) ∧
    (∃ t, exec (.sfResultWrite c) s = .next t ∧
      let due := (s.ctx c).sf.filter fun r => decide (r.left ≤ 1)
      let rest := ((s.ctx c).sf.filter fun r => decide (1 < r.left)).map fun r => { r with left := r.left - 1 }
      s.onlyCtx t c { s.ctx c with sf := rest, v := (t.ctx c).v } ∧
      ∀ (v : BitVec 6) (j : Nat), j < 4096 →
        (∀ r ∈ due, r.vd = v → r.mask.getLsbD j = false → r.val.getLsbD j = false) →
        ((t.ctx c).rdV v).getLsbD j =
          match (due.filter fun r => decide (r.vd = v) && r.mask.getLsbD j).getLast? with
          | some r => r.val.getLsbD j
          | none => ((s.ctx c).rdV v).getLsbD j)

/-- R62, R184: the special operands, XLOG2 at powers of two and XEXP2 at integers, for both types. -/
def Obligations.SpecialFunctionsAtSpecialOperands : Prop :=
  ∀ (t : FTy), t = .fp32 ∨ t = .bf16 → ∀ (neg : Bool) (m : Nat) (e : Int),
    let inf := fun b : Bool => t.round .rne false (.inf b)
    let zero := fun b : Bool => t.round .rne false (Ext.zero b)
    let one := fun b : Bool => t.round .rne false (.fin b 1 0)
    (∀ f ∈ [specExp2, specLog2, specRcp, specRsqrt, specSqrt, specTanh, specSigm],
      f t false .nan = t.dnan) ∧
    (∀ k : Int, (if neg then -(m : Int) else m) * 2 ^ e.toNat = k * 2 ^ (-e).toNat →
      specExp2 t false (.fin neg m e) = t.round .rne false (.fin false 1 k)) ∧
    specExp2 t false (.inf true) = zero false ∧ specExp2 t false (.inf false) = inf false ∧
    specLog2 t false (Ext.zero neg) = inf true ∧ specLog2 t false (.inf false) = inf false ∧
    specLog2 t false (.inf true) = t.dnan ∧ (m ≠ 0 → specLog2 t false (.fin true m e) = t.dnan) ∧
    (∀ k : Nat, specLog2 t false (.fin false (2 ^ k) e) = t.round .rne false (Ext.ofInt (k + e))) ∧
    specRcp t false (Ext.zero neg) = inf neg ∧ specRcp t false (.inf neg) = zero neg ∧
    specRsqrt t false (Ext.zero neg) = inf neg ∧ specRsqrt t false (.inf false) = zero false ∧
    specRsqrt t false (.inf true) = t.dnan ∧ specSqrt t false (.inf true) = t.dnan ∧
    (m ≠ 0 → specRsqrt t false (.fin true m e) = t.dnan) ∧
    specSqrt t false (Ext.zero true) = zero true ∧ specSqrt t false (.inf false) = inf false ∧
    (m ≠ 0 → specSqrt t false (.fin true m e) = t.dnan) ∧
    specTanh t false (Ext.zero neg) = zero neg ∧ specTanh t false (.inf neg) = one neg ∧
    specSigm t false (.inf true) = zero false ∧ specSigm t false (.inf false) = one false ∧
    specSigm t false (Ext.zero neg) = t.round .rne false (.fin false 1 (-1))

/-- R186 to R188: the transposer. A push adds a row; the last row of a block sends it to the transfer stage,
eight bundles from the pop side. A pop takes the next column, and faults when there is none; TRCLR empties all
three stages. -/
def Obligations.TransposerPushesAndPops : Prop :=
  ∀ (s : State) (d a : BitVec 6) (l : Lanes) (t : ETy) (c : Nat),
    let x := s.me.tr
    let row : BitVec 1024 := (s.opV a).extractLsb' (1024 * l.lg.toNat) 1024
    (s.vt = some t → x.fill ≠ [] → x.bits ≠ t.bits → Faults s (.trpush a l) .illegalFormat none none) ∧
    (s.vt = some t → (x.fill = [] ∨ x.bits = t.bits) → x.fill.length + 1 ≠ 1024 / t.bits →
      Makes s (.trpush a l) { s.me with tr := { x with fill := x.fill ++ [row], bits := t.bits } }) ∧
    (s.vt = some t → (x.fill = [] ∨ x.bits = t.bits) → x.fill.length + 1 = 1024 / t.bits →
      Makes s (.trpush a l) { s.me with tr := { x with
        fill := [], bits := 0, xfer := some (x.fill ++ [row], t.bits, 8) } }) ∧
    ((x.pop = none ∨ ∃ rows b, x.pop = some (rows, b) ∧ rows.length ≤ x.popped) →
      Faults s (.trpop d l) .schedule none none) ∧
    (∀ rows b, x.pop = some (rows, b) → x.popped < rows.length → 0 < b → b * rows.length = 1024 →
      ∃ u, exec (.trpop d l) s = .next u ∧ u.me.tr = { x with popped := x.popped + 1 } ∧
        (∀ k r, rows[k]? = some r →
          (((u.me.rdV d).extractLsb' (1024 * l.lg.toNat) 1024).extractLsb' (b * k) b) =
            r.extractLsb' (b * x.popped) b) ∧
        (∀ j, j < 4096 → j / 1024 ≠ l.lg.toNat → (u.me.rdV d).getLsbD j = (s.opV d).getLsbD j) ∧
        s.me.keepsBut [.v d] [] { u.me with tr := x } ∧ s.othersKept u) ∧
    Makes s .trclr { s.me with tr := ⟨[], 0, none, none, 0⟩ } ∧
    (∃ u, exec (.transposeBlockReady c) s = .next u ∧
      ((s.ctx c).tr.xfer = none → s.onlyCtx u c (s.ctx c)) ∧
      (∀ rows b n, (s.ctx c).tr.xfer = some (rows, b, n + 2) → s.onlyCtx u c { s.ctx c with
        tr := { (s.ctx c).tr with xfer := some (rows, b, n + 1) } }) ∧
      ∀ rows b, (s.ctx c).tr.xfer = some (rows, b, 1) → s.onlyCtx u c { s.ctx c with
        tr := { (s.ctx c).tr with xfer := none, pop := some (rows, b), popped := 0 } })

/-! ### The matrix slot -/

/-- R57, R192, R198, R199, R200, R202, R206: what every instruction of the matrix slot meets first: too early, it faults
with SCHEDULE and the cycles still to pass; while another context has the engine, or a matrix instruction the
accumulator, its bundle blocks; an accumulator not granted faults. A multiply blocks besides while one of its tiles is
busy, EMPTY or FILLING, and an EMPTY backed one starts to fill; then it refuses in the order of its checks. MXST blocks
while its tile is busy or FILLING, and refuses an accumulator, a tile, a type, a sealed tile and an accumulator with an
uncorrectable error in that order.
The model's choices in it: log 31, 81 and 84. -/
def Obligations.MatrixInstructionsWaitAndRefuseInOrder : Prop :=
  (∀ (s : State) (acc : BitVec 3) (vs vz d a : BitVec 6) (cb : BitVec 2) (th : BitVec 5) (ty : BitVec 4) (r : RndSel)
      (m : MmaArgs),
     let short := BitVec.ofNat 64 (s.me.mxUntil - s.cycle)
     let aliased := fun (i : Instr) (y : Issue) => ∃ t, exec i s = .next t ∧
       s.onlyMe t { s.me with iss := { y with aliases := t.me.iss.aliases } } ∧
       (m.ta.toNat < 24 → m.tb.toNat < 24 → t.me.iss.aliases = s.me.iss.aliases)
     let multiplies := [Instr.mma m, .mmaq m, .mmal m]
     (∀ i ∈ [Instr.mxz acc, .mxepi acc vs vz, .mxrs d acc, .mxst acc th ty r, .mxcb cb a, .mxsa a],
       (s.cycle < s.me.mxUntil → Faults s i .schedule (some short) none) ∧
       (s.me.mxUntil ≤ s.cycle → s.engineTaken = true → Blocks s i)) ∧
     (∀ i ∈ multiplies,
       (s.cycle < s.me.mxUntil → aliased i { s.me.iss with
         faults := s.me.iss.faults ++ [⟨s.slot.index, .schedule, some short, none, 0⟩] }) ∧
       (s.me.mxUntil ≤ s.cycle → s.engineTaken = true → aliased i { s.me.iss with block := true }) ∧
       (s.me.mxUntil ≤ s.cycle → s.engineTaken = false → m.acc.toNat ∈ s.me.accBusy →
         aliased i { s.me.iss with block := true })) ∧
     (∀ i ∈ [Instr.mxz acc, .mxepi acc vs vz, .mxrs d acc, .mxst acc th ty r],
       s.me.mxUntil ≤ s.cycle → s.engineTaken = false → acc.toNat ∈ s.me.accBusy → Blocks s i) ∧
     (∀ i ∈ [Instr.mxz acc, .mxepi acc vs vz, .mxrs d acc], engineFree s (some acc) → s.me.accN ≤ acc.toNat →
       Faults s i .illegalOperand (some (BitVec.ofNat 64 acc.toNat)) none) ∧
     (engineFree s (some m.acc) → m.ta.toNat < 24 → m.tb.toNat < 24 → ∀ i ∈ multiplies, ∀ h ∈ [m.ta.toNat, m.tb.toNat],
       ∀ x, s.me.tile h = some x → (x.busy ≠ [] ∨ x.st = .empty ∨ x.st = .filling) →
         ∃ t, exec i s = .next t ∧ t.iss.block = true ∧ t.iss.faults = s.iss.faults ∧
           (x.busy = [] → x.st = .empty → x.scr = false → .startFill s.cur h ∈ t.iss.later)) ∧
     (engineFree s (some acc) →
       let i := Instr.mxst acc th ty r
       let x := if th.toNat < 24 then s.me.tile th.toNat else none
       let waits := ∃ y, x = some y ∧ (y.busy ≠ [] ∨ y.st = .filling)
       (waits → Blocks s i) ∧
       (¬ waits → s.me.accN ≤ acc.toNat → Faults s i .illegalOperand (some (BitVec.ofNat 64 acc.toNat)) none) ∧
       (acc.toNat < s.me.accN → x = none → Faults s i .illegalOperand none none) ∧
       ∀ y, x = some y → acc.toNat < s.me.accN → y.busy = [] → y.st ≠ .filling →
         ((ty.toNat = 3 ∨ 10 ≤ ty.toNat ∨ y.ty ≠ ty) → Faults s i .illegalFormat none none) ∧
         (ty.toNat ≠ 3 → ty.toNat < 10 → y.ty = ty →
           (y.sealed = true → Faults s i .protection none none) ∧
           (y.sealed = false → ¬ accClean s acc.toNat 128 → ∃ t, exec i s = .next t ∧
             t.iss.faults = s.iss.faults ++ [⟨s.slot.index, .eccUncorrected, none, none, 0⟩])))) ∧
  (∀ (s : State) (m : MmaArgs) (r : Nat),
    let f := s.opFmt
    let beats := m.beats1.toNat + 1
    let ready := fun (h : Nat) => ∀ x, s.me.tile h = some x → x.busy = [] ∧ x.st ≠ .empty ∧ x.st ≠ .filling
    m.ta.toNat < 24 → m.tb.toNat < 24 → ready m.ta.toNat → ready m.tb.toNat → engineFree s (some m.acc) →
    m.acc.toNat < s.me.accN → ¬ (fmtMxa f = 2 ∧ fmtBs f = true) → beats % r = 0 → beats / r ≤ 128 →
    ∀ p ∈ [(Instr.mma m, MmaKind.plain), (.mmaq m, .int4), (.mmal m, .lut4)],
      mmaRate p.2 (fmtMxa f) (fmtMxb f) = some r →
      (s.me.tile m.ta.toNat = none → Faults s p.1 .illegalOperand (some (BitVec.ofNat 64 m.ta.toNat)) none) ∧
      (s.me.tile m.ta.toNat ≠ none → s.me.tile m.tb.toNat = none →
        Faults s p.1 .illegalOperand (some (BitVec.ofNat 64 m.tb.toNat)) none)) ∧
  ∀ (s : State) (m : MmaArgs) (ta tb : Tile),
    let f := s.opFmt
    let beats := m.beats1.toNat + 1
    let fa : DWord := BitVec.ofNat 64 m.ta.toNat
    let fb : DWord := BitVec.ofNat 64 m.tb.toNat
    let word : DWord := BitVec.ofNat 64 f.toNat
    m.ta.toNat < 24 → m.tb.toNat < 24 → s.me.tile m.ta.toNat = some ta →
    s.me.tile m.tb.toNat = some tb → ta.busy = [] → tb.busy = [] →
    (∀ t ∈ [ta, tb], t.st = .full ∨ t.st = .dirty ∨ t.st = .faulted) → engineFree s (some m.acc) →
    ∀ p ∈ [(Instr.mma m, MmaKind.plain), (.mmaq m, .int4), (.mmal m, .lut4)],
      let rate := mmaRate p.2 (fmtMxa f) (fmtMxb f)
      (s.me.accN ≤ m.acc.toNat →
        Faults s p.1 .illegalOperand (some (BitVec.ofNat 64 m.acc.toNat)) none) ∧
      (m.acc.toNat < s.me.accN → rate = none → Faults s p.1 .illegalFormat (some word) none) ∧
      ∀ r, m.acc.toNat < s.me.accN → rate = some r → ¬ (fmtMxa f = 2 ∧ fmtBs f = true) →
        ((beats % r ≠ 0 ∨ 128 < beats / r) →
          Faults s p.1 .illegalOperand (some (BitVec.ofNat 64 beats)) none) ∧
        (beats % r = 0 → beats / r ≤ 128 →
          (ta.ty.toNat ≠ fmtMxa f → Faults s p.1 .illegalFormat (some fa) none) ∧
          (ta.ty.toNat = fmtMxa f → tb.ty.toNat ≠ fmtMxb f →
            Faults s p.1 .illegalFormat (some fb) none) ∧
          (ta.ty.toNat = fmtMxa f → tb.ty.toNat = fmtMxb f →
            (ta.sealed = true → Faults s p.1 .protection (some fa) none) ∧
            (ta.sealed = false → ta.bankY ≠ tb.bankY →
              (ta.st = .faulted → Faults s p.1 .fillFault (some ta.gva) (some 0)) ∧
              (ta.st ≠ .faulted → tb.st = .faulted →
                Faults s p.1 .fillFault (some tb.gva) (some 0)))))

/-- R73, R191, R200, R205: MXZ clears an accumulator, MXEPI puts every lane through the epilogue, MXRS reads the row
sums, MXSA and MXCB load the core's scales and one codebook. MXEPI of an accumulator with an uncorrectable error faults;
MXZ mends it. What an instruction does is there at its issue and is held until its occupancy ends.
The model's choices in it: log 80 and 81. -/
def Obligations.MatrixSlotMovesAndEpilogue : Prop :=
  ∀ (s : State) (acc : BitVec 3) (vs vz d a : BitVec 6) (cb : BitVec 2),
    let n := acc.toNat
    let k := s.cur / 4
    let hold := fun (c : Nat) (q : Option Nat) => (⟨c, q, [], none⟩ : MxHold)
    let held := fun (c : Nat) (q : Option Nat) => { s.me.iss with hold := some (hold c q) }
    (engineFree s (some acc) → n < s.me.accN →
      (∃ t, exec (.mxz acc) s = .next t ∧ onlyAcc s t (hold 1 (some n)) ∧
        (∀ j, j ∈ t.me.accBad ↔ j ∈ s.me.accBad ∧ j / 128 ≠ n) ∧
        (∀ j, Store.get 0 t.me.acc j = if j / 128 = n then 0 else Store.get 0 s.me.acc j) ∧
        ∀ j, Store.get 0 t.me.rs j = if j = n then 0 else Store.get 0 s.me.rs j) ∧
      (¬ accClean s n 128 → ∃ t, exec (.mxepi acc vs vz) s = .next t ∧
        t.iss.faults = s.iss.faults ++ [⟨s.slot.index, .eccUncorrected, none, none, 0⟩]) ∧
      (accClean s n 128 → ∃ t, exec (.mxepi acc vs vz) s = .next t ∧ onlyAcc s t (hold 64 (some n)) ∧
        t.me.rs = s.me.rs ∧ t.me.accBad = s.me.accBad ∧
        (∀ j, j / 128 ≠ n → Store.get 0 t.me.acc j = Store.get 0 s.me.acc j) ∧
        ∀ i j, i < 128 → j < 128 → eltBits 32 (Store.get 0 t.me.acc (128 * n + i)) j =
          BitVec.ofNat 32 (
            let zp := f32 (eltBits 32 (s.opV vz) j).toNat
            let scol := f32 (eltBits 32 (s.opV vs) j).toNat
            let rs := f32 (eltBits 32 (Store.get 0 s.iss.latch.rs n) i).toNat
            let old := f32 (eltBits 32 (Store.get 0 s.iss.latch.acc (128 * n + i)) j).toNat
            let t1 := f32 (round32 (Ext.mul zp rs))
            let t2 := f32 (round32 (Ext.add .rne old t1.neg))
            round32 (Ext.mul scol t2))) ∧
      ∃ t, exec (.mxrs d acc) s = .next t ∧ t.me.rdV d = Store.get 0 s.iss.latch.rs n ∧
        t.me.iss = held 1 (some n) ∧ s.me.keepsBut [.v d] [] { t.me with iss := s.me.iss } ∧
        s.othersKept t) ∧
    (engineFree s none →
      (∃ t, exec (.mxsa a) s = .next t ∧ t.core k = { s.core k with sa := s.opV a, cfgOwner := some s.cur } ∧
        t.me = { s.me with iss := held 1 none } ∧
        (∀ j, j ≠ k → t.core j = s.core j) ∧ { t with ctxs := s.ctxs, cores := s.cores } = s) ∧
      (fmtCbf s.opFmt < 2 → ∃ t c, exec (.mxcb cb a) s = .next t ∧ Store.get Codebook.zero (t.core k).cb cb.toNat = c ∧
        c.e4m3 = decide (fmtCbf s.opFmt = 1) ∧
        (∀ e, e < 16 → c.entries.extractLsb' (16 * e) 16 =
          if fmtCbf s.opFmt = 1 then (eltBits 8 (s.opV a) e).setWidth 16 else eltBits 16 (s.opV a) e) ∧
        (∀ j, j ≠ cb.toNat → Store.get Codebook.zero (t.core k).cb j = Store.get Codebook.zero (s.core k).cb j) ∧
        t.me = { s.me with iss := held 1 none } ∧
        t.core k = { s.core k with cb := (t.core k).cb, cfgOwner := some s.cur } ∧
        (∀ j, j ≠ k → t.core j = s.core j) ∧ { t with ctxs := s.ctxs, cores := s.cores } = s) ∧
      (2 ≤ fmtCbf s.opFmt → Faults s (.mxcb cb a) .illegalFormat none none))

/-- R70 to R72, R74, R195, R201 to R203: MMA, MMAQ and MMAL on tiles that stand ready. Row i of D takes, in each
lane j, the product of row i of A and column j of B: an INT8 sum modulo 2^32, or an exact floating sum rounded
once, scaled, and added to the lane with one rounding. MMAQ adds the row sums of A likewise.
The model's choice in it: log 80. -/
def Obligations.MatrixMultiplyAccumulates : Prop :=
  ∀ (s : State) (m : MmaArgs) (ta tb : Tile) (rows : Nat),
    let f := s.opFmt
    let n := m.acc.toNat
    let core := s.core (s.cur / 4)
    let beats := m.beats1.toNat + 1
    let ab := 8 * rowBytes ta.ty / 128
    let bb := 8 * rowBytes tb.ty / 128
    let old := fun i j => (eltBits 32 (Store.get 0 s.iss.latch.acc (128 * n + i)) j).toNat
    let scale := fun i => if fmtBs f = true then
      f32 (round32 (Ext.mul (f32 (eltBits 32 core.sa i).toNat)
        (f32 (core.stab.extractLsb' (32 * m.sidx.toNat) 32).toNat))) else Ext.fin false 1 0
    let arow := fun i => (List.range 128).map fun k => fltElt (fmtMxa f) (tileElt ta ab i k)
    let out := fun (t : State) (v : Nat → Nat → Nat) => ∀ i j, i < rows → j < 128 →
      eltBits 32 (Store.get 0 t.me.acc (128 * n + i)) j = BitVec.ofNat 32 (v i j)
    let runs := fun (i : Instr) (kind : MmaKind) (r : Nat) (q : State → Prop) =>
      mmaRate kind (fmtMxa f) (fmtMxb f) = some r → beats = r * rows → rows ≤ 128 →
        ∃ t, exec i s = .next t ∧ mmaFrame s t m beats rows ∧ q t
    engineFree s (some m.acc) → n < s.me.accN → operandsReady s m ta tb → (m.z = true ∨ accClean s n rows) →
      (fmtMxa f = 2 → fmtBs f = false → ∀ r, runs (.mma m) .plain r fun t => t.me.rs = s.me.rs ∧
        out t fun i j => (BitVec.ofInt 32 ((if m.z then 0 else (old i j : Int)) +
          ((List.range 128).map fun k => (BitVec.ofNat 8 (tileElt ta ab i k)).toInt *
            (BitVec.ofNat 8 (tileElt tb bb k j)).toInt).sum)).toNat) ∧
      (fmtMxa f ≠ 2 →
        (∀ r, runs (.mma m) .plain r fun t => t.me.rs = s.me.rs ∧ out t fun i j =>
          promote m.z (Ext.mul (f32 (kblock (arow i)
            ((List.range 128).map fun k => fltElt (fmtMxb f) (tileElt tb bb k j)))) (scale i)) (old i j)) ∧
        (∀ r, runs (.mmal m) .lut4 r fun t => t.me.rs = s.me.rs ∧ out t fun i j =>
          promote m.z (Ext.mul (f32 (kblock (arow i)
            ((List.range 128).map fun k => (Store.get Codebook.zero core.cb (m.sidx.toNat % 4)).entry
              (tileElt tb bb k j)))) (scale i)) (old i j)) ∧
        ∀ r, runs (.mmaq m) .int4 r fun t =>
          (out t fun i j => promote m.z (Ext.mul (f32 (kblock (arow i)
            ((List.range 128).map fun k => Ext.ofInt (if fmtZq f = true then (tileElt tb bb k j : Int)
              else (BitVec.ofNat 4 (tileElt tb bb k j)).toInt)))) (scale i)) (old i j)) ∧
          (∀ j, j ≠ n → Store.get 0 t.me.rs j = Store.get 0 s.me.rs j) ∧
          ∀ i, i < 128 → eltBits 32 (Store.get 0 t.me.rs n) i =
            if i < rows then BitVec.ofNat 32 (promote m.z (Ext.mul (f32 (kblock (arow i)
              ((List.range 128).map fun _ => .fin false 1 0))) (scale i))
                (eltBits 32 (Store.get 0 s.iss.latch.rs n) i).toNat)
            else eltBits 32 (Store.get 0 s.iss.latch.rs n) i)

/-- R160, R197, R199, R206: MXST captures a whole tile from an accumulator and holds both until its occupancy ends;
then a scratch tile turns FULL, a backed one DIRTY once its lines have been written.
The model's choice in it: log 80. -/
def Obligations.MatrixStoreWritesItsTile : Prop :=
  ∀ (s : State) (acc : BitVec 3) (th : BitVec 5) (ty : BitVec 4) (r : RndSel) (e : ETy) (tl : Tile),
    let n := acc.toNat
    let h := th.toNat
    let bytes := (List.range 128).flatMap fun i => leBytes (16 * e.bits)
      (packBits e.bits ((List.range 128).map fun j =>
        storeElt e (rndOf s.opFmt r) (fmtSat s.opFmt)
          (eltBits 32 (Store.get 0 s.iss.latch.acc (128 * n + i)) j).toNat))
    (engineFree s (some acc) → n < s.me.accN → accClean s n 128 → h < 24 → s.me.tile h = some tl → tl.busy = [] →
      tl.st ≠ .filling → vtyOf ty.toNat = some e → tl.ty = ty → tl.sealed = false →
      let q : MxHold := ⟨64, some n, [(s.cur, h)], some (s.cur, h)⟩
      ∃ t p, exec (.mxst acc th ty r) s = .next t ∧
        (let held := { s.me.iss with hold := some q }
         let stored : Tile := { tl with pend := p }
         s.onlyMe t { s.me with tiles := Store.set none s.me.tiles h (some stored), iss := held }) ∧
        Store.list 0 p 0 bytes.length = bytes) ∧
    ∀ (k c : Nat), (s.core k).mxHolder = some c → (s.core k).mxUntil ≤ s.cycle →
      ∃ t, exec (.mxOccupancyEnd k) s = .next t ∧ (t.core k).mxHolder = none ∧ (t.core k).mxTiles = [] ∧
        (t.ctx c).accBusy = [] ∧
        (∀ x, (s.core k).mxTiles = [x] → s.tile x.1 x.2 = some tl → (.mxst ∈ tl.busy →
          (tl.scr = true →
            let full : Tile := { tl with data := tl.pend, pend := [], poison := [], st := .full }
            t.tile x.1 x.2 = some { full with busy := tl.busy.filter fun b => decide (b ≠ .mxst) }) ∧
          (tl.scr = false → t.tile x.1 x.2 = some tl ∧
            ∃ w, (w, .mxstTileWriteDone x.1 x.2) ∈ t.agenda)) ∧
          (.mxst ∉ tl.busy → t.tile x.1 x.2 = some { tl with busy := tl.busy.erase .mx }))

/-- R158, R160, R206: the write of a backed tile by MXST ends: the tile is DIRTY with the stored contents, each of
its lines is held exclusive, and nothing but tiles that share a line has changed.
The model's choices in it: log 18 and 37. -/
def Obligations.MatrixStoreEndsWithItsLinesExclusive : Prop :=
  ∀ (s : State) (c h : Nat) (tl : Tile), s.tile c h = some tl → .mxst ∈ tl.busy →
    (c, h) ∉ (s.core (c / 4)).mxTiles →
    let line := fun j l => j < tl.lines ∧ ∃ key w, s.tileLine c tl j = .ok key w ∧ key / 128 = l
    (∀ l x t, (∃ j, line j l) → x ∈ s.sharers l → ¬ (x.1 = c ∧ x.2.1 = h) → s.tile x.1 x.2.1 = some t →
      t.busy = []) →
    ∃ u y, exec (.mxstTileWriteDone c h) s = .next u ∧ s.onlyMemory u ∧ u.tile c h = some y ∧
      y.st = .dirty ∧ y.data = tl.pend ∧ y.pend = [] ∧ y.poison = [] ∧
      y.busy = (tl.busy.filter fun b => decide (b ≠ .mxst)) ∧ (∀ j l, (j, l + 1) ∈ y.phys ↔ line j l) ∧
      s.bytesKept (fun l => ∃ j, line j l) (fun _ => False) u ∧
      ∀ a b, ¬ (a = c ∧ b = h) → u.tile a b = s.tile a b ∨
        (∃ l j i, line i l ∧ (a, b, j) ∈ s.sharers l) ∧ u.tile a b = (s.tile a b).map Tile.givenUp

/-! ### The data-movement slot -/

/-- R156, R157, R160, R170, R175: TMAP maps a handle to an EMPTY tile as the 32-byte descriptor says, and the next
bundle waits until the descriptor has come; a handle that is none or mapped, a misaligned descriptor, and each check
of R157 fault with their row. No descriptor is read from the range of a sealed tile. TINV empties a tile; TSETF
makes a scratch tile FULL of zeros, or EMPTY. Both block while the tile is busy, and fault on a handle that names no
tile.
The model's choices in it: log 3 and 22. -/
def Obligations.TilesAreMappedAndSet : Prop :=
  (∀ (s : State) (th : BitVec 5) (a : BitVec 6),
     let h := th.toNat
     let da := s.opS a
     let i := Instr.tmap th a
     let row := fun (n : Nat) (c : Cause) => Faults s i c (some da) (some (BitVec.ofNat 64 n))
     ((24 ≤ h ∨ s.me.tile h ≠ none) → row 1 .illegalOperand) ∧
     (h < 24 → s.me.tile h = none → da.toNat % 32 ≠ 0 → row 2 .align) ∧
     (h < 24 → s.me.tile h = none → da.toNat % 32 = 0 → s.sealedTile (s.cur / 32) s.me.part da = false → ∀ key,
       s.memRoute s.cur da true false = .mem key →
       let d := BitVec.ofNat 256 (leNat (s.rdLine key 32))
       (∀ n c, s.tileCheck d = some (n, c) → row n c) ∧
       (s.tileCheck d = none → s.unitsHeld (tileOf d) = true → Stalls s i) ∧
       (s.tileCheck d = none → s.unitsHeld (tileOf d) = false → ∃ t tl, exec i s = .next t ∧
         s.onlyMe { t with delays := s.delays } { s.me with
           tiles := Store.set none s.me.tiles h (some tl), stallTo := t.me.stallTo } ∧ s.cycle ≤ t.me.stallTo ∧
         tl.gva = d.extractLsb' 0 64 ∧ tl.rstride = d.extractLsb' 64 32 ∧ tl.ty = d.extractLsb' 104 4 ∧
         tl.unit = d.extractLsb' 112 8 ∧ tl.bankY = d.getLsbD 129 ∧ tl.scr = d.getLsbD 130 ∧
         tl.sealed = d.getLsbD 131 ∧ tl.bv = d.getLsbD 132 ∧ tl.ub = d.extractLsb' 133 3 ∧
         tl.st = .empty ∧ tl.busy = [] ∧ tl.data = []))) ∧
  ∀ (s : State) (th : BitVec 5) (f : Bool) (tl : Tile),
    let h := th.toNat
    let becomes := fun (i : Instr) (y : Tile) =>
      Makes s i { s.me with tiles := Store.set none s.me.tiles h (some y) }
    let cleared : Tile := { tl with st := .empty, data := [], ro := [], phys := [], poison := [] }
    (noTile s th → Faults s (.tinv th) .illegalOperand none none ∧
      Faults s (.tsetf th f) .illegalOperand none none) ∧
    (h < 24 → s.me.tile h = some tl →
      (tl.busy ≠ [] → Blocks s (.tinv th)) ∧ (tl.busy = [] → becomes (.tinv th) cleared) ∧
      (tl.scr = false → Faults s (.tsetf th f) .illegalOperand none none) ∧
      (tl.scr = true → tl.busy ≠ [] → Blocks s (.tsetf th f)) ∧
      (tl.scr = true → tl.busy = [] →
        becomes (.tsetf th false) cleared ∧ (tl.st = .full → becomes (.tsetf th true) tl) ∧
        (tl.st ≠ .full →
          becomes (.tsetf th true) { tl with st := .full, data := [], poison := [] })))

/-- R160, R165 to R167, R175: TFILL, TWB and TUNMAP post their command. A TFILL of an EMPTY or FAULTED tile that is
not busy makes it FILLING at once, a TWB of a DIRTY one makes it busy, and TUNMAP frees the handle at once.
The model's choices in it: log 7, 19, 21, 22 and 36. -/
def Obligations.TileCommandsArePosted : Prop :=
  ∀ (s : State) (th k : BitVec 5) (tl : Tile) (h : Nat),
    let c := s.cur / 4
    let none_ := fun (i : Instr) => Faults s i .illegalOperand none none
    (noTile s th → none_ (.tunmap th k)) ∧
    (s.resolve th.toNat = none → none_ (.tfill th k) ∧ none_ (.twb th k)) ∧
    (s.resolve th.toNat = some h → s.me.tile h = some tl →
      let direct := th.toNat < 24
      let faulty := tl.scr = true ∧ (tl.st = .empty ∨ tl.st = .faulted)
      let starts := (tl.st = .empty ∨ tl.st = .faulted) ∧ tl.busy = []
      let flushes := tl.st = .dirty ∧ tl.busy = []
      let begun := fun (t : State) (kind : CmdKind) (y : Tile) (ends : List Instr) =>
        t.me.tile h = some y ∧ (∃ q, (t.core c).journal = (s.core c).journal ++ [q] ∧ q.kind = kind ∧
          q.tok = k ∧ q.id = s.nextIdent ∧ q.started = true ∧ q.entry < 64) ∧
        (∀ e ∈ ends, ∃ w, s.cycle ≤ w ∧ (w, e) ∈ t.agenda) ∧ (∀ j, j ≠ h → t.me.tile j = s.me.tile j) ∧
        (∀ d, d ≠ s.cur → t.ctx d = s.ctx d) ∧ t.mem = s.mem
      (faulty → Faults s (.tfill th k) .illegalOperand none none) ∧
      (¬ faulty → ¬ starts → PostsCmd s (.tfill th k) (.fill s.cur h) k []) ∧
      (¬ faulty → starts → journalRoom s → (∀ q ∈ (s.core c).journal, q.id ≠ s.nextIdent) →
        ∃ t, exec (.tfill th k) s = .next t ∧
        begun t (.fill s.cur h) { tl with st := .filling, busy := [.fill] }
          [.fillComplete c s.nextIdent, .fillFail c s.nextIdent]) ∧
      (¬ flushes → PostsCmd s (.twb th k) (.wb s.cur h) k []) ∧
      (flushes → journalRoom s → (∀ q ∈ (s.core c).journal, q.id ≠ s.nextIdent) →
        ∃ t, exec (.twb th k) s = .next t ∧
        begun t (.wb s.cur h) { tl with busy := [.wb] } [.writeBackComplete c s.nextIdent]) ∧
      (direct → s.me.ringMember h = true → Faults s (.tunmap th k) .illegalOperand none none) ∧
      (direct → s.me.ringMember h = false → journalRoom s → ∃ t q, exec (.tunmap th k) s = .next t ∧
        t.me.tile h = none ∧ t.me.tile (32 + s.nextIdent) = some tl ∧ q ∈ (t.core c).journal ∧
        q.kind = .unmap s.cur (32 + s.nextIdent) ∧ q.tok = k ∧ t.mem = s.mem ∧
        (∀ j, j ≠ h → j ≠ 32 + s.nextIdent → t.me.tile j = s.me.tile j)) ∧
      (¬ journalRoom s → (¬ faulty → Stalls s (.tfill th k)) ∧ Stalls s (.twb th k) ∧
        (direct → s.me.ringMember h = false → Stalls s (.tunmap th k))))

/-- R163, R164, R176, R322: PROBE notes a range whose pages all translate, its walks taking an open duration, blocks
and asks for pages of host memory that are not there yet, and faults for the first page that can not be had, with
the pages that have resolved pinned; UNPROBE forgets a range.
The model's choices in it: log 3, 36 and 39. -/
def Obligations.ProbesNoteTheirRange : Prop :=
  ∀ (s : State) (w : Bool) (a b : BitVec 6),
    let start := s.opS a
    let n := (s.opS b).toNat
    let pages := pagesOf start n
    let bad := fun (i : Instr) => Faults s i .illegalOperand none none
    ((n = 0 ∨ 2 ^ 30 < n) → bad (.probe w a b) ∧ bad (.unprobe a b)) ∧
    (1 ≤ n → n ≤ 2 ^ 30 → 16 ≤ s.me.probes.length → bad (.probe w a b)) ∧
    (1 ≤ n → n ≤ 2 ^ 30 → s.me.probes.length < 16 →
      ((∀ p ∈ pages, s.probePage p w = .ok) →
        ∃ t, exec (.probe w a b) s = .next t ∧ s.cycle ≤ t.me.stallTo ∧
          s.onlyMe { t with delays := s.delays } { s.me with
            probes := s.me.probes ++ [⟨start, n, w⟩]
            pins := s.me.pins.filter fun p => decide (p ∉ pages)
            stallTo := t.me.stallTo }) ∧
      ((∀ p ∈ pages, s.probePage p w = .ok ∨ s.probePage p w = .waits) →
        (∃ p ∈ pages, s.probePage p w = .waits) →
        Makes s (.probe w a b) { s.me with iss := { s.me.iss with
          block := true
          later := s.me.iss.later ++ (pages.filter fun p => decide (s.probePage p w = .waits)).map
            .pageRequest } }) ∧
      ∀ l p c r, pages = l ++ p :: r → (∀ q ∈ l, ∀ x, s.probePage q w ≠ .bad x) →
        s.probePage p w = .bad c → ∃ t, exec (.probe w a b) s = .next t ∧
          t.iss.faults = s.iss.faults ++ [⟨s.slot.index, c, some (pageAddr start p), none, 0⟩] ∧
          (∀ q, q ∈ t.me.pins ↔ q ∈ s.me.pins ∨ q ∈ pages ∧ s.probePage q w = .ok) ∧
          t.mem = s.mem ∧ ∀ n, t.me.rdS n = s.me.rdS n ∧ t.me.rdV n = s.me.rdV n) ∧
    (1 ≤ n → n ≤ 2 ^ 30 →
      ((∀ q ∈ s.me.probes, ¬ (q.start = start ∧ q.len = n)) → bad (.unprobe a b)) ∧
      (∀ q, s.me.probes.find? (fun q => decide (q.start = start ∧ q.len = n)) = some q →
        Makes s (.unprobe a b) { s.me with probes := s.me.probes.erase q }))

/-- R169, R171, R172: the copy staging. CPYLV sets one level, and faults above its largest count; CPYBS sets both
bases; CPYCV sets, or clears, the geometry, and faults where it is none of the forms of R172. -/
def Obligations.CopyStagingIsSet : Prop :=
  ∀ (s : State) (d a b : BitVec 6) (l : Fin 6),
    let n := (s.opS a).toNat
    let lv : CpLevel := ⟨BitVec.ofNat 16 n, (s.opS b).extractLsb' 0 32, (s.opS b).extractLsb' 32 32⟩
    let g := s.me.staging
    let stages := fun (i : Instr) (y : Staging) => Makes s i { s.me with staging := y }
    let o := s.opS d
    let e := s.opS a
    let p := s.opS b
    let w := (e.extractLsb' 0 16).toNat
    let h := (e.extractLsb' 16 16).toNat
    let m := (e.extractLsb' 32 16).toNat
    let clean := (o.extractLsb' 48 16).toNat = 0 ∧ (e.extractLsb' 56 8).toNat = 0
    let off := w = 0 ∧ h = 0 ∧ m = 0 ∧ o = 0
    let on := w ≠ 0 ∧ h ≠ 0 ∧ m ≠ 0 ∧ p ≠ 0 ∧ p.toNat ≤ 2 ^ 32
    ((if l = 0 then 65536 else 65535) < n → Faults s (.cpylv l a b) .illegalOperand (some (s.opS a)) none) ∧
    (n ≤ 65536 → stages (.cpylv 0 a b) { g with c0 := n }) ∧
    (n ≤ 65535 → stages (.cpylv 1 a b) { g with l1 := lv } ∧ stages (.cpylv 2 a b) { g with l2 := lv } ∧
      stages (.cpylv 3 a b) { g with l3 := lv } ∧ stages (.cpylv 4 a b) { g with l4 := lv } ∧
      stages (.cpylv 5 a b) { g with l5 := lv }) ∧
    stages (.cpybs a b) { g with sbase := s.opS a, dbase := s.opS b } ∧
    (clean → off → stages (.cpycv d a b) { g with conv := none }) ∧
    (clean → on → ∃ v : ConvGeom, stages (.cpycv d a b) { g with conv := some v } ∧
      v.x0 = o.extractLsb' 0 16 ∧ v.y0 = o.extractLsb' 16 16 ∧ v.n0 = o.extractLsb' 32 16 ∧
      v.w.toNat = w ∧ v.h.toNat = h ∧ v.n.toNat = m ∧ v.pad = e.extractLsb' 48 8 ∧ v.pitch = p) ∧
    (¬ (clean ∧ (off ∨ on)) → Faults s (.cpycv d a b) .illegalOperand none none)

/-- R161, R165 to R167, R170, R173, R174, R180: CPYGO, GATH and COLL post their command with what it captured; a
copy aimed at a ring claims the tile at the ring's write pointer. A command waits for the producers of the
tokens that it consumes.
The model's choices in it: log 7, 30 and 36. -/
def Obligations.CopiesGathersAndCollectivesArePosted : Prop :=
  ∀ (s : State) (kp ka kb kc : BitVec 5) (a b : BitVec 6) (q : BitVec 3) (r : Ring),
    let g := s.me.staging
    let n := (s.opS b).toNat
    let waits := tokenProducers s [ka, kb, kc]
    let claims := fun (i : Instr) (kind : CmdKind) (tok : BitVec 5) (ws : List Nat) =>
      let moved : Ring := { r with wr := (r.wr + 1) % r.members.length }
      (journalRoom s → ∃ u t, exec i s = .next t ∧ postedOn s u t kind tok ws ∧
        s.onlyMe u { s.me with rings := Store.set none s.me.rings q.toNat (some moved) }) ∧
      (¬ journalRoom s → Stalls s i)
    (g.badConv = false → PostsCmd s (.cpygo kp ka kb kc none) (.copy g none) kp waits) ∧
    (g.badConv = true → Faults s (.cpygo kp ka kb kc none) .illegalOperand none none) ∧
    (s.me.ring q.toNat = none → Faults s (.cpygo kp ka kb kc (some q)) .illegalOperand none none) ∧
    (s.me.ring q.toNat = some r →
      (g.badConv = false → g.fits (s.slotBytes r.slot) = true →
        claims (.cpygo kp ka kb kc (some q)) (.copy g (some (q.toNat, r.members.getD r.wr 0))) kp waits) ∧
      ((g.badConv = true ∨ g.fits (s.slotBytes r.slot) = false) →
        Faults s (.cpygo kp ka kb kc (some q)) .illegalOperand none none)) ∧
    (let flat := g.conv = none ∧ g.l2.cnt = 1 ∧ g.l3.cnt = 1 ∧ g.l4.cnt = 1 ∧ g.l5.cnt = 1
     let al := (s.opS a).toNat % 4 = 0
     (¬ al → Faults s (.gath a b kp none) .align (some (s.opS a)) none) ∧
     (al → ¬ (n < 65536 ∧ flat) → Faults s (.gath a b kp none) .illegalOperand none none) ∧
     (al → n < 65536 → flat → PostsCmd s (.gath a b kp none) (.gath g (s.opS a) n none) kp []) ∧
     (al → n < 65536 → flat → s.me.ring q.toNat = some r → g.gathFits n (s.slotBytes r.slot) = true →
       claims (.gath a b kp (some q)) (.gath g (s.opS a) n (some (q.toNat, r.members.getD r.wr 0))) kp [])) ∧
    ((s.opS a).toNat % 64 ≠ 0 → Faults s (.coll a kp) .align (some (s.opS a)) none) ∧
    ((s.opS a).toNat % 64 = 0 → PostsCmd s (.coll a kp) (.coll (s.opS a)) kp [])

/-- R160, R161, R177, R178: rings. RBINIT makes a ring of scratch tiles, all EMPTY, or undoes one; RBWAIT passes
once the tile at the read pointer is FULL, whether or not an instruction still reads it; RBREL empties it, once no
instruction does, and moves the read pointer on.
The model's choices in it: log 31, 36 and 38. -/
def Obligations.RingsHandTilesOver : Prop :=
  ∀ (s : State) (rb : BitVec 3) (a b : BitVec 6),
    let q := rb.toNat
    let n := (s.opS b).toNat
    let ms := (List.range n).map fun k => ((s.opS a).extractLsb' (5 * k) 5).toNat
    let members := match s.me.ring q with
      | some r => r.members
      | none => []
    let legal := n ≠ 0 ∧ n ≤ 8 ∧ (s.opS a).toNat < 2 ^ (5 * n) ∧ (∀ h ∈ ms, s.mayJoin q h = true) ∧ ms.Nodup
    let idle := fun l : List Nat => ∀ h ∈ l, ∀ t, s.me.tile h = some t → t.busy = []
    ((s.aimedAt q = true ∨ ¬ idle members) → Stalls s (.rbinit rb a b)) ∧
    (s.aimedAt q = false → idle members →
      (n ≠ 0 → ¬ legal → Faults s (.rbinit rb a b) .illegalOperand none none) ∧
      (n = 0 → Makes s (.rbinit rb a b) { s.me with rings := Store.set none s.me.rings q none }) ∧
      (legal → ¬ idle ms → Blocks s (.rbinit rb a b)) ∧
      (legal → idle ms → ∃ t, exec (.rbinit rb a b) s = .next t ∧
        s.onlyMe t { s.me with
          tiles := t.me.tiles
          rings := Store.set none s.me.rings q (some ⟨ms, 0, 0⟩) } ∧
        ∀ h, t.me.tile h = if h ∈ ms then (s.me.tile h).map Tile.emptied else s.me.tile h)) ∧
    (s.me.ring q = none → Faults s (.rbwait rb) .illegalOperand none none ∧
      Faults s (.rbrel rb) .illegalOperand none none) ∧
    ∀ r tl, s.me.ring q = some r → s.me.tile (r.members.getD r.rd 0) = some tl →
      let h := r.members.getD r.rd 0
      (tl.st = .faulted → Faults s (.rbwait rb) .fillFault none none) ∧
      (tl.st ≠ .faulted → ¬ (tl.st = .full ∨ tl.st = .dirty) → Blocks s (.rbwait rb)) ∧
      ((tl.st = .full ∨ tl.st = .dirty) → ChangesNothing s (.rbwait rb)) ∧
      (tl.busy ≠ [] → Blocks s (.rbrel rb)) ∧
      (tl.busy = [] → tl.st ≠ .full → Faults s (.rbrel rb) .illegalOperand none none) ∧
      (tl.busy = [] → tl.st = .full →
        let tile : Tile := { tl with st := .empty, data := [], ro := [], phys := [], poison := [] }
        let ring : Ring := { r with rd := (r.rd + 1) % r.members.length }
        Makes s (.rbrel rb) { s.me with
          tiles := Store.set none s.me.tiles h (some tile)
          rings := Store.set none s.me.rings q (some ring) })

/-- R158, R170, R179, R181: SCTLD loads the 64 bytes of the scale table, and the next bundle waits until they have
come; ones come from the range of a sealed tile. L2LOCK and L2UNLK lock and unlock the lines of a range within the
quota, and say how many; the next bundle waits for lines that are locked.
The model's choices in it: log 3, 25, 36 and 40. -/
def Obligations.ScaleTableAndLineLocks : Prop :=
  ∀ (s : State) (d a b : BitVec 6),
    let da := s.opS a
    let n := (s.opS b).toNat
    let k := s.cur / 4
    let me := s.me.identity
    (da.toNat % 64 ≠ 0 → Faults s (.sctld a) .align (some da) none) ∧
    (da.toNat % 64 = 0 → s.sealedTile (s.cur / 32) s.me.part da = true →
      ∃ t, exec (.sctld a) s = .next t ∧ (t.core k).stab = BitVec.allOnes 512 ∧ s.cycle ≤ t.me.stallTo) ∧
    (da.toNat % 64 = 0 → s.sealedTile (s.cur / 32) s.me.part da = false → ∀ key,
      s.memRoute s.cur da true false = .mem key →
      ∃ t, exec (.sctld a) s = .next t ∧
        s.onlyCore { t with ctxs := s.ctxs, delays := s.delays } k { s.core k with
          stab := BitVec.ofNat 512 (leNat (s.rdLine key 64)), cfgOwner := some s.cur } ∧
        t.me = { s.me with stallTo := t.me.stallTo } ∧ s.cycle ≤ t.me.stallTo ∧
        ∀ d, d ≠ s.cur → t.ctx d = s.ctx d) ∧
    (∀ i ∈ [Instr.l2lock d a b, .l2unlk d a b],
      (da.toNat % 128 ≠ 0 → Faults s i .align (some da) none) ∧
      (da.toNat % 128 = 0 → (n = 0 ∨ n % 128 ≠ 0) → Faults s i .illegalOperand none none)) ∧
    (da.toNat % 128 = 0 → n ≠ 0 → n % 128 = 0 →
      let lines := s.lockRange da n
      let new := lines.filter fun l => s.locks.all fun q => decide (¬ (q.line = l ∧ q.ctx = me))
      let got := (s.lockable new).1
      ((s.me.quota = 0 ∨ s.me.quota < s.me.locked + 128 * new.length) → WritesS s (.l2lock d a b) d 2) ∧
      (s.me.quota ≠ 0 → s.me.locked + 128 * new.length ≤ s.me.quota → ∃ t, exec (.l2lock d a b) s = .next t ∧
        t.me.rdS d = (if d = 0 then 0 else
          BitVec.ofNat 64 (got.length * 2 ^ 32 + if (s.lockable new).2 then 1 else 0)) ∧
        t.locks = s.locks ++ got.map (fun l => ⟨s.me.part, l, me⟩) ∧
        t.me.locked = s.me.locked + 128 * got.length ∧
        (got = [] → t.me.stallTo = s.me.stallTo) ∧ (got ≠ [] → s.cycle ≤ t.me.stallTo) ∧
        s.me.keepsBut [.s d] [] { t.me with locked := s.me.locked, stallTo := s.me.stallTo } ∧
        s.othersKept { t with locks := s.locks }) ∧
      let mine := s.locks.filter fun q => decide (q.ctx = me ∧ q.line ∈ lines)
      ∃ t, exec (.l2unlk d a b) s = .next t ∧
        t.me.rdS d = (if d = 0 then 0 else BitVec.ofNat 64 mine.length) ∧
        t.locks = s.locks.filter (fun q => decide (q ∉ mine)) ∧
        t.me.locked = s.me.locked - 128 * mine.length ∧
        s.me.keepsBut [.s d] [] { t.me with locked := s.me.locked } ∧
        s.othersKept { t with locks := s.locks })

/-! ### The engines -/

/-- R158, R160, R165, R175: a fill makes its tile FULL with the bytes of its lines and ends every fill of the tile,
or leaves it FAULTED and marks them; a write-back puts a DIRTY tile's bytes into its lines of memory and leaves it
FULL, or marks its command; an unmap does the same and frees the units. Each waits while its bundle has an access to
perform or a busy tile keeps a line that it needs (R48, R199).
The model's choices in it: log 14, 17, 18, 20, 22 and 91. -/
def Obligations.FillsWriteBacksAndUnmapsEnd : Prop :=
  ∀ (s : State) (k id o th : Nat) (q : Cmd) (t : Tile), s.tile o th = some t →
    let both := (s.schedule 1 (.fillComplete k id)).schedule 1 (.fillFail k id)
    (s.bundleOpen q = true →
      (underWay s k id q (.fill o th) → t.st = .filling →
        exec (if s.fillFailure q.part t = none then .fillComplete k id else .fillFail k id) s = .next both) ∧
      ∀ e : Instr, (underWay s k id q (.wb o th) ∧ e = .writeBackComplete k id ∨
        underWay s k id q (.unmap o th) ∧ e = .unmapComplete k id) → exec e s = .next (s.schedule 1 e)) ∧
    (s.bundleOpen q = false → underWay s k id q (.fill o th) → t.st = .filling →
      (s.fillFailure q.part t = none → s.fillBusy q.part t = true →
        exec (.fillComplete k id) s = .next both) ∧
      (s.fillFailure q.part t = none → s.fillBusy q.part t = false → ∃ u y, exec (.fillComplete k id) s = .next u ∧
        exec (.fillFail k id) s = .next s ∧ u.tile o th = some y ∧ y.st = .full ∧
        y.busy = t.busy.erase .fill ∧
        (∀ j < t.lines, Store.list 0 y.data (128 * j) 128 = (s.fillLine q.part t j).bytes) ∧
        (∀ r ∈ (u.core k).journal, r.kind = .fill o th → r.started = true → r.failed ≠ none) ∧
        ((∀ j < t.lines, s.fillRefused q.part t j = false) →
          u.mem = s.mem ∧ u.parts = s.parts ∧
            ∀ c h, ¬ (c = o ∧ h = th) → u.tile c h = s.tile c h)) ∧
      (∀ f, s.fillFailure q.part t = some f → ∃ u, exec (.fillFail k id) s = .next u ∧
        exec (.fillComplete k id) s = .next s ∧
        u.tile o th = some { t with st := .faulted, busy := t.busy.erase .fill, bad := f.2 } ∧
        cmdFailed u k id q f ∧ u.mem = s.mem ∧
        (∀ r ∈ (u.core k).journal, r.kind = .fill o th → r.started = true → r.failed ≠ none) ∧
        ∀ c h, ¬ (c = o ∧ h = th) → u.tile c h = s.tile c h)) ∧
    ∀ ends : Instr, s.bundleOpen q = false → (ends = .writeBackComplete k id ∧ underWay s k id q (.wb o th) ∨
        ends = .unmapComplete k id ∧ underWay s k id q (.unmap o th)) →
      let kept := fun (u : State) (y : Tile) =>
        u.tile o th = if ends = .unmapComplete k id then none else some y
      let idle : Tile := { t with busy := t.busy.erase .wb }
      (t.st ≠ .dirty → ∃ u, exec ends s = .next u ∧ kept u idle ∧ cmdGone u k id ∧ u.mem = s.mem) ∧
      (t.st = .dirty → s.flushBusy o th t = true → exec ends s = .next (s.schedule 1 ends)) ∧
      (t.st = .dirty → s.flushBusy o th t = false → ∀ f, s.flushFailure o t = some f → ∃ u, exec ends s = .next u ∧
        u.tile o th = some idle ∧ cmdFailed u k id q f ∧ u.mem = s.mem) ∧
      (t.st = .dirty → s.flushBusy o th t = false → s.flushFailure o t = none → ∃ u y, exec ends s = .next u ∧
        kept u y ∧
        y.st = .full ∧ y.data = t.data ∧ y.busy = t.busy.erase .wb ∧ cmdGone u k id ∧
        ((∀ i j a b v w, i < t.lines → j < t.lines → s.tileLine o t i = .ok a v → s.tileLine o t j = .ok b w →
            a / 128 = b / 128 → i = j) →
          (∀ i, i < t.lines → ∃ a w, s.tileLine o t i = .ok a w ∧
            let place := linePlace (a / 128)
            (place.1 < hostSpace → s.refuses place.1 place.2 true = false)) →
          ∀ j a w, j < t.lines → s.tileLine o t j = .ok a w →
            u.rdMem (a / 128 * 128) 128 = Store.list 0 t.data (128 * j) 128))

/-- R48, R160, R161, R166, R169: a command starts once the producers of its tokens have completed and the accesses
of its bundle have performed, and sets its end going; until then it waits. A copy to memory that moves nothing is
done at once. A copy aimed at a ring writes its tile once that is EMPTY and not busy.
The model's choices in it: log 2, 3 and 91. -/
def Obligations.CommandsStartWhenTheirTokensHaveSignalled : Prop :=
  ∀ (s : State) (k id : Nat) (q : Cmd), s.cmd k id = some q → q.failed = none → q.entry ≠ 65 →
    let starts := Instr.dmCommandStart k id
    let marked := fun (f : Cmd → Cmd) => (s.core k).journal.map fun r => if r.id = id then f r else r
    let started := marked fun r => { r with started := true }
    let copying := marked fun r => { r with started := true, tok := if r.kind.movesNothing then 31 else r.tok }
    let waits := q.waits.any s.cmdOpen = true ∨ s.bundleOpen q = true
    let sets := fun (u : State) (ends : List Instr) => ∃ w, s.cycle ≤ w ∧
      (∀ e, e ∈ u.agenda ↔ e ∈ s.agenda ∨ ∃ i ∈ ends, e = (w, i))
    let goes := fun (ends : List Instr) (j : List Cmd) => ∃ u, exec starts s = .next u ∧ sets u ends ∧
      s.onlyCore { u with agenda := s.agenda, delays := s.delays } k { s.core k with journal := j }
    let ends_ := [Instr.copyComplete k id, .copyFail k id]
    let done := ∃ u, exec starts s = .next u ∧ cmdGone u k id ∧ s.onlyCore u k { s.core k with
      journal := (u.core k).journal }
    let later := fun (i : Instr) => exec i s = .next (s.schedule 1 i)
    (q.started = true → exec starts s = .next s) ∧
    (q.started = false → waits → later starts) ∧
    (q.started = false → ¬ waits →
      (∀ g, q.kind = .copy g none → if g.isEmpty = true then done else goes ends_ copying) ∧
      (∀ g l n, q.kind = .gath g l n none → if g.c0 = 0 ∨ n = 0 then done else goes ends_ copying) ∧
      (∀ g r, q.kind = .copy g (some r) → goes [.ringSlotWriteStart k id] copying) ∧
      (∀ g l n r, q.kind = .gath g l n (some r) → goes [.ringSlotWriteStart k id] copying) ∧
      (∀ p a t, q.kind = .enq p a t → goes [.enqAppend k id] (marked fun r =>
        { r with started := true, after := (s.ctx q.ctx).outst.map Access.id })) ∧
      (∀ d, q.kind = .coll d → goes [.collDescriptorRead k id] started) ∧
      ∀ o th t, s.tile o th = some t →
        (q.kind = .fill o th → (t.st = .empty ∨ t.st = .faulted) → t.scr = false → t.busy = [] →
          ∃ u, exec starts s = .next u ∧ u.tile o th = some { t with st := .filling, busy := [.fill] } ∧
            (u.core k).journal = started ∧ sets u [.fillComplete k id, .fillFail k id]) ∧
        ((q.kind = .wb o th ∨ q.kind = .unmap o th) → (t.busy ≠ [] ∨ t.st = .filling) → later starts) ∧
        ∀ i, (q.kind = .wb o th ∧ i = Instr.writeBackComplete k id ∨
            q.kind = .unmap o th ∧ i = Instr.unmapComplete k id) → t.busy = [] → t.st ≠ .filling →
          ∃ u, exec starts s = .next u ∧ (u.core k).journal = started ∧ sets u [i] ∧
            u.tile o th = some (if t.st = .dirty then { t with busy := [.wb] } else t)) ∧
    ∀ th t, q.kind.ringTile = some th → s.tile q.ctx th = some t → q.started = true →
      (t.st = .empty → t.busy = [] → ∃ u, exec (.ringSlotWriteStart k id) s = .next u ∧
        u.tile q.ctx th = some { t with busy := [.copy] } ∧ u.cores = s.cores ∧
        sets u [.copyComplete k id, .copyFail k id]) ∧
      (¬ (t.st = .empty ∧ t.busy = []) → later (.ringSlotWriteStart k id))

/-- R161, R165, R169, R173: a copy of one run writes the bytes of its source to its destination, in memory or in the
tile of its ring, and leaves its journal; a copy that fails leaves its mark, and the tile of its ring FAULTED. While a
busy tile keeps a line of the copy, it waits, whichever way it is to end.
The model's choices in it: log 14, 16, 17 and 18. -/
def Obligations.CopiesEndWithTheirBytesWritten : Prop :=
  ∀ (s : State) (k id : Nat) (q : Cmd) (g : Staging) (r : Run) (a : DWord), g.moves = [r] → r.src = some a →
    (∀ kind, underWay s k id q kind → s.cmdBusy q = true → s.copying q = true →
      exec (if s.cmdFailure q = none then .copyComplete k id else .copyFail k id) s =
        .next ((s.schedule 1 (.copyComplete k id)).schedule 1 (.copyFail k id))) ∧
    (s.cmdBusy q = false → underWay s k id q (.copy g none) →
      let d := g.dbase + r.dof
      0 < r.n → a.toNat % 128 + r.n ≤ 128 → d.toNat % 128 + r.n ≤ 128 → ∀ key v dest,
        s.engXlate (some q.cluster) q.part a false = .ok key v →
        s.engXlate (some q.cluster) q.part d true = .ok dest true →
        ∃ u, exec (.copyComplete k id) s = .next u ∧ exec (.copyFail k id) s = .next s ∧
          u.rdMem dest r.n = s.rdLine key r.n ∧ cmdGone u k id ∧
          s.bytesKept (fun l => l = dest / 128) (fun j => dest ≤ j ∧ j < dest + r.n) u) ∧
    (s.cmdBusy q = false → underWay s k id q (.copy g none) → ∀ f, s.cmdFailure q = some f → ∃ u,
      exec (.copyFail k id) s = .next u ∧ exec (.copyComplete k id) s = .next s ∧ cmdFailed u k id q f) ∧
    ∀ rg th t, s.cmdBusy q = false → underWay s k id q (.copy g (some (rg, th))) → s.tile q.ctx th = some t →
      .copy ∈ t.busy →
      let bytes := s.bulkRead q.part a r.n (some q.cluster)
      (s.runFail q.part a r.n false (some q.cluster) = none → ∃ u y, exec (.copyComplete k id) s = .next u ∧
        u.tile q.ctx th = some y ∧ y.st = .full ∧ y.busy = t.busy.erase .copy ∧ cmdGone u k id ∧
        Store.list 0 y.data r.dof.toNat bytes.length = bytes ∧
        ∀ j, (j < r.dof.toNat ∨ r.dof.toNat + bytes.length ≤ j) → Store.get 0 y.data j = 0) ∧
      ∀ f, s.runFail q.part a r.n false (some q.cluster) = some f → ∃ u, exec (.copyFail k id) s = .next u ∧
        u.tile q.ctx th = some { t with st := .faulted, busy := t.busy.erase .copy } ∧
        cmdFailed u k id q f ∧ u.mem = s.mem

/-- R40, R56, R119, R128, R151, R160, R301: a result that lands is pending no longer. A remote access passes its
completion points one after the other; once it has completed no fence or drain waits for it. Another agent's write
of a whole line is one store, which waits while a tile that shares the line is busy; what the checks refuse is
logged with the partition that the agent's requester field names.
The model's choices in it: log 3, 14, 18, 83 and 88. -/
def Obligations.ResultsLandAndForeignLinesAreWritten : Prop :=
  ∀ (s : State) (c id who p a : Nat) (data : BitVec 1024),
    let x := s.ctx c
    let live := fun i : Nat => decide (i ≠ id) && x.outst.any fun b => decide (b.id = i)
    let write := Instr.foreignLineWrite ⟨who, p⟩ a data
    let read := Instr.foreignLineRead ⟨who, p⟩ a
    let refused := fun w : Bool => p < 16 ∧ s.refuses p a w = true
    let logged := if (s.part (who % 16)).live = true then s.logRefused (who % 16) who a else s.logDevRefused who a
    let busy := fun w : Bool => s.lineBusy (keyOf p a / 128) none w = true
    let later := fun i : Instr => exec i s = .next (s.schedule 1 i)
    (∃ t, exec (.resultLanding c id) s = .next t ∧
      s.onlyCtx t c { x with score := x.score.filter fun q => decide (q.id ≠ id) }) ∧
    ((∀ b ∈ x.outst, b.id ≠ id) → ChangesNothing s (.accessCompletion c id)) ∧
    (∀ b, x.outst.find? (fun b => decide (b.id = id)) = some b →
      (b.remote = true → b.stage < 2 → ∃ t w, exec (.accessCompletion c id) s = .next t ∧
        s.onlyCtx { t with agenda := s.agenda, delays := s.delays } c { x with outst := x.outst.map fun q =>
          if q.id = id then { q with stage := q.stage + 1 } else q } ∧
        s.cycle ≤ w ∧ ∀ e, e ∈ t.agenda ↔ e ∈ s.agenda ∨ e = (w, .accessCompletion c id)) ∧
      (¬ (b.remote = true ∧ b.stage < 2) → ∃ t, exec (.accessCompletion c id) s = .next t ∧
        s.onlyCtx t c { x with
          outst := x.outst.filter fun q => decide (q.id ≠ id)
          fences := (t.ctx c).fences, drain := (t.ctx c).drain } ∧
        (∀ h, h ∈ (t.ctx c).fences ↔ h.ids ≠ [] ∧ ∃ f ∈ x.fences, h = { f with ids := f.ids.filter live }) ∧
        ∀ h, h ∈ (t.ctx c).drain ↔ h.ids ≠ [] ∧ ∃ f ∈ x.drain, h = { f with ids := f.ids.filter live })) ∧
    ((a % 128 ≠ 0 ∨ 16 < p) → ChangesNothing s write) ∧ (16 < p → ChangesNothing s read) ∧
    (a % 128 = 0 → p ≤ 16 →
      (refused true → exec write s = .next logged) ∧
      (¬ refused true → busy true → later write) ∧
      (¬ refused true → ¬ busy true → ∃ t, exec write s = .next t ∧
        s.storedAt t (keyOf p a) (leBytes 128 data.toNat))) ∧
    (p ≤ 16 → (refused false → exec read s = .next logged) ∧
      (¬ refused false → busy false → later read) ∧ (¬ refused false → ¬ busy false → ChangesNothing s read))

/-! ### Frontiers, queues and uses -/

/-- R246, R250, R252, R254 to R257: CAPHOLD, CAPADV and CAPDROP. Holding counts +1 at the context's truncated time;
advancing counts +1 at the new time and -1 at the old; dropping counts -1. Advancing and dropping wait until every
access that is outstanding has completed at partition scope. An increment reaches Chorus behind those that its
cluster has sent before it, and is counted, or refused where the frontier has passed it.
The model's choices in it: log 2, 14, 31 and 103. -/
def Obligations.CapabilitiesCountWhatTheyHold : Prop :=
  ∀ (s : State) (n p : BitVec 6) (d : Depth),
    let rest := s.me.incs.filter fun i => decide (i.slot ≠ s.slot)
    let named := some (n.setWidth 64)
    let cl := s.cur / 32
    let minus := fun (t : State) (k : Cap) =>
      (t.cluster cl).batch = addCount (s.cluster cl).batch ⟨p, k.t, -1⟩ ∧
        (t.part s.me.part).changed = true ∧ t.mem = s.mem ∧ t.slot = s.slot ∧
        ∀ c, c ≠ s.cur → t.ctx c = s.ctx c
    (∀ i ∈ [Instr.caphold n d, .capadv n, .capdrop n, .awaitf n d, .testf 1 n d, .enq n 1 31, .deq n 1],
      (s.me.port n = none → Faults s i .illegalOperand named none) ∧
      ∀ x, s.me.port n = some p → (s.part s.me.part).underflow = some x →
        Faults s i .frontierUnderflow (some (x.1.setWidth 64)) (some (BitVec.ofNat 64 (x.2.toNat / 2 ^ 48)))) ∧
    (portReady s n p →
      (let t := s.me.iss.time.trunc d.val
       ((s.me.cap p ≠ none ∨ 16 ≤ s.me.caps.length) → Faults s (.caphold n d) .illegalOperand named none) ∧
       (s.me.cap p = none → s.me.caps.length < 16 → Counts s (.caphold n d) p t true
         (Makes s (.caphold n d) { s.me with incs := rest, caps := s.me.caps ++ [⟨p, n, d.val, t⟩] }))) ∧
      (s.me.cap p = none → Faults s (.capadv n) .illegalOperand named none ∧
        Faults s (.capdrop n) .illegalOperand none none) ∧
      ∀ k, s.me.cap p = some k →
        let t := s.me.iss.time.trunc k.depth
        (t.toNat < k.t.toNat → Faults s (.capadv n) .frontierOrder none (some 2)) ∧
        (t = k.t → ChangesNothing s (.capadv n)) ∧
        (k.t.toNat < t.toNat → ¬ allPast s 2 → s.incOf s.slot = none → Stalls s (.capadv n)) ∧
        (k.t.toNat < t.toNat → (allPast s 2 ∨ s.incOf s.slot ≠ none) →
          Counts s (.capadv n) p t false (∃ u, exec (.capadv n) s = .next u ∧ minus u k ∧ u.me = { s.me with
            incs := rest
            caps := s.me.caps.map fun x => if x.port = p then { x with t := t } else x })) ∧
        (¬ allPast s 2 → Stalls s (.capdrop n)) ∧
        (allPast s 2 → ∃ u, exec (.capdrop n) s = .next u ∧ minus u k ∧
          u.me = { s.me with caps := s.me.caps.filter fun x => decide (x.port ≠ p) })) ∧
    ∀ (c : Nat) (sl : Slot) (i : Inc),
      (s.ctx c).incs.find? (fun i => decide (i.slot = sl ∧ i.st = .sent)) = some i →
      let P := s.part (s.ctx c).part
      let late := i.hold = true ∧ ∃ f, Store.get none P.ann i.port.toNat = some f ∧ f.passes i.t = true
      let behind := ∃ e, e / 32 = c / 32 ∧ ∃ j ∈ (s.ctx e).incs, j.st = .sent ∧ j.id < i.id
      let marks := fun (f : IncSt → IncSt) =>
        (s.ctx c).incs.map fun x => if x.slot = sl then { x with st := f x.st } else x
      (behind → exec (.incrementArrival c sl) s = .next (s.schedule 1 (.incrementArrival c sl))) ∧
      (¬ behind → ∃ t w, exec (.incrementArrival c sl) s = .next t ∧ (w, .incrementAck c sl) ∈ t.agenda ∧
        (late → (t.ctx c).incs = marks (fun _ => .refused) ∧ t.parts = s.parts) ∧
        (¬ late → (t.ctx c).incs = marks (fun _ => .counted) ∧
          (t.part (s.ctx c).part).counts = addCount P.counts ⟨i.port, i.t, 1⟩)) ∧
      ∃ u, exec (.incrementAck c sl) s = .next u ∧ s.onlyCtx u c { s.ctx c with incs := marks fun st =>
        match st with
        | .counted => .acked
        | .refused => .ackedRefused
        | x => x }

/-- R52, R228, R258 to R261, R263: AWAITF blocks and TESTF answers by the announced frontier; ENQ posts its command
once its time is counted, and the line is appended when the queue has room, no earlier line of its context waits,
and the accesses that came before it have completed; DEQ takes the oldest line, its time, and its count. Each waits
while a busy tile keeps a line of its entry. Storage of the entry in host memory that is out of reach is HOST_GONE.
The model's choices in it: log 18, 31 and 41. -/
def Obligations.QueuesCarryLinesWithTheirTimes : Prop :=
  ∀ (s : State) (n p : BitVec 6) (d : Depth) (rd a : BitVec 6) (k : BitVec 5), portReady s n p →
    let named := some (n.setWidth 64)
    let pt := s.me.part
    let x := (s.part pt).port p
    let da := s.opS a
    let gone := s.queueGone pt x x.head = true
    let busy := s.queueBusy pt x x.head false = true
    (reachedAt s p d → ChangesNothing s (.awaitf n d) ∧ WritesS s (.testf rd n d) rd 1) ∧
    (¬ reachedAt s p d → Blocks s (.awaitf n d) ∧ WritesS s (.testf rd n d) rd 0) ∧
    (x.queue = false → Faults s (.enq n a k) .illegalOperand named none ∧
      Faults s (.deq n a) .illegalOperand none none) ∧
    (x.queue = true → da.toNat % 128 ≠ 0 → Faults s (.enq n a k) .align (some da) none ∧
      Faults s (.deq n a) .align (some da) none) ∧
    (x.queue = true → da.toNat % 128 = 0 →
      let held := ∃ c, s.me.cap p = some c ∧ c.t.toNat ≤ s.me.iss.time.toNat
      (¬ held → Faults s (.enq n a k) .frontierOrder none (some 3)) ∧
      (held → ¬ journalRoom s → Stalls s (.enq n a k)) ∧
      (held → journalRoom s → Counts s (.enq n a k) p s.me.iss.time false
        (∃ u t, exec (.enq n a k) s = .next t ∧ postedOn s u t (.enq p da s.me.iss.time) k [] ∧
          s.onlyMe u { s.me with incs := s.me.incs.filter fun i => decide (i.slot ≠ s.slot) })) ∧
      (gone → Faults s (.deq n a) .hostGone none none) ∧
      (¬ gone → x.times = [] → Blocks s (.deq n a)) ∧
      (¬ gone → x.times ≠ [] → busy → Stalls s (.deq n a)) ∧
      ∀ t rest key, ¬ gone → ¬ busy → x.times = t :: rest → s.sealedBy pt (x.base + 128 * x.head) = none →
        s.route s.cur da false true = .mem key →
        ∃ u, exec (.deq n a) s = .next u ∧
          u.rdMem key 128 = s.rdMem (keyOf pt (x.base + 128 * x.head)) 128 ∧
          (u.part pt).port p = { x with head := (x.head + 1) % x.cap, times := rest } ∧ u.me.rt = t ∧
          (u.cluster (s.cur / 32)).batch = addCount (s.cluster (s.cur / 32)).batch ⟨p, t, -1⟩ ∧
          s.bytesKept (fun l => l = key / 128) (fun j => key ≤ j ∧ j < key + 128) u ∧
          ∀ r, u.me.rdS r = s.me.rdS r ∧ u.me.rdV r = s.me.rdV r) ∧
    ∀ core id q src t, underWay s core id q (.enq p src t) → s.runFail q.part src 128 false = none →
      let y := (s.part q.part).port p
      let i := (y.head + y.times.length) % y.cap
      let line := y.base + 128 * i
      let time := y.base + 128 * y.cap + 16 * i
      let full := y.cap ≤ y.times.length ∨ s.enqBefore q p = true ∨ (s.ctx q.ctx).openOf q.after 2 = true ∨
        s.runBusy q.part src 128 false = true ∨ s.queueBusy q.part y i true = true
      s.queueGone q.part y i = false → s.sealedBy q.part line = none → s.sealedBy q.part time = none →
      (full → exec (.enqAppend core id) s = .next (s.schedule 1 (.enqAppend core id))) ∧
      (¬ full → ∃ u, exec (.enqAppend core id) s = .next u ∧ cmdGone u core id ∧
        (u.part q.part).port p = { y with times := y.times ++ [t] } ∧
        u.rdMem (keyOf q.part line) 128 = s.bulkRead q.part src 128 ∧
        u.rdMem (keyOf q.part time) 16 = leBytes 16 t.toNat)

/-- R248, R252 to R254: a round of Chorus. Every cluster closes its batch, the batches are added to the counts once the
increments sent before them have arrived, each
port's frontier is computed from the pairs that count more than 0, and every cluster applies the announcement; a
negative sum freezes the frontiers instead. A frontier is the least time that holds its port. What is announced is
the frontier computed, or the port's previous announcement where that is greater; a port that has none and that
nothing holds gets none. Where nothing has changed no round starts.
The model's choices in it: log 2, 14, 42 and 61. -/
def Obligations.ChorusAnnouncesTheLeastHeldTimes : Prop :=
  ∀ (s : State) (p : Nat),
    let P := s.part p
    let cls := s.clustersOf p
    let comes := fun x : Nat => decide (x ∈ s.incsSent p)
    (P.live = true → P.changed = true → P.closed = none → P.pendingAnn = false → P.underflow = none →
      ∃ t w, exec (.chorusRoundStart p) s = .next t ∧ (w, .roundCompute p) ∈ t.agenda ∧
        t.part p = { P with
          closed := some (cls.flatMap fun k => (s.cluster k).batch), ahead := s.incsSent p, changed := false } ∧
        (∀ k, t.cluster k = if k ∈ cls then { s.cluster k with batch := [] } else s.cluster k) ∧
        t.ctxs = s.ctxs ∧ t.mem = s.mem) ∧
    ((P.live = false ∨ P.changed = false ∨ P.closed ≠ none ∨ P.pendingAnn = true ∨ P.underflow ≠ none) →
      ChangesNothing s (.chorusRoundStart p)) ∧
    (P.closed ≠ none → P.ahead.any comes = true → ∃ t, exec (.roundCompute p) s = .next t ∧
      (s.cycle + 1, .roundCompute p) ∈ t.agenda ∧
      s.onlyPart { t with agenda := s.agenda } p { P with ahead := P.ahead.filter comes }) ∧
    (∀ batch, P.closed = some batch → P.ahead.any comes = false →
      let sums := batch.foldl addCount P.counts
      (∀ e, sums.find? (fun e => decide (e.n < 0)) = some e → ∃ t, exec (.roundCompute p) s = .next t ∧
        s.onlyPart t p { P with counts := sums, closed := none, underflow := some (e.port, e.t) }) ∧
      ((∀ e ∈ sums, 0 ≤ e.n) → ∃ t w, exec (.roundCompute p) s = .next t ∧ (w, .announcementApply p) ∈ t.agenda ∧
        (∀ n : BitVec 6, Store.get none (t.part p).ann n.toNat =
          match Store.get none P.ann n.toNat, P.frontier sums n with
          | none, .inf => none
          | none, .fin u => some (.fin u)
          | some (.fin g), .fin u => some (.fin (if g.toNat < u.toNat then u else g))
          | some _, _ => some .inf) ∧
        s.onlyPart { t with agenda := s.agenda, delays := s.delays } p { P with
          counts := sums, closed := none, ann := (t.part p).ann, pendingAnn := true, round := P.round + 1 })) ∧
    (P.pendingAnn = true → ∃ t, exec (.announcementApply p) s = .next t ∧
      (∀ k, t.cluster k = if k ∈ s.clustersIn p then { s.cluster k with ann := P.ann } else s.cluster k) ∧
      t.part p = { P with pendingAnn := false, applied := P.ann, appliedAt := s.cycle } ∧
      (P.changed = true → ∃ w, w ≤ s.cycle + 256 ∧ (w, .chorusRoundStart p) ∈ t.agenda)) ∧
    ∀ (sums : List Delta) (n : BitVec 6),
      let holds := fun (t : LTime) => ∃ e ∈ sums, 0 < e.n ∧ t ∈ P.holdsAt n e
      (P.frontier sums n = .inf ↔ ∀ t, ¬ holds t) ∧
      ∀ t, P.frontier sums n = .fin t → holds t ∧ ∀ u, holds u → t.toNat ≤ u.toNat

/-- R222, R225, R230, R231, R233, R245: USEOPEN, USEQ and USECLOSE. The first two put their question and stall until
it is answered; an open that passes every check reserves its binding, one that fails takes the trap of the check,
whose operand is the handle, as the worked record of R245 has it. A close gives a reservation back.
The model's choices in it: log 1 and, for that operand, 31. -/
def Obligations.UseBindingsOpenAndClose : Prop :=
  ∀ (s : State) (ub : BitVec 3) (a d : BitVec 6),
    let h := s.opS a
    let hd : BitVec 12 := h.setWidth 12
    let b := s.me.binding ub.toNat
    let faultT := fun (y : Ctx) (c : Cause) (op det : Option DWord) (f : Word) =>
      { y with iss := { y.iss with faults := y.iss.faults ++ [⟨s.slot.index, c, op, det, f⟩] } }
    let asks := fun (i : Instr) (kind : Nat) (x : BitVec 12) (f : Ask → Ctx → Prop) =>
      (s.askOf s.slot kind = none → Makes s i { s.me with iss := { s.me.iss with
        stall := true, later := s.me.iss.later ++ [.askTerms s.slot ub kind x] } }) ∧
      ∀ q, s.askOf s.slot kind = some q → (q.answered = false → Stalls s i) ∧
        (q.answered = true → ∃ y, Makes s i y ∧ f q y)
    (4096 ≤ h.toNat → Faults s (.useopen ub a) .illegalOperand (some h) none) ∧
    (h.toNat < 4096 → (s.me.ubN ≤ ub.toNat ∨ b.st ≠ .free) →
      Faults s (.useopen ub a) .illegalOperand (some (ub.setWidth 64)) none) ∧
    (h.toNat < 4096 → ub.toNat < s.me.ubN → b.st = .free → asks (.useopen ub a) 0 hd fun q y =>
      (q.check = 0 → y = { answered s with
        ub := Store.set Binding.none s.me.ub ub.toNat ⟨.reserved, hd, q.serial, 0⟩ }) ∧
      (q.check ≠ 0 → y = faultT (answered s)
        (if q.check ≤ 4 then .termsDenied else if q.check = 5 then .termsExpired else .termsExhausted)
        (some h) (some (BitVec.ofNat 64 (q.check + if q.unsync then 8 else 0)))
        (BitVec.ofNat 32 (h.toNat + 4096 * ub.toNat + 32768)))) ∧
    (s.me.ubN ≤ ub.toNat → Faults s (.useq d ub) .illegalOperand none none ∧
      Faults s (.useclose ub) .illegalOperand none none) ∧
    (ub.toNat < s.me.ubN →
      (asks (.useq d ub) 1 b.handle fun q y => y = { answered s with
        s := if d = 0 then s.me.s else Store.set 0 s.me.s d.toNat q.value }) ∧
      (s.beatsOn ub = true → Stalls s (.useclose ub)) ∧
      (s.beatsOn ub = false → b.st = .free → Makes s (.useclose ub) (faultT s.me .useState none none
        (BitVec.ofNat 32 (b.handle.toNat + 4096 * ub.toNat + 32768)))) ∧
      (s.beatsOn ub = false → b.st ≠ .free → ∃ t, exec (.useclose ub) s = .next t ∧
        t.me = { s.me with ub := Store.set Binding.none s.me.ub ub.toNat .none } ∧ t.mem = s.mem ∧
        (∀ c, c ≠ s.cur → t.ctx c = s.ctx c) ∧
        ∀ r x, s.terms.resv.find? (fun r => decide (r.serial = b.serial ∧ r.holder = s.me.identity)) = some r →
          s.handle r.handle = some x → t.terms.resv = s.terms.resv.filter (fun q => decide (q ≠ r)) ∧
          t.handle r.handle = some (if r.committed then x else { x with reserved := x.reserved - 1 })))

/-- R204, R225, R231 to R233, R235: the terms unit's answers. An open that passes reserves one use under a new
serial, while the persisted count covers it; the first beat on a reserved binding commits the use and meters its
charge, unless the terms have expired; a beat after the span fails. A persisted count that has been written answers
the opens that waited for it.
The model's choices in it: log 14 and 72. -/
def Obligations.TheTermsUnitReservesCommitsAndRefuses : Prop :=
  ∀ (s : State) (c : Nat) (sl : Slot) (a : Ask) (x : Handle) (h : Nat),
    let i := Instr.termsUnitAnswer c sl
    let told := fun (t : State) (f : Ask → Ask) =>
      (t.ctx c).asks = (s.ctx c).asks.map fun q => if q.slot = sl then f q else q
    let b := (s.ctx c).binding a.ub.toNat
    let put := (s.ctx c).asks.find? (fun a => decide (a.slot = sl) && !a.answered) = some a
    (put → a.kind = 0 → a.handle.toNat = h → s.handle h = none → ∃ t, exec i s = .next t ∧
      told t (fun q => { q with answered := true, check := 1, unsync := false }) ∧
      t.terms = { s.terms with alive := true }) ∧
    (put → s.handle h = some x → a.kind = 0 → a.handle.toNat = h →
      (∀ k u, s.openCheck c h = (k, u) → k ≠ 0 → ∃ t, exec i s = .next t ∧
        told t (fun q => { q with answered := true, check := k, unsync := u }) ∧
        t.terms = { s.terms with alive := true }) ∧
      ((s.openCheck c h).1 = 0 → x.used + x.reserved + 1 ≤ x.n → s.terms.resv.length < 2 ^ 31 →
        ∃ t n, exec i s = .next t ∧ n ≠ 0 ∧ (∀ r ∈ s.terms.resv, r.serial ≠ n) ∧
          told t (fun q => { q with answered := true, check := 0, serial := n }) ∧
          t.handle h = some { x with reserved := x.reserved + 1 } ∧
          t.terms.resv = s.terms.resv ++ [⟨n, h, (s.ctx c).part, false, 0, (s.ctx c).identity⟩]) ∧
      ((s.openCheck c h).1 = 0 → x.n < x.used + x.reserved + 1 → ∃ t, exec i s = .next t ∧
        (t.ctx c).asks = (s.ctx c).asks ∧ t.handle h = some x ∧ ∃ w ∈ t.terms.nv, w.handle = h)) ∧
    (put → a.kind = 1 → ∃ t, exec i s = .next t ∧ told t (fun q => { q with
      answered := true
      check := 0
      value := if b.st = .free then 0 else BitVec.ofNat 64 ((if b.st = .reserved then 1 else 3) +
        256 * b.handle.toNat + 2 ^ 32 * match s.handle b.handle.toNat with
          | some x => x.body.maxUses - x.used - x.reserved
          | none => 0) })) ∧
    (put → a.kind = 2 → b.handle.toNat = h → s.handle h = some x →
      let endless := x.body.expiry = 2 ^ 64 - 1
      let now := s.tclock
      (b.st = .free → ∃ t, exec i s = .next t ∧ told t (fun q => { q with answered := true, check := 1 })) ∧
      (b.st = .reserved → (endless ∨ now < x.body.expiry) → ∃ t, exec i s = .next t ∧
        told t (fun q => { q with answered := true, check := 0 }) ∧
        t.handle h = some { x with
          reserved := x.reserved - 1
          used := x.used + 1
          meter := (x.meter + x.body.charge) % 2 ^ 64 } ∧
        (t.ctx c).binding a.ub.toNat = { b with st := .committed, ctime := BitVec.ofNat 64 now } ∧
        ∀ r ∈ t.terms.resv, r.serial = b.serial → r.committed = true ∧ r.ctime = now) ∧
      (b.st = .reserved → ¬ endless → x.body.expiry ≤ now → ∃ t, exec i s = .next t ∧
        told t (fun q => { q with answered := true, check := 2 }) ∧
        (t.ctx c).binding a.ub.toNat = .none) ∧
      (b.st = .committed → ∃ t, exec i s = .next t ∧ t.handle h = some x ∧
        told t (fun q => { q with
          answered := true
          check := if x.body.span ≠ 0 ∧ b.ctime.toNat + x.body.span ≤ now then 3 else 0 }))) ∧
    ∀ w, s.terms.nv.find? (fun w => decide (w.handle = h)) = some w → s.handle h = some x →
      ∃ t, exec (.nvStoreWriteComplete h) s = .next t ∧ t.handle h = some { x with n := w.n } ∧
        (∀ v ∈ t.terms.nv, v.handle ≠ h) ∧ t.ctxs = s.ctxs ∧
        ∀ e ∈ s.ctxs, ∀ q ∈ e.2.asks, q.answered = false → q.kind = 0 → q.handle.toNat = h →
          (s.cycle, .termsUnitAnswer e.1 q.slot) ∈ t.agenda

/-! ### Traps, Gecko and the ends of contexts -/

/-- R89 to R92, R168, R210 to R212: TAKING A TRAP AND RETURNING FROM IT. The lowest faulting slot's fault freezes
the context where it stands, its results finish into their latches, and a record goes to the cluster's Gecko, which
it enters, in the order of cycles and then of contexts, while its ring has room. CTXCMD RESUME lets a context frozen
on a recoverable fault replay what its bundle has not performed; after a FILL_FAULT its failed commands restart and
its FAULTED backed tiles are EMPTY. A command to the Gecko of a cluster in transit is refused and logged (R268).
The model's choices in it: log 31, 46, 74, 83 and 87. -/
def Obligations.TrapsFreezeReportAndResume : Prop :=
  (∀ (s : State) (c : Nat) (f : SlotFault),
    let x := s.ctx c
    let t := s.takeTrap c
    (lowestFault x.iss.faults = none ↔ x.iss.faults = []) ∧
    (lowestFault x.iss.faults = some f → f ∈ x.iss.faults ∧ (∀ g ∈ x.iss.faults, f.slot ≤ g.slot) ∧
      ∃ r w earlier later,
        t.ctx c = { x with
          frozen := true
          trap := some r
          sf := x.sf.map fun q => { q with latched := true } } ∧
        (s.cluster (c / 32)).trWait = earlier ++ later ∧
        (t.cluster (c / 32)).trWait = earlier ++ (s.cycle, r) :: later ∧
        (∀ q ∈ earlier, q.1 = s.cycle → q.2.ctx.toNat ≤ r.ctx.toNat) ∧
        (∀ q ∈ later.head?, q.1 = s.cycle ∧ r.ctx.toNat < q.2.ctx.toNat) ∧
        s.cycle < w ∧ (w, .trapRecordAppend (c / 32)) ∈ t.agenda ∧ (∀ d, d ≠ c → t.ctx d = s.ctx d) ∧
        r.addr = x.iss.addr ∧ r.cause = f.cause ∧ r.slot.toNat = f.slot % 256 ∧
        r.performed = x.iss.performed ∧ r.ctx.toNat = c % 32 ∧ r.time = x.iss.time ∧ r.terms = f.terms ∧
        r.flags = (if f.cause ∈ [.lateMiss, .fillFault, .softwareTrap, .hostGone, .linkFailed] then 1 else 0) ∧
        (∀ v, f.operand = some v → r.operand = v) ∧ ∀ v, f.detail = some v → r.detail = v)) ∧
  (∀ (s : State) (c : Nat) (r : TrapRec),
    let x := s.ctx c
    let goes : Ctx := { x with
      frozen := false, groupLen := 0, groupR := [], groupW := []
      iss := { x.iss with faults := [], replay := true } }
    let k := s.cluster (c / 32)
    (k.cond = .transit → exec (.ctxResume c) s = .next (s.logDevRefused (c / 32 * 2 ^ 16) 0)) ∧
    (k.cond ≠ .transit → k.busy = true → ChangesNothing s (.ctxResume c)) ∧
    (k.cond ≠ .transit → k.busy = false → x.trap = some r → x.frozen = true →
      (r.cause ∈ [.lateMiss, .softwareTrap, .linkFailed] → ∃ t, exec (.ctxResume c) s = .next t ∧
        t.ctx c = goes ∧ ∀ d, d ≠ c → t.ctx d = s.ctx d) ∧
      (r.cause ∈ [.fillFault, .hostGone] → ∃ t, exec (.ctxResume c) s = .next t ∧ sameBut goes (t.ctx c) ∧
        (∀ k, ∀ q ∈ (t.core k).journal, q.ctx = c → q.failed = none) ∧
        ∀ h tl, s.tile c h = some tl → tl.st = .faulted → tl.scr = false →
          ∃ y, t.tile c h = some y ∧ y.st = .empty) ∧
      (r.cause ∉ [.lateMiss, .softwareTrap, .linkFailed, .fillFault, .hostGone] →
        ∃ t, exec (.ctxResume c) s = .next t ∧ t.ctxs = s.ctxs))) ∧
  ∀ (s : State) (cl : Nat) (v : Word),
    let k := s.cluster cl
    let room := (k.trhead - k.trtail).toNat < 256
    (∀ n r rest, k.trWait = (n, r) :: rest → (room → ∃ t, exec (.trapRecordAppend cl) s = .next t ∧
        t.rdMem (keyOf (32 + cl) (k.trbase.toNat + 64 * (k.trhead.toNat % 256))) 64 = r.bytes ∧
        r.bytes.length = 64 ∧ t.cluster cl = { k with trhead := k.trhead + 1, trWait := rest }) ∧
      (¬ room → ChangesNothing s (.trapRecordAppend cl))) ∧
    (k.cond = .transit → exec (.trtailWrite cl v) s = .next (s.logDevRefused (cl * 2 ^ 16) 0)) ∧
    (k.cond ≠ .transit → ∃ t, exec (.trtailWrite cl v) s = .next t ∧ t.cluster cl = { k with trtail := v } ∧
      t.ctxs = s.ctxs ∧ t.mem = s.mem ∧ (k.trWait ≠ [] → (s.cycle, .trapRecordAppend cl) ∈ t.agenda))

/-- R83, R85, R109, R212, R217, R220, R234: EXIT waits for the matrix engine, tracked commands, accesses and tiles, and
reports a failed command; then, as a kill does at once, it ends its context: it runs no more, gives up its tiles, and
once nothing keeps it its status word is written and its slot is free. A kill's status is 2 and the cause of the last
trap. A context that is to stop is saved once it stands at a safe point with nothing outstanding; a restore puts it
back, from what its area holds. A command to the Gecko of a cluster in transit is refused and logged (R268).
The model's choices in it: log 27, 34, 45, 47, 74, 83, 86, 87, 88 and 102. -/
def Obligations.ContextsExitStopAndReturn : Prop :=
  (∀ s : State,
    let waits := s.cycle < s.me.mxUntil ∨ s.tokensRun s.cur = true ∨ ¬ allPast s 2
    (waits → Blocks s .exit) ∧
    (¬ waits → s.tokensFailed s.cur ≠ [] → ∃ q ∈ s.tokensFailed s.cur, ∃ f a, q.failed = some (f, a) ∧
      Faults s .exit f.cause (some a) (some (BitVec.ofNat 64 (q.entry % 64 + 64)))) ∧
    (¬ waits → s.tokensFailed s.cur = [] → s.tilesRun s.cur = true → Blocks s .exit) ∧
    (¬ waits → s.tokensFailed s.cur = [] → s.tilesRun s.cur = false →
      ∃ t, exec .exit s = .next t ∧ Ended s t s.cur 0)) ∧
  ∀ (s : State) (c : Nat),
    let x := s.ctx c
    let k := s.cluster (c / 32)
    let e := x.safe.getD ⟨0, 0, 0, 0⟩
    (k.cond = .transit → ∀ i ∈ [Instr.ctxKill c, .ctxSave c, .ctxRestore c],
      exec i s = .next (s.logDevRefused (c / 32 * 2 ^ 16) 0)) ∧
    (k.cond ≠ .transit → k.busy = true → ChangesNothing s (.ctxKill c) ∧ ChangesNothing s (.ctxSave c) ∧
      (k.ctxcmd ≠ BitVec.ofNat 32 (4 * 2 ^ 24 + c % 32 * 2 ^ 16 + 1) → ChangesNothing s (.ctxRestore c))) ∧
    (∀ n st, x.ending = some (n, st) → x.tiles = [] →
      (s.endWaits c n → s.endStep c = s) ∧ (¬ s.endWaits c n → SlotFreed s (s.endStep c) c st)) ∧
    (∀ h tl, x.ending ≠ none → s.tile c h = some tl → tl.st ≠ .dirty → .mx ∉ tl.busy → .mxst ∉ tl.busy →
      (s.endStep c).tile c h = none) ∧
    (k.cond ≠ .transit → k.busy = false → x.occupied = true → x.ending = none →
      (∃ t, exec (.ctxKill c) s = .next t ∧ Ended s t c (2 + 256 * match x.trap with
        | some r => r.cause.code
        | none => 0)) ∧
      (x.frozen = true → ∃ t, exec (.ctxSave c) s = .next t ∧ t.ctxs = s.ctxs ∧ (t.cluster (c / 32)).busy = false) ∧
      (x.frozen = false → ∃ t y, exec (.ctxSave c) s = .next t ∧ t.ctx c = { x with stopReq := some y } ∧
        (t.cluster (c / 32)).busy = true ∧
        (x.stopReq = none → y = ⟨[.gecko], some k.ctxsave, s.cycle, false⟩ ∧
          ∃ w, s.cycle ≤ w ∧ (w, .contextStop c) ∈ t.agenda) ∧
        ∀ q, x.stopReq = some q → y.kind = q.kind ∧ (∀ a, q.area = some a → y.area = some a) ∧
          (q.area = none → y.area = some k.ctxsave))) ∧
    (∀ r, x.stopReq = some r →
      ((x.mayStop = false ∨ s.stopWaits c = true) →
        exec (.contextStop c) s = .next (s.after 1 (.contextStop c))) ∧
      (x.mayStop = true → s.stopWaits c = false → ∃ t v, exec (.contextStop c) s = .next t ∧
        t.ctx c = Ctx.free ∧ (t.part x.part).saved = (s.part x.part).saved ++ [v] ∧ v.from_ = c ∧
        v.why = r.kind ∧ (∀ a, r.area = some a → v.area = a) ∧
        v.ctx.identity = x.identity ∧ v.ctx.pc = x.pc ∧ v.ctx.lc0 = x.lc0 ∧ v.ctx.loops = x.loops ∧
        v.ctx.fmt = x.fmt ∧ v.ctx.caps = x.caps ∧ v.ctx.ub = x.ub ∧
        (∀ n, v.ctx.rdS n = if e.smask.getLsbD n.toNat then x.rdS n else 0) ∧
        ∀ n, v.ctx.rdV n = if e.vmask.getLsbD n.toNat then x.rdV n else 0)) ∧
    (∀ p v, k.busy = false → k.cond = .held p →
      (s.part p).saved.find? (fun v => decide (v.area = k.ctxsave ∧ v.why ≠ .move)) = some v →
      ((s.part p).moves v.ctx = true ∨ s.areaBusy p k.ctxsave 0 v.ctx.areaSize false = true) →
      ∃ t, exec (.ctxRestore c) s = .next t ∧ t.ctxs = s.ctxs ∧ (t.cluster (c / 32)).busy = true ∧
        (s.cycle + 1, .ctxRestore c) ∈ t.agenda) ∧
    ∀ p v b, k.busy = false → k.cond = .held p →
      (s.part p).saved.find? (fun v => decide (v.area = k.ctxsave ∧ v.why ≠ .move)) = some v →
      (s.part p).resize = none → s.areaBusy p k.ctxsave 0 v.ctx.areaSize false = false →
        s.roomAt c v.ctx.accN v.ctx.unitX.2 v.ctx.unitY.2 = some b →
      ∃ t, exec (.ctxRestore c) s = .next t ∧
        let area := fun o n => leNat (s.areaRead p k.ctxsave o n)
        let masks : SafeEntry := ⟨BitVec.ofNat 64 (area 0x0060 8), BitVec.ofNat 64 (area 0x0068 8),
          BitVec.ofNat 16 (area 0x0070 2), BitVec.ofNat 8 (area 0x0072 1)⟩
        let l := ({ v.ctx with safe := some masks } : Ctx).liveLists
        (t.ctx c).identity = v.ctx.identity ∧ (t.ctx c).caps = v.ctx.caps ∧
        (t.ctx c).unitX = (b.1, v.ctx.unitX.2) ∧ (t.ctx c).unitY = (b.2, v.ctx.unitY.2) ∧
        (t.ctx c).pc = BitVec.ofNat 64 (area 0x0000 8) ∧ (t.ctx c).frozen = decide (area 0x001a 1 / 2 % 2 = 1) ∧
        (t.ctx c).fmt = BitVec.ofNat 32 (area 0x0058 4) &&& 0x000fff7f ∧
        (∀ i n, l.1[i]? = some n → Store.get 0 (t.ctx c).s n = BitVec.ofNat 64 (area (0xac00 + 8 * i) 8)) ∧
        (∀ i n, l.2.1[i]? = some n →
          Store.get 0 (t.ctx c).v n = BitVec.ofNat 4096 (area (0xac00 + 8 * l.1.length + 512 * i) 512)) ∧
        ∀ w ∈ (t.part p).saved, w.ctx.identity ≠ v.ctx.identity

/-- R5, R81, R82, R210, R289: the selector takes a ready context of the highest priority, the next one round after
the one selected last, and a whole time slice makes it look again. Device registers take the bits that can be
written, those of the Gecko of a cluster in transit none; the doorbell starts the command that MBCMD and MBARG name.
The model's choices in it: log 15, 48 and 83. -/
def Obligations.TheSelectorGoesByPriorityAndTurn : Prop :=
  (∀ (s : State) (k : Nat),
    let r := s.core k
    let ready := s.readyOn k
    let pri := fun c => (s.ctx c).pri.toNat
    let takes := fun (c : Nat) => c ∈ ready ∧ ∀ d ∈ ready, pri c ≤ pri d
    (∀ c, c ∈ ready ↔ c / 4 = k ∧ (s.ctx c).ready = true) ∧
    (r.running ≠ none → ChangesNothing s (.selectorSwitch k)) ∧
    (ready = [] → ChangesNothing s (.selectorSwitch k)) ∧
    (r.running = none → ready ≠ [] → ∃ t c, exec (.selectorSwitch k) s = .next t ∧ takes c ∧
      (let turn := fun d => (d + 3 * (r.lastAt (pri c) + 1)) % 4
       ∀ d ∈ ready, pri d = pri c → turn c ≤ turn d) ∧
      s.onlyCore t k { r with
        running := some c
        last := Store.set 3 r.last (pri c) (c % 4)
        waitTo := s.cycle + 2
        selAt := s.cycle + 2 }) ∧
    ∀ c, r.running = some c →
      let sliceOut := (s.ctx c).afterSafe = true ∧ r.selAt + 8192 ≤ s.cycle ∧ ∃ d ∈ ready, d ≠ c ∧ pri d ≤ pri c
      (¬ sliceOut → ChangesNothing s (.timeSliceExpiry k)) ∧
      (sliceOut → ∃ t e, exec (.timeSliceExpiry k) s = .next t ∧ (t.core k).running = some e ∧ takes e ∧ e ≠ c ∧
        (t.core k).waitTo = s.cycle + 2 ∧ t.ctxs = s.ctxs)) ∧
  ∀ (s : State) (cl fn : Nat) (v : DWord),
    let k := s.cluster cl
    let m := s.mail fn
    let sets := fun (r : DevReg) (y : Cluster) => ∃ t, exec (.registerWrite r v) s = .next t ∧
      t.cluster cl = y ∧ { t with clusters := s.clusters } = s
    let mails := fun (r : DevReg) (y : Mailbox) => ∃ t, exec (.registerWrite r v) s = .next t ∧ t.mail fn = y ∧
      { t with host := { t.host with mail := s.host.mail } } = s
    (k.cond = .transit → ∀ r ∈ [GeckoReg.trbase, .trhead, .trtail, .ctxsave, .ctxcmd],
      exec (.registerWrite (.gecko cl r) v) s = .next (s.logDevRefused (cl * 2 ^ 16) 0)) ∧
    (k.cond ≠ .transit →
      sets (.gecko cl .trbase) { k with trbase := v &&& 0xffffffffffffc000 } ∧
      sets (.gecko cl .ctxsave) { k with ctxsave := v &&& 0xfffffffffffff000 } ∧
      ChangesNothing s (.registerWrite (.gecko cl .trhead) v) ∧
      (k.busy = true → ChangesNothing s (.registerWrite (.gecko cl .ctxcmd) v)) ∧
      (k.busy = false → v.toNat / 2 ^ 24 % 16 = 2 → exec (.registerWrite (.gecko cl .ctxcmd) v) s =
        .next (s.schedule 0 (.ctxKill (cl * 32 + v.toNat / 2 ^ 16 % 32))))) ∧
    mails (.mail fn .mbcmd) { m with cmd := v.setWidth 32 &&& 0xff } ∧
    mails (.mail fn .mbarg) { m with arg := v } ∧
    mails (.mail fn .mbpart) { m with part := v.setWidth 32 &&& 0xf } ∧
    ChangesNothing s (.registerWrite (.mail fn .mbstat) v) ∧
    ((v.getLsbD 0 = false ∨ m.door = true) → ChangesNothing s (.registerWrite (.mail fn .mbdoor) v)) ∧
    (v.getLsbD 0 = true → m.door = false → ∃ t w, exec (.registerWrite (.mail fn .mbdoor) v) s = .next t ∧
      t.mail fn = { m with door := true } ∧ s.cycle ≤ w ∧ (w, s.mailCommand fn) ∈ t.agenda)

/-! ### The dispatcher -/

/-- R216 to R219, R249, R295: launch records enter the waiting lists or are dropped; the head of the lists, the lowest
level and then the oldest, is placed when its core has room, and otherwise stops contexts of lower priority, one
more for each that has not stopped within 1 ms; entries age, and a context starts as its kernel entry and its record
say.
The model's choices in it: log 29, 52, 53, 54, 55, 57 and 109. -/
def Obligations.LaunchesAreQueuedPlacedAndAged : Prop :=
  ∀ (s : State) (p : Nat),
    let P := s.part p
    let asked := fun (t : State) (e : WaitEntry) (c : Nat) => ∃ y, t.ctx c = { s.ctx c with stopReq := some y } ∧
      y.kind = .preempt ∧ (s.ctx c).occupied = true ∧ (s.ctx c).part = p ∧ e.pri < (s.ctx c).pri.toNat ∧
      (∀ q, (s.ctx c).stopReq = some q → y.area = q.area) ∧
      ((s.ctx c).stopReq = none → y = ⟨[.preempt], none, s.cycle, false⟩ ∧
        ∃ w, s.cycle ≤ w ∧ (w, .contextStop c) ∈ t.agenda)
    let counted := fun (t : State) (c : Nat) => ∃ q, (s.ctx c).stopReq = some q ∧ .preempt ∈ q.kinds ∧
      q.since + 1250000 ≤ s.cycle ∧ q.further = false ∧
      t.ctx c = { s.ctx c with stopReq := some { q with further := true } }
    (∀ (system : Bool) (rec : BitVec 1024),
      let i := Instr.launchRecordArrival p system rec
      let l := leBytes 128 rec.toNat
      let f := launchOf l
      let r : Launch := { f with pri := if system = false ∧ f.pri = 0 then 1 else f.pri }
      (P.live = false → ChangesNothing s i) ∧
      (P.live = true → system = false → s.hostGone p = true → exec i s = .next (s.schedule 1 i)) ∧
      (P.live = true → (system = true ∨ s.hostGone p = false) →
        ((r.status.toNat % 8 ≠ 0 ∨ P.launchOk l r = false) → ∃ t, exec i s = .next t ∧
          (t.part p).waiting = P.waiting ∧ (t.part p).gangs = P.gangs) ∧
        (r.status.toNat % 8 = 0 → P.launchOk l r = true → r.members = 1 →
          (∀ g ∈ P.gangs, ∀ q ∈ g, q.gang ≠ r.gang) → ∀ g k, P.kernelOf r = some (g, k) →
          (8 < k.accs → ∃ t, exec i s = .next t ∧ (t.part p).waiting = P.waiting ∧ (t.part p).gangs = P.gangs) ∧
          (k.accs ≤ 8 → ∃ t e w, exec i s = .next t ∧
            t.part p = { P with waiting := P.waiting ++ [e] } ∧ e.launches = [r] ∧ e.resume = none ∧
            e.level = (if system then 0 else r.pri) ∧ e.since = s.cycle ∧ (w, .gangPlacement p) ∈ t.agenda)))) ∧
    (∀ h rest, inOrder P.waiting = h :: rest → h ∈ P.waiting ∧
      ∀ e ∈ P.waiting, h.level < e.level ∨ h.level = e.level ∧ h.since ≤ e.since) ∧
    (P.waiting = [] → ChangesNothing s (.gangPlacement p)) ∧
    (∀ e r g k, P.waiting = [e] → P.resize = none → e.resume = none → e.launches = [r] →
      P.kernelOf r = some (g, k) →
      (∀ c b, s.findRoom (s.slotsFor p r.vcluster r.vcore r.slot) k.accs k.unitsX k.unitsY = some (c, b) →
        ∃ t x, exec (.gangPlacement p) s = .next t ∧ (t.part p).waiting = [] ∧ t.ctx c = x ∧
          x.occupied = true ∧ x.part = p ∧ x.image = r.image ∧ x.pc = BitVec.ofNat 64 k.entry ∧
          x.lc0 = r.epoch ∧ x.loops = [] ∧ x.fmt = 5 ∧ x.pri = BitVec.ofNat 4 e.level ∧
          x.accN = k.accs ∧ x.ubN = k.ubs ∧ x.unitX = (b.1, k.unitsX) ∧ x.unitY = (b.2, k.unitsY) ∧
          (∀ n, x.rdS n = if n = 1 then r.args else 0) ∧ (∀ n, x.rdV n = 0) ∧ x.dispatched = s.cycle ∧
          ∀ d, d ≠ c → t.ctx d = s.ctx d) ∧
      (s.findRoom (s.slotsFor p r.vcluster r.vcore r.slot) k.accs k.unitsX k.unitsY = none →
        ∃ t y, exec (.gangPlacement p) s = .next t ∧ (t.part p).waiting = [y] ∧ y.launches = [r] ∧
          y.headAt = some (e.headAt.getD s.cycle) ∧ ∀ c, t.ctx c = s.ctx c ∨ asked t e c ∨ counted t c)) ∧
    (let due := fun (e : WaitEntry) => decide (2 ≤ e.level ∧ e.moved + 12500000 ≤ s.cycle)
     (P.waiting.any due = false → ChangesNothing s (.dispatchAging p)) ∧
     (P.waiting.any due = true → ∃ t, exec (.dispatchAging p) s = .next t ∧
       (s.cycle, .gangPlacement p) ∈ t.agenda ∧ s.onlyPart { t with agenda := s.agenda } p { P with
         waiting := P.waiting.map fun e =>
           if due e then { e with
             level := e.level - 1
             moved := e.moved + 12500000
             headAt := e.headAt.map fun _ => s.cycle
             spare := if e.headAt.any fun w => decide (s.cycle < w + 1250000) then e.spare else s.freeFor p e }
           else e })) ∧
    (let lapsed := ∃ h ∈ P.waiting, ∃ w, h.headAt = some w ∧ w + 1250000 ≤ s.cycle
     (lapsed → exec (.reservationLapse p) s = .next (s.schedule 0 (.gangPlacement p))) ∧
     (¬ lapsed → ChangesNothing s (.reservationLapse p))) ∧
    (∀ c,
      let overdue := ∃ q, (s.ctx c).stopReq = some q ∧ .preempt ∈ q.kinds ∧ q.since + 1250000 ≤ s.cycle ∧
        q.further = false
      ((¬ overdue ∨ P.waiting = []) → ChangesNothing s (.victimSaveTimeout p c)) ∧
      ∀ h rest v m, overdue → inOrder P.waiting = h :: rest → c ∈ s.leaving p h →
        (∀ d ∈ s.leaving p h, s.overdue d = true → d = c) → s.candidates p h = v :: m →
        ∃ t, exec (.victimSaveTimeout p c) s = .next t ∧ asked t h v ∧ counted t c ∧
          ∀ d, d ≠ v → d ≠ c → t.ctx d = s.ctx d) ∧
    (P.leaseEnd ≤ s.cycle → ∃ t, exec (.engineLeaseExpiry p) s = .next t ∧ s.onlyPart t p { P with lease := 0 })

/-! ### The mailbox -/

/-- R224, R226 to R229, R236, R289, R290, R307, R313: a mailbox command that no doorbell has started does nothing;
others answer BUSY until bring-up has ended and BAD_FORMAT to a function that may not send them, and wait while a
busy tile keeps a line of an object that they read; terms are installed, bound, stated and removed when their checks
pass, and the clock goes only forward. A region that is bound leaves no tile with its lines.
The model's choices in it: log 9, 15, 18, 24, 26, 63, 98, 104 and 106. -/
def Obligations.MailboxCommandsCheckAndReply : Prop :=
  ∀ (s : State) (fn p : Nat) (a b c d : DWord) (t0 : LTime),
    let m := s.mail fn
    let install := Instr.installTerms fn a b
    let bind_ := Instr.bindRegion fn a b c
    let remove := Instr.removeTerms fn a b
    let state := Instr.statement fn a b
    let any := [Instr.loadImage fn a, .portSet fn a b c d, .portDeclare fn a t0 b, .queuePush fn a b t0,
      .frontierReset fn]
    let phys := [Instr.timeUpdate fn a, .partCreate fn a, .partResize fn a, .partStatus fn a, .partDestroy fn a,
      .engineLease fn a b]
    let all := any ++ [install, bind_, remove, state] ++ phys ++ [.attach fn 0, .mailboxBadCommand fn]
    let takes := fun (i : Instr) => m.door = true ∧ (m.taken = false ∨ m.waits = some i)
    let busy := fun (i : Instr) => ∃ o ∈ s.objects i, s.spanBusy (keyOf hostSpace o.1) o.2 false = true
    let on := fun (i : Instr) => takes i ∧ s.host.ready = true ∧ ¬ busy i
    let waits := fun (i : Instr) => ∃ t, exec i s = .next t ∧ (s.cycle + 1, i) ∈ t.agenda ∧
      t.mail fn = { m with taken := true, waits := some i } ∧
      { t with agenda := s.agenda, host := { t.host with mail := s.host.mail } } = s
    let replies := fun (i : Instr) (st : Nat) => RepliesOnly s i fn st 0
    let h := a.toNat
    (∀ i ∈ all, (¬ takes i → ChangesNothing s i) ∧ (takes i → s.host.ready = false → replies i 8) ∧
      (takes i → s.host.ready = true → busy i → waits i)) ∧
    (on (.mailboxBadCommand fn) → replies (.mailboxBadCommand fn) 3) ∧
    (s.fnPart fn = none → ∀ i ∈ any, on i → replies i 3) ∧ (fn ≠ 0 → ∀ i ∈ phys, on i → replies i 3) ∧
    (s.handle h = none → ∀ i ∈ [bind_, remove, state], on i → replies i 9) ∧
    (on install →
      let obj := s.hostBytes b.toNat 6144
      let formed := b.toNat % 128 = 0 ∧ termsLayout obj = true
      (4095 < h → replies install 9) ∧ (h ≤ 4095 → ¬ formed → replies install 3) ∧
      (h ≤ 4095 → formed → termsSigned obj = false → replies install 1) ∧
      (h ≤ 4095 → formed → termsSigned obj = true →
        (∀ x, s.handle h = some x → replies install 8) ∧
        (s.handle h = none → ∃ u t x, exec install s = .next t ∧ Replied u t fn 0 0 ∧
          u.handle h = some x ∧ (∀ j, j ≠ h → u.handle j = s.handle j) ∧
          { u with terms := { u.terms with handles := s.terms.handles } } = s ∧ x.region = none ∧
          x.used = 0 ∧ x.reserved = 0 ∧ x.meter = 0 ∧ x.n = 0 ∧
          x.body.maxUses = leNat ((obj.drop 176).take 4) ∧ x.body.tensor = digestAt obj 40))) ∧
    (on bind_ → ∀ x, s.handle h = some x →
      let n := x.body.length
      let k := keyOf p b.toNat
      let whole := b.toNat % 4096 = 0 ∧ b.toNat + n ≤ (s.part p).ownedFrom
      let free := s.regionFree p b.toNat n = true
      let capsule := s.hostBytes c.toNat 1152
      let released := (s.part p).releaseKey
      let plain := fun (key : BitVec 256) => openTensor key (s.rdBytes k n)
      (x.region ≠ none → replies bind_ 8) ∧ (x.region = none → s.fnPart fn = none → replies bind_ 3) ∧
      (x.region = none → s.fnPart fn = some p →
        (¬ whole → replies bind_ 3) ∧ (whole → ¬ free → replies bind_ 8) ∧
        (whole → free → c.toNat % 128 ≠ 0 → replies bind_ 11) ∧
        (whole → free → c.toNat % 128 = 0 →
          ((Config.capsuleKey capsule ≠ released ∨ Config.openCapsule released capsule = none) → replies bind_ 11) ∧
          ∀ key, Config.capsuleKey capsule = released → Config.openCapsule released capsule = some key →
            (s.spanBusy k n true = true → waits bind_) ∧
            (s.spanBusy k n true = false → Config.sha3 (plain key) ≠ x.body.tensor → replies bind_ 10) ∧
            (s.spanBusy k n true = false → Config.sha3 (plain key) = x.body.tensor → ∃ u t, exec bind_ s = .next t ∧
              Replied u t fn 0 0 ∧ u.handle h = some { x with region := some (p, b.toNat), key := key } ∧
              ∀ l, k ≤ 128 * l → 128 * l < k + n → ∀ y ∈ u.sharers l, ∀ tl, u.tile y.1 y.2.1 = some tl →
                tl.st ≠ .full ∧ tl.st ≠ .dirty)))) ∧
    (∀ x, s.handle h = some x →
      let dest := b.toNat % 128 = 0
      let kept := s.spanBusy (keyOf hostSpace b.toNat) 2676 true = true
      let own := fn = 0 ∨ ∀ q n, x.region = some (q, n) → s.fnPart fn = some q
      (on remove →
        (¬ (dest ∧ own) → replies remove 3) ∧
        (dest → own → s.outstandingUse h x = true → replies remove 8) ∧
        (dest → own → s.outstandingUse h x = false → kept → waits remove) ∧
        (dest → own → s.outstandingUse h x = false → ¬ kept → ∃ t, exec remove s = .next t ∧ t.handle h = none ∧
          t.terms.stSerial = s.terms.stSerial + 1 ∧ (∀ w ∈ t.terms.nv, w.handle ≠ h) ∧
          ((∃ w ∈ s.terms.nv, w.handle = h) → ∀ e ∈ s.ctxs, ∀ q ∈ e.2.asks, q.answered = false → q.kind = 0 →
            q.handle.toNat = h → (s.cycle, .termsUnitAnswer e.1 q.slot) ∈ t.agenda))) ∧
      (on state →
        (¬ dest → replies state 3) ∧ (dest → kept → waits state) ∧
        (dest → ¬ kept → s.host.link ≠ .down → ∃ t st, exec state s = .next t ∧
          t.handle h = some { x with p := x.used } ∧ t.terms.stSerial = s.terms.stSerial + 1 ∧
          (st = 0 ∨ st = 3) ∧ (t.mail fn).stat = BitVec.ofNat 64 (st + 256 * (s.terms.stSerial + 1))))) ∧
    (on (.timeUpdate fn a) → fn = 0 →
      let l := s.hostBytes a.toNat 2452
      let v := leNat ((l.drop 8).take 8) % 2 ^ 63
      let signed := leNat (l.take 4) = 0x454d4954 ∧ (∀ x ∈ (l.drop 4).take 4, x = 0) ∧
        Config.mldsaVerify Config.timeKey (l.take 32) ((l.drop 32).take 2420) = true
      (¬ signed → replies (.timeUpdate fn a) 1) ∧ (signed → v < s.tclock → replies (.timeUpdate fn a) 12) ∧
      (signed → s.tclock ≤ v → ∃ t, exec (.timeUpdate fn a) s = .next t ∧ t.tclock = v ∧
        t.terms.synced = true ∧ t.terms.handles = s.terms.handles ∧ t.mem = s.mem))

/-- R215, R246, R259, R262, R293, R295: images are loaded once every check of R215 passes; ports are set, declared,
filled and reset; engines are leased while enough are free; a session attaches with the token it began with, which
thaws its own partition and no other.
The model's choices in it: log 15, 18, 24, 26, 28, 61, 65, 75 and 96. -/
def Obligations.ImagesPortsLeasesAndSessions : Prop :=
  ∀ (s : State) (fn p : Nat) (a b c d : DWord) (t0 : LTime), s.host.ready = true →
    (s.mail fn).door = true → (s.mail fn).taken = false →
    (s.fnPart fn = some p →
      let n := a.toNat
      let port : BitVec 6 := a.setWidth 6
      let x := (s.part p).port port
      (let g := s.rawImage a.toNat
       let signed := Config.signerAdmitted p (digestAt g.hdr 0xa00) = true ∧
         Config.mldsaVerify (Config.signerKey (digestAt g.hdr 0xa00)) (digestBytes (digestAt g.hdr 0x60))
           ((g.hdr.drop 0x80).take 2420) = true
       let i := Instr.loadImage fn a
       (∀ o ∈ s.objects i, s.spanBusy (keyOf hostSpace o.1) o.2 false = false) →
       (s.formatOk g = false → RepliesOnly s i fn 3 0) ∧
       (s.formatOk g = true → ¬ signed → RepliesOnly s i fn 1 0) ∧
       (s.formatOk g = true → signed → (Config.sha3 (s.digested g) ≠ digestAt g.hdr 0x60 ∨ s.textKey p g = none) →
         RepliesOnly s i fn 2 0) ∧
       ∀ key, s.formatOk g = true → signed → Config.sha3 (s.digested g) = digestAt g.hdr 0x60 →
         s.textKey p g = some key →
         let text : Text := ⟨textWords (s.imgBytes g g.textOff g.textLen) g.words, g.words, s.startWords g,
           some key, g.textOff⟩
         let bs := (s.startWords g).map (textBundle text.plain)
         let dataBusy := s.runBusy p (BitVec.ofNat 64 g.dataBase) g.dataLen true
         let safes := s.table g g.safeOff 32 g.safeN
         let ks := (s.table g g.kerOff 64 g.kerN).map kernelOf
         let sums := (s.table g g.sumOff 8 g.sumN).map summaryOf
         let h := (s.part p).nextImage % 65536
         let entries := ks.map fun k => k.entry / 4
         structureOk g.words (s.startWords g) bs = true → tablesOk safes ks sums bs = true →
         s.grantOk p g ks (safes.map safeEntryOf) = true → spacingOk entries bs = true →
         (shadowOk entries bs = false → RepliesOnly s i fn 6 0) ∧
         (shadowOk entries bs = true → dataBusy = true → ∃ t, exec i s = .next t ∧ (s.cycle + 1, i) ∈ t.agenda ∧
           (t.mail fn).waits = some i ∧ t.mem = s.mem ∧ t.parts = s.parts) ∧
         (shadowOk entries bs = true → dataBusy = false → s.host.link ≠ .down → ∃ t img, exec i s = .next t ∧
           Store.get none (t.part p).images h = some img ∧ img.text = text ∧
           img.kernels = ks ∧ img.sums = sums ∧
           (∀ k ∈ s.clustersIn p, Store.get none (t.cluster k).istore h = some img.text) ∧
           (t.mail fn).stat = BitVec.ofNat 64 (256 * h))) ∧
      (n < 64 → b.toNat ≤ 1 → (b = 1 → (s.part p).storageOk c.toNat d.toNat = true) →
        let idle := (∀ e ∈ (s.part p).counts, e.port.toNat = n → e.n ≤ 0) ∧ s.portBound p n = false
        (¬ idle → RepliesOnly s (.portSet fn a b c d) fn 8 0) ∧
        (idle → ∃ u t, exec (.portSet fn a b c d) s = .next t ∧ Replied u t fn 0 0 ∧
          (u.part p).port port = (if b = 1 then ⟨true, c.toNat, d.toNat, 0, []⟩ else Port.progress) ∧
          Store.get none (u.part p).ann n = none ∧
          (∀ k ∈ s.clustersIn p, Store.get none (u.cluster k).ann n = none) ∧ u.mem = s.mem ∧ u.ctxs = s.ctxs ∧
          ∀ q, q ≠ port → (u.part p).port q = (s.part p).port q)) ∧
      (64 ≤ n → RepliesOnly s (.portDeclare fn a t0 b) fn 3 0 ∧
        (s.spanBusy (keyOf hostSpace b.toNat) 128 false = false → RepliesOnly s (.queuePush fn a b t0) fn 3 0)) ∧
      (n < 64 → ∃ u t, exec (.portDeclare fn a t0 b) s = .next t ∧ Replied u t fn 0 0 ∧
        (u.part p).counts = addCount (s.part p).counts ⟨port, t0, b.toNat⟩ ∧ (u.part p).changed = true) ∧
      (n < 64 → x.queue = true → s.spanBusy (keyOf hostSpace b.toNat) 128 false = false →
        (x.cap ≤ x.times.length → RepliesOnly s (.queuePush fn a b t0) fn 8 0) ∧
        (x.times.length < x.cap → s.queueBusy p x x.tail true = false →
          ∃ u t, exec (.queuePush fn a b t0) s = .next t ∧ Replied u t fn 0 0 ∧
          (u.part p).port port = { x with times := x.times ++ [t0] } ∧
          let at_ := x.base + 128 * ((x.head + x.times.length) % x.cap)
          ((∀ l ∈ [at_, x.base + 128 * x.cap + 16 * ((x.head + x.times.length) % x.cap)],
              s.sealedBy p l = none) →
            u.rdMem (keyOf p at_) 128 = s.hostBytes b.toNat 128))) ∧
      ((∀ e ∈ s.ctxs, e.2.occupied = true → e.2.part = p → e.2.caps = [] ∧ e.2.waitsOnFrontier = false) →
        (∀ v ∈ (s.part p).saved, v.ctx.caps = []) → ∃ u t, exec (.frontierReset fn) s = .next t ∧
          Replied u t fn 0 0 ∧ (u.part p).counts = [] ∧ (u.part p).sums = [] ∧ (u.part p).underflow = none ∧
          (∀ q, ((u.part p).port q).times = []) ∧
          (∀ k ∈ s.clustersIn p, (u.cluster k).batch = [] ∧ (u.cluster k).ann = []) ∧
          u.ctxs = s.ctxs ∧ u.mem = s.mem)) ∧
    (fn = 0 → s.fnPart fn = some p → 1 ≤ b.toNat → b.toNat ≤ 60000 →
      (32 < a.toNat + s.leased p → RepliesOnly s (.engineLease fn a b) fn 13 0) ∧
      (a.toNat + s.leased p ≤ 32 → ∃ u t w, exec (.engineLease fn a b) s = .next t ∧ Replied u t fn 0 0 ∧
        w = s.cycle + b.toNat * 1250000 ∧ (w, .engineLeaseExpiry p) ∈ u.agenda ∧
        u.part p = { s.part p with lease := a.toNat, leaseEnd := w })) ∧
    ∀ tok : BitVec 128,
      let held := Store.get none s.host.token fn
      ((held = none ∨ held = some tok) → ∃ u t, exec (.attach fn tok) s = .next t ∧ Replied u t fn 0 0 ∧
        Store.get none u.host.token fn = some tok ∧ u.host.link = s.host.link ∧
        (∀ q, s.fnPart fn = some q → (u.part q).gone = false) ∧
        ∀ q, s.fnPart fn ≠ some q → u.part q = s.part q) ∧
      (∀ o, held = some o → o ≠ tok → RepliesOnly s (.attach fn tok) fn 15 0)

/-! ### Partitions, collectives, the host and the device as a whole -/

/-- R268 to R276, R279, R280, R282, R300, R302, R305, R307: a partition is created on free clusters and slices, with
its memory zero and with keys that none has had; destroyed, its memory is zero again; and resized in the phases of
Moult, each of which waits for its condition and leaves the next to come; meanwhile its mailbox is free for the next
command. A resize that runs into its limit ends with what it began with, its contexts at their old places.
The model's choices in it: log 15, 18, 26, 58, 59, 60, 61, 78, 98, 99 and 107. -/
def Obligations.PartitionsAreGrantedResizedAndDestroyed : Prop :=
  ∀ (s : State) (p : Nat) (block : DWord),
    let P := s.part p
    let g := s.layout block
    let Q := s.part g.part
    let on := fun (i : Instr) => s.host.ready = true ∧ (s.mail 0).door = true ∧ (s.mail 0).taken = false ∧
      ∀ o ∈ s.objects i, s.spanBusy (keyOf hostSpace o.1) o.2 false = false
    let zeroed := fun (t : State) (q n : Nat) => ∀ a, a < n → t.byte (keyOf q a) = 0
    let answers := fun (t : State) (fn st v : Nat) => ¬ (s.host.ready = true ∧ s.host.link = .down) →
      (t.mail fn).stat = BitVec.ofNat 64 (st + 256 * v) ∧ (t.mail fn).msi = (s.mail fn).msi + 1
    let moves := ∀ v ∈ P.saved, v.why ≠ .move
    ((on (.partCreate 0 block) →
       let pol := s.hostBytes g.policy 5120
       let y := policyOf pol
       let i := Instr.partCreate 0 block
       (s.layoutOk block g true g.n = false → RepliesOnly s i 0 3 0) ∧
       (s.layoutOk block g true g.n = true → s.policySigned pol = false → RepliesOnly s i 0 1 0) ∧
       (s.layoutOk block g true g.n = true → s.policySigned pol = true → Q.live = true → RepliesOnly s i 0 8 0) ∧
       (s.layoutOk block g true g.n = true → s.policySigned pol = true → Q.live = false →
         let fits := s.allFree g.clusters g.slices = true ∧ (∀ P ∈ s.liveParts, P.vfs &&& g.vfs = 0) ∧
           memoryFits g.slices g.M = true ∧ y.admits g.clusters g.slices = true ∧ s.roomForPart y = true
         (¬ fits → RepliesOnly s i 0 13 0) ∧
         (fits → ∃ t, exec i s = .next t ∧
           let T := t.part g.part
           T.live = true ∧ T.n = g.n ∧ T.M = g.M ∧ T.vfs = g.vfs ∧ T.clusters = g.clusters ∧ T.slices = g.slices ∧
           T.policy = y ∧ T.ports = [] ∧ T.map = s.readMap g.map ∧
           (∀ k ∈ [T.dataKey, T.releaseKey, T.logKey], s.keys < k ∧ k ≤ t.keys) ∧
           [T.dataKey, T.releaseKey, T.logKey].Nodup ∧
           ((∀ a, a < 2 ^ 64 → s.sharers (keyOf g.part a / 128) = []) → zeroed t g.part T.ownedFrom) ∧
           (∀ k, k < 64 → g.clusters.getLsbD k = true → (t.cluster k).cond = .held g.part) ∧
           ∀ k, k < 96 → g.slices.getLsbD k = true → (t.slice k).cond = .held g.part))) ∧
      (on (.partStatus 0 block) → Q.live = false → RepliesOnly s (.partStatus 0 block) 0 3 0) ∧
      (on (.partDestroy 0 block) → Q.live = false → RepliesOnly s (.partDestroy 0 block) 0 3 0) ∧
      (on (.partStatus 0 block) → Q.live = true →
        RepliesOnly s (.partStatus 0 block) 0 0 (2 ^ 32 * Q.policy.generation + match Q.resize with
          | some r => r.phase.code + 256 * r.migrated
          | none => 0)) ∧
      (on (.partDestroy 0 block) → Q.live = true →
        let idle := Q.resize = none ∧ (∀ e ∈ s.ctxs, ¬ (e.2.occupied = true ∧ e.2.part = g.part)) ∧ Q.saved = []
        (¬ idle → RepliesOnly s (.partDestroy 0 block) 0 8 0) ∧
        (idle → ∃ t r w, exec (.partDestroy 0 block) s = .next t ∧ t.part g.part = { Q with resize := some r } ∧
          r.phase = .commit ∧ r.clusters = 0 ∧ r.slices = 0 ∧ r.switchTo = none ∧ r.fn = 0 ∧
          (t.mail 0).taken = true ∧ s.cycle ≤ w ∧ (w, .moultCommit g.part) ∈ t.agenda ∧
          (∀ k, k < 64 → Q.clusters.getLsbD k = true → (t.cluster k).cond = .transit) ∧
          ∀ k, k < 96 → Q.slices.getLsbD k = true → (t.slice k).cond = .transit)) ∧
      (on (.partResize 0 block) →
       let ok := s.layoutOk block g false (if Q.live then Q.n else 64)
       (ok = false → RepliesOnly s (.partResize 0 block) 0 3 0) ∧
       (ok = true → (Q.live = false ∨ Q.resize ≠ none) → RepliesOnly s (.partResize 0 block) 0 8 0) ∧
       (ok = true → Q.live = true → Q.resize = none →
         let fits := s.allFree (g.clusters &&& ~~~ Q.clusters) (g.slices &&& ~~~ Q.slices) = true ∧
           memoryFits g.slices Q.M = true ∧ (g.flags = 1 ∨ s.movesFit g.part (s.readMap g.map) = true)
         (¬ fits → RepliesOnly s (.partResize 0 block) 0 13 0) ∧
         (fits → ∃ t r w, exec (.partResize 0 block) s = .next t ∧ t.part g.part = { Q with resize := some r } ∧
           r.phase = .prepare ∧ r.clusters = g.clusters ∧ r.slices = g.slices ∧ r.newMap = s.readMap g.map ∧
           r.timeout = (if g.timeout = 0 then 1000 else g.timeout) ∧
           t.mail 0 = { s.mail 0 with door := false, taken := false, waits := none } ∧
           (w, .moultQuiesce g.part) ∈ t.agenda ∧
           (∀ k, k < 64 → g.clusters.getLsbD k = true → Q.clusters.getLsbD k = false →
             (t.cluster k).cond = .transit) ∧
           ∀ k, k < 96 → g.slices.getLsbD k = true → Q.slices.getLsbD k = false →
             (t.slice k).cond = .transit ∧ (t.slice k).gen = (s.slice k).gen + 1)))) ∧
    ∀ r, P.resize = some r →
      (r.phase = .prepare → ∃ t w, exec (.moultQuiesce p) s = .next t ∧
        (t.part p).resize = some { r with phase := .quiesce } ∧ s.cycle ≤ w ∧ (w, .moultMove p) ∈ t.agenda ∧
        (s.cycle + r.timeout * 1250, .quiesceTimeout p) ∈ t.agenda ∧
        ∀ c ∈ s.unstopped p r, (s.ctx c).ending = none → (t.ctx c).stopReq ≠ none) ∧
      (r.phase = .quiesce →
        (s.unstopped p r ≠ [] → ∃ t, exec (.moultMove p) s = .next t ∧ (t.part p).resize = some r ∧
          (t.part p).map = P.map ∧ (s.cycle + 1, .moultMove p) ∈ t.agenda ∧
          ∀ c ∈ s.unstopped p r, (s.ctx c).ending = none → (t.ctx c).stopReq ≠ none) ∧
        (s.unstopped p r = [] → ∃ t d, exec (.moultMove p) s = .next t ∧ d ≤ 2500 ∧
          (t.part p).resize = some { r with phase := .move, switchTo := some (s.cycle + d) } ∧
          (s.cycle + d, .moultMove p) ∈ t.agenda ∧
          ∀ k, k < 64 → P.clusters.getLsbD k = true → r.clusters.getLsbD k = false → (s.cluster k).cond = .held p →
            (∀ c ∈ clusterCtxs k, (s.ctx c).occupied = false) → (t.cluster k).cond = .transit)) ∧
      (r.phase = .move →
        (∀ w, r.switchTo = some w → s.cycle < w → ChangesNothing s (.moultMove p)) ∧
        (∀ w, r.switchTo = some w → w ≤ s.cycle → moves → ∃ t w, exec (.moultMove p) s = .next t ∧
          (t.part p).map = r.newMap ∧ (t.part p).resize = some { r with switchTo := none } ∧
          (w, .moultRehash p) ∈ t.agenda ∧
          ∀ k, k < 64 → r.clusters.getLsbD k = true → P.clusters.getLsbD k = false → (t.cluster k).cond = .held p) ∧
        (∀ w v k c b, r.switchTo = some w → w ≤ s.cycle → P.saved = [v] → v.why = .move →
          mapCore r.newMap v.ctx.vcluster.toNat v.ctx.vcore.toNat = some k →
          s.findRoom (coreCtxs k) v.ctx.accN v.ctx.unitX.2 v.ctx.unitY.2 = some (c, b) →
          s.areaBusy p v.area 0 v.ctx.areaSize false = false →
          ∃ t, exec (.moultMove p) s = .next t ∧ (t.part p).map = r.newMap ∧ (t.part p).saved = [] ∧
            (t.ctx c).identity = v.ctx.identity ∧ (t.ctx c).occupied = v.ctx.occupied)) ∧
      (r.phase = .quiesce →
        (s.cycle < r.started + r.timeout * 1250 → ChangesNothing s (.quiesceTimeout p)) ∧
        (r.started + r.timeout * 1250 ≤ s.cycle → ∃ t late w, exec (.quiesceTimeout p) s = .next t ∧
          (t.part p).resize = some { r with phase := .abort, late := late } ∧ (w, .quiesceTimeout p) ∈ t.agenda ∧
          (∀ c l, s.unstopped p r = c :: l →
            late = (s.ctx c).vcluster.toNat + 256 * (s.ctx c).vcore.toNat + 65536 * (c % 4)) ∧
          ∀ c ∈ s.unstopped p r, ∀ q, (t.ctx c).stopReq = some q → .move ∉ q.kinds ∧ .park ∉ q.kinds)) ∧
      (r.phase = .abort →
        (moves → (∀ v ∈ P.saved, v.why ≠ .park) → ∃ t, exec (.quiesceTimeout p) s = .next t ∧
          (t.part p).resize = none ∧ (t.part p).clusters = P.clusters ∧ (t.part p).slices = P.slices ∧
          (t.part p).map = P.map ∧ answers t r.fn 14 r.late ∧
          (∀ k, k < 64 → r.clusters.getLsbD k = true → P.clusters.getLsbD k = false → t.cluster k = .reset) ∧
          ∀ k, k < 96 → r.slices.getLsbD k = true → P.slices.getLsbD k = false → (t.slice k).cond = .free) ∧
        ∀ v, P.saved = [v] → (v.why = .move ∨ v.why = .park) → P.clusters.getLsbD (v.from_ / 32) = true →
          (s.ctx v.from_).occupied = false → s.accsHeld (v.from_ / 4) + v.ctx.accN ≤ 8 →
          rangeFree (s.unitsUsed (v.from_ / 32) false) v.ctx.unitX = true →
          rangeFree (s.unitsUsed (v.from_ / 32) true) v.ctx.unitY = true →
          s.areaBusy p v.area 0 v.ctx.areaSize false = false →
          ∃ t, exec (.quiesceTimeout p) s = .next t ∧ (t.part p).saved = [] ∧ (t.part p).resize = none ∧
            (t.ctx v.from_).identity = v.ctx.identity ∧ (t.ctx v.from_).unitX = v.ctx.unitX ∧
            (t.ctx v.from_).unitY = v.ctx.unitY) ∧
      (let moved := r.phase = .move ∧ r.switchTo = none ∧ moves
       (¬ moved → ChangesNothing s (.moultRehash p)) ∧
       (moved → r.slices = P.slices → exec (.moultRehash p) s = .next (s.after 0 (.moultCommit p))) ∧
       (moved → r.slices ≠ P.slices → ∃ t d, exec (.moultRehash p) s = .next t ∧ d ≤ 2500 ∧
         (t.part p).resize = some { r with phase := .rehash, migrated := 0, switchTo := some (s.cycle + d) } ∧
         (s.cycle + d, .rehashSetMigrate p) ∈ t.agenda ∧
         ∀ k, k < 96 → r.slices.getLsbD k = true → P.slices.getLsbD k = false → (t.slice k).cond = .held p) ∧
       ((moved ∧ r.slices = P.slices ∨ r.phase = .rehash ∧ r.migrated = 65536 ∧ r.slices ≠ P.slices) →
         ∃ t d, exec (.moultCommit p) s = .next t ∧ d ≤ 2500 ∧
           (t.part p).resize = some { r with phase := .commit, switchTo := some (s.cycle + d) } ∧
           (∃ w, s.cycle + d ≤ w ∧ (w, .moultCommit p) ∈ t.agenda) ∧
           ∀ k, k < 96 → P.slices.getLsbD k = true → r.slices.getLsbD k = false → (t.slice k).cond = .transit)) ∧
      (r.phase = .rehash → r.migrated < 65536 → r.switchTo.getD 0 ≤ s.cycle →
        let stays := setHome P.slices r.migrated = setHome r.slices r.migrated
        let next := fun (t : State) => (t.part p).resize = some { r with migrated := r.migrated + 1, lockTo := none } ∧
          (∃ w, (w, if r.migrated = 65535 then .moultCommit p else .rehashSetMigrate p) ∈ t.agenda) ∧
          ∀ k, t.byte k = s.byte k
        (stays → r.lockTo = none → ∃ t, exec (.rehashSetMigrate p) s = .next t ∧ next t) ∧
        (¬ stays → r.lockTo = none → ∃ t d, exec (.rehashSetMigrate p) s = .next t ∧ d ≤ 10000 ∧
          (t.part p).resize = some { r with lockTo := some (s.cycle + d) } ∧
          (s.cycle + d, .rehashSetMigrate p) ∈ t.agenda) ∧
        ∀ w, ¬ stays → r.lockTo = some w → (s.cycle < w → ChangesNothing s (.rehashSetMigrate p)) ∧
          (w ≤ s.cycle → ∃ t, exec (.rehashSetMigrate p) s = .next t ∧ next t)) ∧
      (r.phase = .commit →
        (s.cycle < r.switchTo.getD 0 → ChangesNothing s (.moultCommit p)) ∧
        (r.switchTo.getD 0 ≤ s.cycle → ∃ t, exec (.moultCommit p) s = .next t ∧ answers t r.fn 0 0 ∧
          (∀ k, k < 64 → P.clusters.getLsbD k = true → r.clusters.getLsbD k = false → t.cluster k = .reset) ∧
          (∀ k, k < 96 → P.slices.getLsbD k = true → r.slices.getLsbD k = false →
            (t.slice k).cond = .free ∧ (t.slice k).gen = (s.slice k).gen + 1) ∧
          (r.clusters ≠ 0 → (t.part p).clusters = r.clusters ∧ (t.part p).slices = r.slices ∧
            (t.part p).resize = none ∧
            (t.part p).policy.generation = P.policy.generation + (if r.inPolicy then 0 else 1) ∧
            (t.part p).releaseKey = (if r.inPolicy then P.releaseKey else s.keys + 1)) ∧
          (r.clusters = 0 → (t.mail r.fn).door = false ∧ (t.mail r.fn).taken = false ∧ t.part p = .reset ∧
            zeroed t p (2 ^ 64) ∧
            ∀ h x, t.handle h = some x → ∀ b, x.region ≠ some (p, b))))

/-- R160, R294 to R299: a COLL whose partition holds no engine ends with status 2; one whose descriptor is good opens
its group or joins one that it agrees with; one whose descriptor is bad or disagrees ends with status 3, as every member
does that names the group, up to the last that is to come. A group whose time runs out, or a member of which fails, ends
with status 1 and the LINK_FAILED mark, and no result is written. When both members of a group of two have arrived, on
this device or one of them on a peer, and no busy tile keeps a line, the commands of this device's end and the member
that came last has its result: the combined, gathered or broadcast elements.
The model's choices in it: log 18, 66, 69, 70 and 71. -/
def Obligations.CollectivesGatherCombineAndTimeOut : Prop :=
  (∀ (s : State) (k id : Nat) (q : Cmd) (desc : DWord), underWay s k id q (.coll desc) →
    let i := Instr.collDescriptorRead k id
    let cl := some q.cluster
    (s.runBusy q.part desc 64 false cl = true → exec i s = .next (s.schedule 1 i)) ∧
    (s.runBusy q.part desc 64 false cl = false → s.runFail q.part desc 64 false cl = none → q.killed = false →
      let b := BitVec.ofNat 512 (leNat (s.bulkRead q.part desc 64 cl))
      let d := collDesc b
      let m : CollMember := ⟨k, id, q.ctx, q.part, desc, b, false, none, []⟩
      let ends := fun (t : State) (st : Nat) =>
        (s.endBusy m = true → ⟨m, st, none⟩ ∈ t.host.collEnds) ∧
        (s.endBusy m = false → cmdGone t k id ∧
          ∀ key, s.engXlate cl q.part (desc + 32) true = .ok key true → t.rdMem key 1 = [BitVec.ofNat 8 st])
      ((s.part q.part).lease = 0 → ∃ t, exec i s = .next t ∧ ends t 2) ∧
      ((s.part q.part).lease ≠ 0 →
        (d.good = true → s.collGroup d.group = none → ∃ t, exec i s = .next t ∧
          t.collGroup d.group = some ⟨d.group, [m], s.cycle + d.cycles, s.portsOf d [], false, []⟩ ∧
          (s.cycle + d.cycles, .collectiveTimeout d.group) ∈ t.agenda ∧ t.cores = s.cores) ∧
        (d.good = false → s.collGroup d.group = none → ∃ t, exec i s = .next t ∧ ends t 3 ∧
          t.collGroup d.group =
            some ⟨d.group, [], s.cycle + d.cycles, s.portsOf d [], true, [(d.n, d.rank)]⟩) ∧
        ∀ g, s.collGroup d.group = some g →
          (g.spoilt = true → g.members = [] → ∃ t, exec i s = .next t ∧ ends t 3 ∧
            let came := g.came ++ [(d.n, d.rank)]
            ∀ n, 2 ≤ n → (∀ x ∈ came, x.1 = n ∧ x.2 < n) → (came.map Prod.snd).Nodup →
              t.collGroup d.group = if came.length = n then none
                else some { g with came := came, due := max g.due (s.cycle + d.cycles) }) ∧
          (g.spoilt = false → d.good = true → g.members ≠ [] →
            let agrees := ∀ x ∈ g.members, x.d.op = d.op ∧ x.d.ty = d.ty ∧ x.d.redop = d.redop ∧ x.d.count = d.count ∧
              x.d.n = d.n ∧ x.d.root = d.root ∧ x.d.rank ≠ d.rank
            (agrees → ∃ t, exec i s = .next t ∧ t.cores = s.cores ∧
              t.collGroup d.group = some { g with
                members := g.members ++ [m], ports := s.portsOf d (g.members.flatMap CollMember.lost) } ∧
              (g.members.length + 1 = d.n → ∃ w, (w, .collectiveComplete d.group) ∈ t.agenda)) ∧
            (¬ agrees → ∃ t, exec i s = .next t ∧ ends t 3 ∧
              (∀ x ∈ g.members, s.endBusy x = false → cmdGone t x.core x.cmd) ∧
              ∀ h, t.collGroup d.group = some h → h.spoilt = true ∧ h.members = []))))) ∧
  ∀ (s : State) (n : Nat) (g : CollGroup), s.collGroup n = some g →
    let at_ := fun (m : CollMember) (a : DWord) => s.engXlate m.cluster m.part a true
    let marks := fun (k : Nat) => ∃ m ∈ g.members, m.killed = false ∧ at_ m (m.desc + 32) = .ok k true
    let dry := fun (t : State) =>
      (∀ m ∈ g.members, m.killed = false → m.ctx < 2048 ∧ ∃ k, at_ m (m.desc + 32) = .ok k true) →
      s.bytesKept (fun l => ∃ k, marks k ∧ l = k / 128) marks t
    (s.cycle < g.due → ChangesNothing s (.collectiveTimeout n)) ∧
    (g.due ≤ s.cycle → ∃ t, exec (.collectiveTimeout n) s = .next t ∧ t.collGroup n = none ∧ dry t ∧
      (∀ m ∈ g.members, s.endBusy m = false → cmdGone t m.core m.cmd) ∧
      ∀ m q, g.members = [m] → m.killed = false → m.ctx < 2048 → s.endBusy m = false → s.cmd m.core m.cmd = some q →
        (∀ k, at_ m (m.desc + 32) = .ok k true → t.rdMem k 1 = [1]) ∧
        (q.tok ≠ 31 → (t.ctx m.ctx).linkFail.getLsbD q.tok.toNat = true)) ∧
    (g.ports = [] → ChangesNothing s (.collectiveComplete n)) ∧
    ∀ a b, g.members = [a, b] → a.d.n = 2 → g.ports ≠ [] → (a.peer = none → a.killed = false) → b.killed = false →
      b.peer = none →
      let i := Instr.collectiveComplete n
      ((s.memberFailure a ≠ none ∨ s.memberFailure b ≠ none) → ∃ t, exec i s = .next t ∧ t.collGroup n = none ∧ dry t ∧
        (s.memberFailure b = none → s.endBusy b = false → cmdGone t b.core b.cmd ∧
          ∀ k, at_ b (b.desc + 32) = .ok k true → t.rdMem k 1 = [1])) ∧
      (s.memberFailure a = none → s.memberFailure b = none →
        ((s.memberBusy a = true ∨ s.memberBusy b = true) → exec i s = .next (s.schedule 1 i)) ∧
        (s.memberBusy a = false → s.memberBusy b = false → ∃ t, exec i s = .next t ∧ t.collGroup n = none ∧
          (a.peer = none → s.endBusy a = false → cmdGone t a.core a.cmd) ∧
          (s.endBusy b = false → cmdGone t b.core b.cmd) ∧
          let c := a.d.count
          let z := a.d.size
          let r := b.d.rank
          let x := a.peer.getD (s.bulkRead a.part a.d.src (c * z) a.cluster)
          let y := s.bulkRead b.part b.d.src (c * z) b.cluster
          let elt := fun (l : List Byte) (e : Nat) => leNat ((l.drop (z * e)).take z)
          let float := fun (q : FTy) (u v : Nat) =>
            if a.d.redop = 0 then q.round .rne false (Ext.add .rne (q.decode u) (q.decode v))
            else if a.d.redop = 1 then q.min u v else q.max u v
          let joined := fun (u v : Nat) =>
            if a.d.ty = 5 then float .fp32 u v else if a.d.ty = 6 then float .bf16 u v
            else if a.d.redop = 0 then (u + v) % 2 ^ 32
            else if a.d.redop = 1 then (if sval 32 u < sval 32 v then u else v)
            else if sval 32 u < sval 32 v then v else u
          let either := fun (w e : Nat) => w = joined (elt x e) (elt y e) ∨ w = joined (elt y e) (elt x e)
          ∀ key st, r < 2 → a.d.rank = 1 - r → x.length = c * z → 2 * (c * z) ≤ 128 → b.d.dst.toNat % 128 = 0 →
            at_ b b.d.dst = .ok key true → at_ b (b.desc + 32) = .ok st true → (st < key ∨ key + 2 * (c * z) ≤ st) →
            (a.d.op = 0 → ∀ e, e < c → either (leNat (t.rdMem (key + z * e) z)) e) ∧
            (a.d.op = 1 → ∀ e, e < c / 2 → either (leNat (t.rdMem (key + z * e) z)) (c / 2 * r + e)) ∧
            (a.d.op = 2 → t.rdMem key (2 * (c * z)) = if r = 0 then y ++ x else x ++ y) ∧
            (a.d.op = 3 → a.d.root < 2 → t.rdMem key (c * z) = if a.d.root = r then y else x)))

/-- R160, R162, R163, R288, R291, R292, R294, R301, R308, R310, R313: pages of partition memory that are not pinned
leave the host stage of translation and come back with their version, walks and replies map pages in the guest
stage, invalidations unmap host pages, and a host access waits, is served, or is refused like any other, a read with
ones; ports, the link and the power limit go where the event says.
The model's choices in it: log 8, 18, 62, 64, 65, 66, 67, 68 and 83. -/
def Obligations.PagesLinksAndHostAccesses : Prop :=
  ∀ (s : State) (p vp c fn port : Nat) (a v : DWord) (m : PageMap) (w on : Bool) (l : List Byte)
      (again : Option PageMap) (n : Nat) (cs : BitVec 64) (ss : BitVec 96),
    let P := s.part p
    let e := P.page vp
    let g := P.guestPage vp
    let h := P.hostPage g.ppage
    let maps := fun (t : State) (q : Nat) (x : PageMap) => (t.part q).page vp = x
    let pagesOnly := fun (t : State) => (∀ q, q ≠ p → t.part q = s.part q) ∧ { t with parts := s.parts } = s ∧
      { t.part p with pages := P.pages } = P
    (let i := Instr.pageEviction p vp v
     let stays := P.live = false ∨ g.present = false ∨ g.host = true ∨ P.M ≤ g.ppage * 4096 ∨ h.present = false ∨
       s.pinned p vp = true ∨ s.pinnedAt p g.ppage = true
     let busy := s.spanBusy (keyOf p (h.ppage * 4096)) 4096 false = true ∨
       s.spanBusy (evictKey p g.ppage) 4120 true = true
     (stays → ChangesNothing s i) ∧
     (¬ stays → busy → exec i s = .next (s.schedule 1 i)) ∧
     (¬ stays → ¬ busy → ∃ t, exec i s = .next t ∧ (t.part p).guestPage vp = g ∧
       (t.part p).hostPage g.ppage = { h with present := false, host := true } ∧ (t.part p).expects vp = some v ∧
       ((t.part p).page vp).present = false)) ∧
    (let i := Instr.pageWalkComplete p vp m
     (P.live = false → ChangesNothing s i) ∧
     (P.live = true → P.expects vp = none →
       (s.pinned p vp = true → e.present = true → ChangesNothing s i) ∧
       ((s.pinned p vp = false ∨ e.present = false) → ∃ t, exec i s = .next t ∧ pagesOnly t ∧
         ((s.pinned p vp = false ∨ g.present = false) → (t.part p).guestPage vp = { m with
           ppage := pageBase m.size m.ppage + vp % pagesIn m.size
           size := .k4 }) ∧
         ∀ u ∈ s.pinnedPages p, (P.guestPage u).present = true →
           (t.part p).guestPage u = { P.guestPage u with size := .k4 })) ∧
     (∀ u, P.live = true → P.expects vp = some u →
       ((m.present = false ∨ m.host = true) → ChangesNothing s i) ∧
       (m.present = true → m.host = false →
         let busy := s.spanBusy (evictKey p g.ppage) 4120 false = true ∨
           s.spanBusy (keyOf p (m.ppage * 4096)) 4096 true = true
         (busy → exec i s = .next (s.schedule 1 i)) ∧
         (¬ busy → ∃ t, exec i s = .next t ∧
           (s.returned p g.ppage m.ppage u ≠ none → (t.part p).expects vp = none ∧ (t.part p).guestPage vp = g ∧
             (t.part p).hostPage g.ppage = ⟨true, m.writable, false, m.ppage, .k4⟩) ∧
           (s.returned p g.ppage m.ppage u = none → maps t p e ∧ (t.part p).expects vp = some u ∧
             ∀ r ∈ t.host.pri, r.2.1 = vp → (s.ctx r.1).part = p → r.2.2 = 2))))) ∧
    (let q := (s.ctx c).part
     let i := Instr.pageRequestReply c vp (.mapped w)
     let x := (s.part q).guestPage vp
     ((∀ r ∈ s.host.pri, ¬ (r.1 = c ∧ r.2.1 = vp)) → ChangesNothing s i) ∧
     ((∃ r ∈ s.host.pri, r.1 = c ∧ r.2.1 = vp) → (s.part q).expects vp = none → ∃ t, exec i s = .next t ∧
       (t.part q).guestPage vp = (if x.host = true ∨ x.present = false then { x with present := true, writable := w }
         else x) ∧
       ∀ r ∈ t.host.pri, ¬ (r.1 = c ∧ r.2.1 = vp))) ∧
    (let i := Instr.atsInvalidation p ⟨vp, again⟩
     ((e.host = false ∨ e.present = false) → ChangesNothing s i) ∧
     (e.host = true → e.present = true →
       (s.partBusy p = true → exec i s = .next (s.schedule 1 i)) ∧
       (s.partBusy p = false → s.pinned p vp = false → ∃ t, exec i s = .next t ∧
         s.onlyPart t p (P.setPage vp { e with present := false }) ∧ maps t p { e with present := false }) ∧
       (s.partBusy p = false → s.pinned p vp = true → ∃ t, exec i s = .next t ∧ t.mem = s.mem ∧
         ((t.part p).page vp).present = true ∧ ((t.part p).page vp).host = true ∧ (again = none → maps t p e)))) ∧
    (let write := Instr.hostMemoryAccess fn a (some l) 0
     let read := Instr.hostMemoryAccess fn a none n
     let answers := fun (x : State) (b : List Byte) => { x with host := { x.host with answer := b } }
     (s.host.link = .down → ChangesNothing s write ∧ ChangesNothing s read) ∧
     (s.host.link ≠ .down →
       ((fn = 0 ∨ s.fnPart fn = none) → (∃ t, exec write s = .next t ∧
         t.mem = s.mem ∧ t.parts = s.parts ∧ t.ctxs = s.ctxs ∧ s.host.devLog.length ≤ t.host.devLog.length) ∧
         ∃ t, exec read s = .next t ∧ t.host.answer = List.replicate n 255 ∧ t.mem = s.mem ∧ t.parts = s.parts) ∧
       (fn ≠ 0 → s.fnPart fn = some p →
         (s.hostWaits p a.toNat l.length true = true → exec write s = .next (s.schedule 1 write)) ∧
         (s.hostWaits p a.toNat n false = true → exec read s = .next (s.schedule 1 read)) ∧
         (l ≠ [] → a.toNat % 128 + l.length ≤ 128 → s.hostWaits p a.toNat l.length true = false →
           (s.refuses p a.toNat true = false → ∃ t, exec write s = .next t ∧ s.storedAt t (keyOf p a.toNat) l) ∧
           (s.refuses p a.toNat true = true → exec write s = .next (s.logRefused p (reqOfFn p fn) a.toNat))) ∧
         (n ≠ 0 → a.toNat % 128 + n ≤ 128 → s.hostWaits p a.toNat n false = false →
           (s.refuses p a.toNat false = false →
             exec read s = .next (answers s (s.rdLine (keyOf p a.toNat) n))) ∧
           (s.refuses p a.toNat false = true → ∃ t, exec read s = .next t ∧ t.host.answer = List.replicate n 255 ∧
             t.mem = (s.logRefused p (reqOfFn p fn) a.toNat).mem))))) ∧
    (∃ t, exec (.powerLimitReached on) s = .next t ∧ t.host.throttle = on ∧
      { t with host := { t.host with throttle := s.host.throttle } } = s) ∧
    (∃ t, exec .hostLinkDown s = .next t ∧ t.host.link = .down ∧
      (∀ q, q < 16 → (s.part q).live = true → (t.part q).gone = true) ∧
      (∀ q, { t.part q with gone := (s.part q).gone } = s.part q) ∧
      { t with host := { t.host with link := s.host.link }, parts := s.parts } = s) ∧
    (s.host.ready = false → ChangesNothing s .hostLinkRetrained) ∧
    (s.host.ready = true → ∃ t, exec .hostLinkRetrained s = .next t ∧ t.host.link = .up ∧
      { t with host := { t.host with link := s.host.link } } = s) ∧
    (18 ≤ port → ChangesNothing s (.linkPortDown port) ∧ ChangesNothing s (.flitRetry port)) ∧
    (s.host.ready = false → ChangesNothing s (.linkPortDown port)) ∧
    (port < 18 → (s.host.ready = true → ∃ t, exec (.linkPortDown port) s = .next t ∧ (t.linkPort port).down = true) ∧
      ∃ t, exec (.flitRetry port) s = .next t ∧
        (let l := ((s.linkPort port).retries.filter fun x => decide (s.cycle < x + 1250000)) ++ [s.cycle]
         (t.linkPort port).retries = l ∧ (s.host.ready = true → 64 < l.length → (t.linkPort port).down = true))) ∧
    ∃ t, exec (.ageingMonitorRead cs ss) s = .next t ∧ t.host.agedClusters = s.host.agedClusters ||| cs ∧
      t.host.agedSlices = s.host.agedSlices ||| ss ∧ t.mem = s.mem ∧ t.ctxs = s.ctxs

/-- R93, R229, R235, R236, R309, R310, R313: what a reset, a life-cycle change, a loss of power and the next
power-up leave. Host memory, the clock and the records of installed terms stay; every other memory, register,
partition and binding is gone; a loss that no orderly shutdown came before charges every use that might have been
made.
The model's choices in it: log 5, 72, 73 and, for a bring-up whose firmware is not verified, 101. -/
def Obligations.ResetsAndPowerLossLeaveWhatIsPersistent : Prop :=
  ∀ (s : State) (h : Nat) (x : Handle),
    let cleared := fun (t : State) => t.cycle = 0 ∧ (∀ c, t.ctx c = .free) ∧ (∀ k, t.core k = .reset) ∧
      (∀ k, t.cluster k = .reset) ∧ (∀ k, t.slice k = .reset) ∧ t.host.link = .down ∧
      (∀ p, t.part p = .reset) ∧ t.terms.resv = [] ∧ t.host.ready = false ∧ t.todo = [] ∧ t.locks = [] ∧
      (∀ p a, p < 16 → a < 2 ^ 64 → t.byte (keyOf p a) = 0) ∧
      (∀ a, a < 2 ^ 64 → t.byte (keyOf 16 a) = s.byte (keyOf 16 a)) ∧
      t.host.badClusters = s.host.agedClusters
    let lost : Handle := { x with
      region := none
      key := 0
      lost := x.lost + (x.n - x.p)
      used := x.n
      p := x.n
      reserved := 0
      meter := x.body.charge * x.n % 2 ^ 64 }
    let kept : Handle := { x with region := none, key := 0, reserved := 0 }
    let charged := s.terms.loss = true ∨ s.terms.alive = true
    let comes := fun (t : State) => ∃ w, (w, .bringUpComplete) ∈ t.agenda
    (∃ t, exec .deviceReset s = .next t ∧ cleared t ∧ t.host.powered = true ∧ comes t ∧
      t.tclock = s.tclock ∧ t.terms.synced = s.terms.synced ∧
      (s.handle h = some x → t.handle h = some (if charged then lost else kept))) ∧
    (∃ t, exec .lifeCycleChange s = .next t ∧
      ((∃ h, s.handle h ≠ none) → t = s) ∧
      ((∀ e ∈ s.terms.handles, e.2 = none) → cleared t ∧ t.host.enrolled = false ∧ comes t ∧
        t.terms.synced = false ∧ t.terms.clockSaved = 0 ∧ t.terms.stSerial = s.terms.stSerial)) ∧
    (∃ t, exec .powerLoss s = .next t ∧ cleared t ∧ t.host.powered = false ∧ t.terms.synced = false ∧
      t.terms.clockBase = s.terms.clockSaved ∧ (t.terms.loss = true ↔ charged) ∧
      (s.handle h = some x → t.handle h = some kept)) ∧
    (s.host.powered = true → ChangesNothing s .powerUpRecovery) ∧
    (s.host.powered = false → ∃ t, exec .powerUpRecovery s = .next t ∧ t.host.powered = true ∧ t.cycle = 0 ∧
      comes t ∧ t.terms.loss = false ∧ (s.handle h = some x → s.terms.loss = true → t.handle h = some
        { x with
          lost := x.lost + (x.n - x.p)
          used := x.n
          p := x.n
          reserved := 0
          meter := x.body.charge * x.n % 2 ^ 64 })) ∧
    (∃ t, exec .orderlyShutdown s = .next t ∧ t.terms.alive = false ∧ t.terms.clockSaved = s.tclock ∧
      { t with terms := s.terms } = s ∧ (s.handle h = some x → t.handle h = some { x with p := x.used })) ∧
    (let verified := Config.firmwareVerified = true ∧ Config.geckoVerified = true
     (¬ verified → ChangesNothing s .bringUpComplete) ∧
     (verified → ∃ t, exec .bringUpComplete s = .next t ∧ t.host.ready = true ∧ t.host.link = .up ∧
       { t with host := { t.host with ready := s.host.ready, link := s.host.link } } = s))

/-! ### A step, the encoding, and an invariant -/

/-- R18, R21, R24, R26, R78, R80, R89, R128, R312: A STEP RUNS WHAT IS DECODED. An event that is due is run. Else a
core whose context's next bundle decodes to one slot's instruction counts the bundle, reads the operands, and runs
that instruction, or raises ECC_UNCORRECTED for a poisoned operand; then, if it faults, the context freezes; if it
blocks, the selector chooses; if it stalls, nothing of it stays; and otherwise the bundle ends, and the context goes
on at the bundle that the instruction or a back-edge chose.
The model's choices in it: log 1, 2, 44, 50 and 100. -/
def Obligations.StepRunsTheDecodedInstruction : Prop :=
  (∀ (s : State) (n : Nat) (i : Instr) (r : List (Nat × Instr)), s.agenda = (n, i) :: r → n ≤ s.cycle →
    step s = exec i { s with agenda := r }) ∧
  (∀ (s : State) (k c : Nat) (rest : List Nat) (b : Bundle) (sl : Slot) (i : Instr) (t v : State),
    hasTurn s k c rest →
    let old := (s.updCore k fun r => { r with pair := none }).acting c
    (∀ g, s.text c = some g → g.isStart (s.ctx c).pc = true →
      let h := g.word ((s.ctx c).pc.toNat / 4)
      s.fetch c = decodeBundle (s.ctx c).pc h (g.run ((s.ctx c).pc.toNat / 4 + 1) (hdrSlots h).length)) ∧
    (s.fetch c = .ok b → s.fetchBad c = false → b.slots = [(sl, i)] → i ≠ .exit → old.tick c = .next t →
      (t.ctx c).bundleCheck b = none → (s.ctx c).early s.cycle b.slots = false →
      (s.ctx c).stallsOn b s.cycle = false → old.awaitsEntry c = false → (s.ctx c).fenced b.slots = false →
      let read : Issue := { Issue.empty with
        addr := b.addr
        hdr := b.hdr
        slots := b.slots
        time := (t.ctx c).time
        latch := ⟨(t.ctx c).s, (t.ctx c).v, (t.ctx c).p, (t.ctx c).acc, (t.ctx c).rs, (t.ctx c).accBad,
          (t.ctx c).regBad, (t.ctx c).fmt⟩ }
      let u := t.updCtx c fun x => { x with iss := read }
      let poisoned := (Instr.reads i sl).any fun r => decide (r ∈ (t.ctx c).regBad)
      (if poisoned then .next (State.raise { u with slot := sl } .eccUncorrected none none)
        else exec i { u with slot := sl }) = .next v →
      let ran := ((v.performed sl).mendRegs (sl, i)).applyHold c
      let kept := old.waiting c b
      (v.iss.block = true → v.iss.faults = [] → step s = turnEnds k rest
        (((kept.setAllGoing c false v.iss.later).setBlocked c true).chooseAnew k)) ∧
      (v.iss.block = false → v.iss.stall = true → v.iss.faults = [] →
        step s = turnEnds k rest (.next (kept.setAllGoing c true v.iss.later))) ∧
      (v.iss.block = false → v.iss.stall = false → v.iss.faults = [] → step s = turnEnds k rest
        ((ran.finish c ran.iss.bundle).afterIssue k c (ran.info c ran.iss.bundle) true)) ∧
      (v.iss.block = false → v.iss.stall = false → v.iss.faults ≠ [] → step s = turnEnds k rest
        (((v.applyHold c).freeze c).afterIssue k c ((v.applyHold c).info c (v.applyHold c).iss.bundle) true)))) ∧
  ∀ (s : State) (c : Nat) (b : Bundle) (l : LoopLevel),
    let x := s.ctx c
    let y := (s.finish c b).ctx c
    let next := b.addr + BitVec.ofNat 64 (4 * bundleWords b.hdr)
    (x.loops = [] → y.pc = x.iss.target.getD next ∧ y.loops = []) ∧
    (x.loops = [l] → l.endA = b.addr → l.lc.toNat + 1 < l.lb.toNat →
      y.pc = l.body ∧ y.loops = [{ l with lc := l.lc + 1 }]) ∧
    (x.loops = [l] → l.endA = b.addr → l.lb.toNat ≤ l.lc.toNat + 1 → y.pc = next ∧ y.loops = []) ∧
    (x.loops = [l] → l.endA ≠ b.addr → y.pc = x.iss.target.getD next ∧ y.loops = [l])

/-- R22, R30 to R36, R95: words written out from the spec's encoding decode to what they stand for. The CTL word of
zeros is the NOP; a CTL word of major opcode 0 with any other bit set raises ILLEGAL_OPCODE in slot 0. -/
def Obligations.TheSpecsWordsDecode : Prop :=
  (∀ (a : DWord) (w : Word) (lent : BitVec 2), w.toNat < 2 ^ 26 →
    decodeWord .ctl lent w = (if w = 0 then some .nopCtl else none) ∧
    (w ≠ 0 → ∃ e, decodeBundle a 1 [w] = .error e ∧ Sys2Proof.Machine.DecodeErr.fault e = (0, .illegalOpcode, none))) ∧
  ∀ p ∈ [((0x0451870c : Nat), Slot.sa, Instr.div 5 6 7), (0x2c312345, .sb, .lui 3 0x12345),
      (0x30518708, .sa, .sel 5 6 7 8), (0x29604583, .va, .vcmp 2 .gtn 1 5 ⟨.w4096, 0, 3⟩),
      (0x343105ca, .va, .vlog3 3 4 5 0xca), (0x69950000, .vb, .plog 3 1 2 8),
      (0x803100a0, .va, .vld 3 4 2 ⟨.w4096, 0, 0⟩), (0x0401c020, .xu, .trpush 7 ⟨.w1024, 2, 0⟩),
      (0x1e860000, .mx, .mxrs 40 3), (0x24780000, .mx, .mxsa 30), (0x048281f0, .dm, .tmap 4 5),
      (0x281286f8, .dm, .cpylv 1 10 6), (0x64300000, .ctl, .capadv 3), (0x88720000, .ctl, .useq 7 1)],
    decodeWord p.2.1 0 (BitVec.ofNat 32 p.1) = some p.2.2

/-- R17 to R36: DECODING UNDOES ENCODING. Every well-formed instruction of every slot, with every operand at every value
that its encoding admits, comes back from the eight bytes of a bundle that holds it alone, and an empty bundle from
the four bytes of its header; and a word that decodes is the encoding of what it decodes to, but for the ring field
that a GATH without a ring does not use. -/
def Obligations.DecodingUndoesEncoding : Prop :=
  (∀ (sl : Slot) (i : Instr) (a : DWord) (r : List Byte), i.wellFormed sl = true →
    let h := headerOne sl (encodeLent i)
    decodeBytes a (bytesOfWord h ++ bytesOfWord (encode i) ++ r) = .ok (⟨a, h, [(sl, i)]⟩, r)) ∧
  (∀ (i : Instr) (a : DWord) (r : List Byte), i.wellFormedEmpty = true →
    decodeBytes a (bytesOfWord (encode i) ++ r) = .ok (⟨a, encode i, []⟩, r) ∧ emptyOf (encode i) = i) ∧
  ∀ (sl : Slot) (lent : BitVec 2) (w : Word) (i : Instr), decodeWord sl lent w = some i →
    (∀ a b k, i ≠ .gath a b k none) → encode i = w

/-- R4, R309: memory keeps its canonical form: whatever a step does, from any state whatever, addresses still rise
strictly and no entry is listed that holds what an unlisted byte reads as, so that equal memories are equal data.
The model's choice in it: log 5. -/
def Obligations.EveryStepKeepsMemoryCanonical : Prop :=
  ∀ s t : State, s.memWf → step s = .next t → t.memWf

/-- R309: the memory of the device after reset has its canonical form, and reads as zero at every byte of every address
space.
The model's choice in it: log 5. -/
def Obligations.ResetMemoryIsCanonicalAndZero : Prop :=
  State.reset.memWf ∧ ∀ k, State.reset.byte k = 0
end

