-- ==== Sys2Proof/Laws/Store.lean ====
section
/-!
SUPPORT. The laws of the sparse store: reading after a write, writes elsewhere, and that every
operation keeps the canonical form.
-/
namespace Sys2Proof

section Read
variable {α : Type} (d : α)

@[simp] theorem Store.get_nil (j : Nat) : Store.get d [] j = d := rfl

theorem Store.get_append (a b : Store α) (j : Nat) (h : ∀ e ∈ a, e.1 ≠ j) :
    Store.get d (a ++ b) j = Store.get d b j := by
  induction a with
  | nil => rfl
  | cons e a ih =>
    have h1 : j ≠ e.1 := fun q => h e (.head _) q.symm
    simp only [List.cons_append, Store.get, if_neg h1]
    exact ih fun x hx => h x (.tail _ hx)

theorem Store.get_left (a b : Store α) (j : Nat) (h : ∀ e ∈ b, e.1 ≠ j) :
    Store.get d (a ++ b) j = Store.get d a j := by
  induction a with
  | nil =>
    have := Store.get_append d b [] j h
    simpa using this
  | cons e a ih =>
    simp only [List.cons_append, Store.get, ih]

theorem Store.get_filter (m : Store α) (q : Nat × α → Bool) (j : Nat)
    (h : ∀ e, e.1 = j → q e = true) : Store.get d (m.filter q) j = Store.get d m j := by
  induction m with
  | nil => rfl
  | cons e m ih =>
    by_cases hj : j = e.1
    · have : q e = true := h e hj.symm
      simp [List.filter, this, Store.get, hj]
    · by_cases hq : q e = true
      · simp [List.filter, hq, Store.get, hj, ih]
      · simp only [Bool.not_eq_true] at hq
        simp [List.filter, hq, Store.get, hj, ih]

/-- A key that no entry has reads as the default. -/
theorem Store.get_none (m : Store α) (j : Nat) (h : ∀ e ∈ m, e.1 ≠ j) : Store.get d m j = d := by
  have := Store.get_append d m [] j h
  simpa using this

theorem Store.below_ne (m : Store α) (k j : Nat) (h : k ≤ j) : ∀ e ∈ m.below k, e.1 ≠ j := by
  intro e he
  simp only [Store.below, List.mem_filter, decide_eq_true_eq] at he
  omega

theorem Store.above_ne (m : Store α) (k j : Nat) (h : j < k) : ∀ e ∈ m.above k, e.1 ≠ j := by
  intro e he
  simp only [Store.above, List.mem_filter, decide_eq_true_eq] at he
  omega

theorem Store.mem_below (m : Store α) (k : Nat) : ∀ e ∈ m.below k, e.1 < k := by
  intro e he
  simpa using (List.mem_filter.mp he).2

theorem Store.mem_above (m : Store α) (k : Nat) : ∀ e ∈ m.above k, k ≤ e.1 := by
  intro e he
  simpa using (List.mem_filter.mp he).2

end Read

section Write
variable {α : Type} [DecidableEq α] (d : α)

theorem Store.run_key (k : Nat) (l : List α) : ∀ e ∈ Store.run d k l, k ≤ e.1 ∧ e.1 < k + l.length := by
  induction l generalizing k with
  | nil => simp [Store.run]
  | cons v l ih =>
    intro e he
    simp only [Store.run] at he
    simp only [List.length_cons]
    split at he
    · have := ih (k + 1) e he
      omega
    · rcases List.mem_cons.mp he with rfl | he
      · simp
      · have := ih (k + 1) e he
        omega

theorem Store.get_run (k : Nat) (l : List α) (j : Nat) :
    Store.get d (Store.run d k l) j = if k ≤ j then l.getD (j - k) d else d := by
  induction l generalizing k with
  | nil => simp [Store.run]
  | cons v l ih =>
    have hstep : j ≠ k → (if k + 1 ≤ j then l.getD (j - (k + 1)) d else d) =
        if k ≤ j then (v :: l).getD (j - k) d else d := by
      intro hj
      by_cases hk : k ≤ j
      · have h1 : j - k = (j - (k + 1)) + 1 := by omega
        rw [if_pos (by omega), if_pos hk, h1, List.getD_cons_succ]
      · rw [if_neg (by omega), if_neg hk]
    simp only [Store.run]
    by_cases hv : v = d
    · rw [if_pos hv, ih]
      by_cases hj : j = k
      · subst hj
        rw [if_neg (by omega), if_pos (by omega)]
        simp [hv]
      · exact hstep hj
    · rw [if_neg hv]
      simp only [Store.get]
      by_cases hj : j = k
      · subst hj
        simp
      · rw [if_neg hj, ih]
        exact hstep hj

/-- What a store reads as after a write of a run of values. -/
theorem Store.get_put (m : Store α) (k : Nat) (l : List α) (j : Nat) :
    Store.get d (m.put d k l) j =
      if k ≤ j ∧ j < k + l.length then l.getD (j - k) d else Store.get d m j := by
  unfold Store.put
  by_cases h1 : j < k
  · rw [if_neg (by omega), Store.get_left d _ _ _ ?_]
    · exact Store.get_filter d m _ j fun e he => by simpa [he] using h1
    · intro e he
      rcases List.mem_append.mp he with he | he
      · have := Store.run_key d k l e he
        omega
      · exact Store.above_ne m _ _ (by omega) e he
  · rw [Store.get_append d _ _ _ (Store.below_ne m k j (by omega))]
    by_cases h2 : j < k + l.length
    · rw [Store.get_left d _ _ _ (Store.above_ne m _ _ h2), Store.get_run, if_pos (by omega),
        if_pos ⟨by omega, h2⟩]
    · rw [if_neg (by omega), Store.get_append d _ _ _ ?_]
      · exact Store.get_filter d m _ j fun e he => by simp [he]; omega
      · intro e he
        have := Store.run_key d k l e he
        omega

@[simp] theorem Store.get_set_self (m : Store α) (k : Nat) (v : α) :
    Store.get d (m.set d k v) k = v := by
  simp [Store.set, Store.get_put]

theorem Store.get_set_ne (m : Store α) (k : Nat) (v : α) (j : Nat) (h : j ≠ k) :
    Store.get d (m.set d k v) j = Store.get d m j := by
  simp only [Store.set, Store.get_put, List.length_singleton]
  rw [if_neg (by omega)]

/-- What a store reads as after the write of one value. -/
theorem Store.get_set (m : Store α) (k : Nat) (v : α) (j : Nat) :
    Store.get d (m.set d k v) j = if j = k then v else Store.get d m j := by
  by_cases h : j = k
  · simp [h]
  · simp [h, Store.get_set_ne]

/-- The values of a run just written. -/
theorem Store.list_put (m : Store α) (k : Nat) (l : List α) :
    Store.list d (m.put d k l) k l.length = l := by
  have key : ∀ (n i : Nat), i + n = l.length →
      Store.list d (m.put d k l) (k + i) n = l.drop i := by
    intro n
    induction n with
    | zero =>
      intro i h
      rw [List.drop_eq_nil_of_le (by omega)]
      rfl
    | succ n ih =>
      intro i h
      simp only [Store.list]
      rw [Store.get_put, if_pos (by omega), Nat.add_assoc, ih (i + 1) (by omega)]
      have hi : i < l.length := by omega
      rw [show k + i - k = i by omega, List.drop_eq_getElem_cons hi]
      simp [List.getD_eq_getElem?_getD, hi]
  have := key l.length 0 (by omega)
  simpa using this

/-! ### The canonical form -/

theorem Store.wf_iff (m : Store α) :
    m.wf d = true ↔ (m.Pairwise fun a b => a.1 < b.1) ∧ ∀ e ∈ m, e.2 ≠ d := by
  simp [Store.wf]

theorem Store.run_wf (k : Nat) (l : List α) : (Store.run d k l).wf d = true := by
  rw [Store.wf_iff]
  induction l generalizing k with
  | nil => simp [Store.run]
  | cons v l ih =>
    simp only [Store.run]
    split
    · exact ih (k + 1)
    · rename_i hv
      refine ⟨List.pairwise_cons.mpr ⟨fun e he => ?_, (ih (k + 1)).1⟩, ?_⟩
      · have := Store.run_key d (k + 1) l e he
        simp only; omega
      · intro e he
        rcases List.mem_cons.mp he with rfl | he
        · exact hv
        · exact (ih (k + 1)).2 e he

/-- Entries kept in order. -/
theorem Store.filter_wf (m : Store α) (q : Nat × α → Bool) (h : m.wf d = true) :
    Store.wf d (m.filter q) = true := by
  rw [Store.wf_iff] at *
  exact ⟨h.1.filter q, fun e he => h.2 e (List.mem_filter.mp he).1⟩

/-- Stores with keys that follow each other. -/
theorem Store.append_wf (a b : Store α) (k : Nat) (ha : a.wf d = true) (hb : b.wf d = true)
    (h1 : ∀ e ∈ a, e.1 < k) (h2 : ∀ e ∈ b, k ≤ e.1) : Store.wf d (a ++ b) = true := by
  rw [Store.wf_iff] at *
  refine ⟨List.pairwise_append.mpr ⟨ha.1, hb.1, fun x hx y hy => ?_⟩, fun e he => ?_⟩
  · have := h1 x hx
    have := h2 y hy
    omega
  · rcases List.mem_append.mp he with he | he
    · exact ha.2 e he
    · exact hb.2 e he

/-- A write keeps the canonical form. -/
theorem Store.put_wf (m : Store α) (k : Nat) (l : List α) (h : m.wf d = true) :
    (m.put d k l).wf d = true := by
  unfold Store.put
  refine Store.append_wf d _ _ k (Store.filter_wf d m _ h) ?_ (Store.mem_below m k) ?_
  · exact Store.append_wf d _ _ (k + l.length) (Store.run_wf d k l) (Store.filter_wf d m _ h)
      (fun e he => (Store.run_key d k l e he).2) (Store.mem_above m _)
  · intro e he
    rcases List.mem_append.mp he with he | he
    · exact (Store.run_key d k l e he).1
    · have := Store.mem_above m _ e he
      omega

theorem Store.set_wf (m : Store α) (k : Nat) (v : α) (h : m.wf d = true) :
    (m.set d k v).wf d = true := Store.put_wf d m k [v] h

end Write

end Sys2Proof
end

