-- ==== Sys2Proof/Laws/State.lean ====
section
/-!
SUPPORT. What each update of the state leaves in each field, and what each look-up reads after it.
-/
namespace Sys2Proof.Machine

open Sys2Proof

section Fields
variable (s : State)
@[simp] theorem State.setCtx_cycle (c : Nat) (x : Ctx) : (s.setCtx c x).cycle = s.cycle := rfl
@[simp] theorem State.setCtx_agenda (c : Nat) (x : Ctx) : (s.setCtx c x).agenda = s.agenda := rfl
@[simp] theorem State.setCtx_todo (c : Nat) (x : Ctx) : (s.setCtx c x).todo = s.todo := rfl
@[simp] theorem State.setCtx_delays (c : Nat) (x : Ctx) : (s.setCtx c x).delays = s.delays := rfl
@[simp] theorem State.setCtx_freeCtr (c : Nat) (x : Ctx) : (s.setCtx c x).freeCtr = s.freeCtr := rfl
@[simp] theorem State.setCtx_cur (c : Nat) (x : Ctx) : (s.setCtx c x).cur = s.cur := rfl
@[simp] theorem State.setCtx_slot (c : Nat) (x : Ctx) : (s.setCtx c x).slot = s.slot := rfl
@[simp] theorem State.setCtx_mem (c : Nat) (x : Ctx) : (s.setCtx c x).mem = s.mem := rfl
@[simp] theorem State.setCtx_cores (c : Nat) (x : Ctx) : (s.setCtx c x).cores = s.cores := rfl
@[simp] theorem State.setCtx_clusters (c : Nat) (x : Ctx) : (s.setCtx c x).clusters = s.clusters := rfl
@[simp] theorem State.setCtx_slices (c : Nat) (x : Ctx) : (s.setCtx c x).slices = s.slices := rfl
@[simp] theorem State.setCtx_parts (c : Nat) (x : Ctx) : (s.setCtx c x).parts = s.parts := rfl
@[simp] theorem State.setCtx_terms (c : Nat) (x : Ctx) : (s.setCtx c x).terms = s.terms := rfl
@[simp] theorem State.setCtx_host (c : Nat) (x : Ctx) : (s.setCtx c x).host = s.host := rfl
@[simp] theorem State.setCtx_locks (c : Nat) (x : Ctx) : (s.setCtx c x).locks = s.locks := rfl
@[simp] theorem State.setCtx_tags (c : Nat) (x : Ctx) : (s.setCtx c x).tags = s.tags := rfl
@[simp] theorem State.setCtx_poison (c : Nat) (x : Ctx) : (s.setCtx c x).poison = s.poison := rfl
@[simp] theorem State.setCtx_errors (c : Nat) (x : Ctx) : (s.setCtx c x).errors = s.errors := rfl
@[simp] theorem State.setCtx_keys (c : Nat) (x : Ctx) : (s.setCtx c x).keys = s.keys := rfl
@[simp] theorem State.setCtx_nextIdent (c : Nat) (x : Ctx) : (s.setCtx c x).nextIdent = s.nextIdent := rfl
@[simp] theorem State.setCtx_core (c : Nat) (x : Ctx) (i : Nat) : (s.setCtx c x).core i = s.core i := rfl
@[simp] theorem State.setCtx_cluster (c : Nat) (x : Ctx) (i : Nat) : (s.setCtx c x).cluster i = s.cluster i := rfl
@[simp] theorem State.setCtx_slice (c : Nat) (x : Ctx) (i : Nat) : (s.setCtx c x).slice i = s.slice i := rfl
@[simp] theorem State.setCtx_part (c : Nat) (x : Ctx) (i : Nat) : (s.setCtx c x).part i = s.part i := rfl
@[simp] theorem State.setCtx_byte (c : Nat) (x : Ctx) (i : Nat) : (s.setCtx c x).byte i = s.byte i := rfl
@[simp] theorem State.updCtx_cycle (c : Nat) (f : Ctx → Ctx) : (s.updCtx c f).cycle = s.cycle := rfl
@[simp] theorem State.updCtx_agenda (c : Nat) (f : Ctx → Ctx) : (s.updCtx c f).agenda = s.agenda := rfl
@[simp] theorem State.updCtx_todo (c : Nat) (f : Ctx → Ctx) : (s.updCtx c f).todo = s.todo := rfl
@[simp] theorem State.updCtx_delays (c : Nat) (f : Ctx → Ctx) : (s.updCtx c f).delays = s.delays := rfl
@[simp] theorem State.updCtx_freeCtr (c : Nat) (f : Ctx → Ctx) : (s.updCtx c f).freeCtr = s.freeCtr := rfl
@[simp] theorem State.updCtx_cur (c : Nat) (f : Ctx → Ctx) : (s.updCtx c f).cur = s.cur := rfl
@[simp] theorem State.updCtx_slot (c : Nat) (f : Ctx → Ctx) : (s.updCtx c f).slot = s.slot := rfl
@[simp] theorem State.updCtx_mem (c : Nat) (f : Ctx → Ctx) : (s.updCtx c f).mem = s.mem := rfl
@[simp] theorem State.updCtx_cores (c : Nat) (f : Ctx → Ctx) : (s.updCtx c f).cores = s.cores := rfl
@[simp] theorem State.updCtx_clusters (c : Nat) (f : Ctx → Ctx) : (s.updCtx c f).clusters = s.clusters := rfl
@[simp] theorem State.updCtx_slices (c : Nat) (f : Ctx → Ctx) : (s.updCtx c f).slices = s.slices := rfl
@[simp] theorem State.updCtx_parts (c : Nat) (f : Ctx → Ctx) : (s.updCtx c f).parts = s.parts := rfl
@[simp] theorem State.updCtx_terms (c : Nat) (f : Ctx → Ctx) : (s.updCtx c f).terms = s.terms := rfl
@[simp] theorem State.updCtx_host (c : Nat) (f : Ctx → Ctx) : (s.updCtx c f).host = s.host := rfl
@[simp] theorem State.updCtx_locks (c : Nat) (f : Ctx → Ctx) : (s.updCtx c f).locks = s.locks := rfl
@[simp] theorem State.updCtx_tags (c : Nat) (f : Ctx → Ctx) : (s.updCtx c f).tags = s.tags := rfl
@[simp] theorem State.updCtx_poison (c : Nat) (f : Ctx → Ctx) : (s.updCtx c f).poison = s.poison := rfl
@[simp] theorem State.updCtx_errors (c : Nat) (f : Ctx → Ctx) : (s.updCtx c f).errors = s.errors := rfl
@[simp] theorem State.updCtx_keys (c : Nat) (f : Ctx → Ctx) : (s.updCtx c f).keys = s.keys := rfl
@[simp] theorem State.updCtx_nextIdent (c : Nat) (f : Ctx → Ctx) : (s.updCtx c f).nextIdent = s.nextIdent := rfl
@[simp] theorem State.updCtx_core (c : Nat) (f : Ctx → Ctx) (i : Nat) : (s.updCtx c f).core i = s.core i := rfl
@[simp] theorem State.updCtx_cluster (c : Nat) (f : Ctx → Ctx) (i : Nat) : (s.updCtx c f).cluster i = s.cluster i := rfl
@[simp] theorem State.updCtx_slice (c : Nat) (f : Ctx → Ctx) (i : Nat) : (s.updCtx c f).slice i = s.slice i := rfl
@[simp] theorem State.updCtx_part (c : Nat) (f : Ctx → Ctx) (i : Nat) : (s.updCtx c f).part i = s.part i := rfl
@[simp] theorem State.updCtx_byte (c : Nat) (f : Ctx → Ctx) (i : Nat) : (s.updCtx c f).byte i = s.byte i := rfl
@[simp] theorem State.setMe_cycle (x : Ctx) : (s.setMe x).cycle = s.cycle := rfl
@[simp] theorem State.setMe_agenda (x : Ctx) : (s.setMe x).agenda = s.agenda := rfl
@[simp] theorem State.setMe_todo (x : Ctx) : (s.setMe x).todo = s.todo := rfl
@[simp] theorem State.setMe_delays (x : Ctx) : (s.setMe x).delays = s.delays := rfl
@[simp] theorem State.setMe_freeCtr (x : Ctx) : (s.setMe x).freeCtr = s.freeCtr := rfl
@[simp] theorem State.setMe_cur (x : Ctx) : (s.setMe x).cur = s.cur := rfl
@[simp] theorem State.setMe_slot (x : Ctx) : (s.setMe x).slot = s.slot := rfl
@[simp] theorem State.setMe_mem (x : Ctx) : (s.setMe x).mem = s.mem := rfl
@[simp] theorem State.setMe_cores (x : Ctx) : (s.setMe x).cores = s.cores := rfl
@[simp] theorem State.setMe_clusters (x : Ctx) : (s.setMe x).clusters = s.clusters := rfl
@[simp] theorem State.setMe_slices (x : Ctx) : (s.setMe x).slices = s.slices := rfl
@[simp] theorem State.setMe_parts (x : Ctx) : (s.setMe x).parts = s.parts := rfl
@[simp] theorem State.setMe_terms (x : Ctx) : (s.setMe x).terms = s.terms := rfl
@[simp] theorem State.setMe_host (x : Ctx) : (s.setMe x).host = s.host := rfl
@[simp] theorem State.setMe_locks (x : Ctx) : (s.setMe x).locks = s.locks := rfl
@[simp] theorem State.setMe_tags (x : Ctx) : (s.setMe x).tags = s.tags := rfl
@[simp] theorem State.setMe_poison (x : Ctx) : (s.setMe x).poison = s.poison := rfl
@[simp] theorem State.setMe_errors (x : Ctx) : (s.setMe x).errors = s.errors := rfl
@[simp] theorem State.setMe_keys (x : Ctx) : (s.setMe x).keys = s.keys := rfl
@[simp] theorem State.setMe_nextIdent (x : Ctx) : (s.setMe x).nextIdent = s.nextIdent := rfl
@[simp] theorem State.setMe_core (x : Ctx) (i : Nat) : (s.setMe x).core i = s.core i := rfl
@[simp] theorem State.setMe_cluster (x : Ctx) (i : Nat) : (s.setMe x).cluster i = s.cluster i := rfl
@[simp] theorem State.setMe_slice (x : Ctx) (i : Nat) : (s.setMe x).slice i = s.slice i := rfl
@[simp] theorem State.setMe_part (x : Ctx) (i : Nat) : (s.setMe x).part i = s.part i := rfl
@[simp] theorem State.setMe_byte (x : Ctx) (i : Nat) : (s.setMe x).byte i = s.byte i := rfl
@[simp] theorem State.updMe_cycle (f : Ctx → Ctx) : (s.updMe f).cycle = s.cycle := rfl
@[simp] theorem State.updMe_agenda (f : Ctx → Ctx) : (s.updMe f).agenda = s.agenda := rfl
@[simp] theorem State.updMe_todo (f : Ctx → Ctx) : (s.updMe f).todo = s.todo := rfl
@[simp] theorem State.updMe_delays (f : Ctx → Ctx) : (s.updMe f).delays = s.delays := rfl
@[simp] theorem State.updMe_freeCtr (f : Ctx → Ctx) : (s.updMe f).freeCtr = s.freeCtr := rfl
@[simp] theorem State.updMe_cur (f : Ctx → Ctx) : (s.updMe f).cur = s.cur := rfl
@[simp] theorem State.updMe_slot (f : Ctx → Ctx) : (s.updMe f).slot = s.slot := rfl
@[simp] theorem State.updMe_mem (f : Ctx → Ctx) : (s.updMe f).mem = s.mem := rfl
@[simp] theorem State.updMe_cores (f : Ctx → Ctx) : (s.updMe f).cores = s.cores := rfl
@[simp] theorem State.updMe_clusters (f : Ctx → Ctx) : (s.updMe f).clusters = s.clusters := rfl
@[simp] theorem State.updMe_slices (f : Ctx → Ctx) : (s.updMe f).slices = s.slices := rfl
@[simp] theorem State.updMe_parts (f : Ctx → Ctx) : (s.updMe f).parts = s.parts := rfl
@[simp] theorem State.updMe_terms (f : Ctx → Ctx) : (s.updMe f).terms = s.terms := rfl
@[simp] theorem State.updMe_host (f : Ctx → Ctx) : (s.updMe f).host = s.host := rfl
@[simp] theorem State.updMe_locks (f : Ctx → Ctx) : (s.updMe f).locks = s.locks := rfl
@[simp] theorem State.updMe_tags (f : Ctx → Ctx) : (s.updMe f).tags = s.tags := rfl
@[simp] theorem State.updMe_poison (f : Ctx → Ctx) : (s.updMe f).poison = s.poison := rfl
@[simp] theorem State.updMe_errors (f : Ctx → Ctx) : (s.updMe f).errors = s.errors := rfl
@[simp] theorem State.updMe_keys (f : Ctx → Ctx) : (s.updMe f).keys = s.keys := rfl
@[simp] theorem State.updMe_nextIdent (f : Ctx → Ctx) : (s.updMe f).nextIdent = s.nextIdent := rfl
@[simp] theorem State.updMe_core (f : Ctx → Ctx) (i : Nat) : (s.updMe f).core i = s.core i := rfl
@[simp] theorem State.updMe_cluster (f : Ctx → Ctx) (i : Nat) : (s.updMe f).cluster i = s.cluster i := rfl
@[simp] theorem State.updMe_slice (f : Ctx → Ctx) (i : Nat) : (s.updMe f).slice i = s.slice i := rfl
@[simp] theorem State.updMe_part (f : Ctx → Ctx) (i : Nat) : (s.updMe f).part i = s.part i := rfl
@[simp] theorem State.updMe_byte (f : Ctx → Ctx) (i : Nat) : (s.updMe f).byte i = s.byte i := rfl
@[simp] theorem State.updIss_cycle (f : Issue → Issue) : (s.updIss f).cycle = s.cycle := rfl
@[simp] theorem State.updIss_agenda (f : Issue → Issue) : (s.updIss f).agenda = s.agenda := rfl
@[simp] theorem State.updIss_todo (f : Issue → Issue) : (s.updIss f).todo = s.todo := rfl
@[simp] theorem State.updIss_delays (f : Issue → Issue) : (s.updIss f).delays = s.delays := rfl
@[simp] theorem State.updIss_freeCtr (f : Issue → Issue) : (s.updIss f).freeCtr = s.freeCtr := rfl
@[simp] theorem State.updIss_cur (f : Issue → Issue) : (s.updIss f).cur = s.cur := rfl
@[simp] theorem State.updIss_slot (f : Issue → Issue) : (s.updIss f).slot = s.slot := rfl
@[simp] theorem State.updIss_mem (f : Issue → Issue) : (s.updIss f).mem = s.mem := rfl
@[simp] theorem State.updIss_cores (f : Issue → Issue) : (s.updIss f).cores = s.cores := rfl
@[simp] theorem State.updIss_clusters (f : Issue → Issue) : (s.updIss f).clusters = s.clusters := rfl
@[simp] theorem State.updIss_slices (f : Issue → Issue) : (s.updIss f).slices = s.slices := rfl
@[simp] theorem State.updIss_parts (f : Issue → Issue) : (s.updIss f).parts = s.parts := rfl
@[simp] theorem State.updIss_terms (f : Issue → Issue) : (s.updIss f).terms = s.terms := rfl
@[simp] theorem State.updIss_host (f : Issue → Issue) : (s.updIss f).host = s.host := rfl
@[simp] theorem State.updIss_locks (f : Issue → Issue) : (s.updIss f).locks = s.locks := rfl
@[simp] theorem State.updIss_tags (f : Issue → Issue) : (s.updIss f).tags = s.tags := rfl
@[simp] theorem State.updIss_poison (f : Issue → Issue) : (s.updIss f).poison = s.poison := rfl
@[simp] theorem State.updIss_errors (f : Issue → Issue) : (s.updIss f).errors = s.errors := rfl
@[simp] theorem State.updIss_keys (f : Issue → Issue) : (s.updIss f).keys = s.keys := rfl
@[simp] theorem State.updIss_nextIdent (f : Issue → Issue) : (s.updIss f).nextIdent = s.nextIdent := rfl
@[simp] theorem State.updIss_core (f : Issue → Issue) (i : Nat) : (s.updIss f).core i = s.core i := rfl
@[simp] theorem State.updIss_cluster (f : Issue → Issue) (i : Nat) : (s.updIss f).cluster i = s.cluster i := rfl
@[simp] theorem State.updIss_slice (f : Issue → Issue) (i : Nat) : (s.updIss f).slice i = s.slice i := rfl
@[simp] theorem State.updIss_part (f : Issue → Issue) (i : Nat) : (s.updIss f).part i = s.part i := rfl
@[simp] theorem State.updIss_byte (f : Issue → Issue) (i : Nat) : (s.updIss f).byte i = s.byte i := rfl
@[simp] theorem State.setTile_cycle (c th : Nat) (t : Option Tile) : (s.setTile c th t).cycle = s.cycle := rfl
@[simp] theorem State.setTile_agenda (c th : Nat) (t : Option Tile) : (s.setTile c th t).agenda = s.agenda := rfl
@[simp] theorem State.setTile_todo (c th : Nat) (t : Option Tile) : (s.setTile c th t).todo = s.todo := rfl
@[simp] theorem State.setTile_delays (c th : Nat) (t : Option Tile) : (s.setTile c th t).delays = s.delays := rfl
@[simp] theorem State.setTile_freeCtr (c th : Nat) (t : Option Tile) : (s.setTile c th t).freeCtr = s.freeCtr := rfl
@[simp] theorem State.setTile_cur (c th : Nat) (t : Option Tile) : (s.setTile c th t).cur = s.cur := rfl
@[simp] theorem State.setTile_slot (c th : Nat) (t : Option Tile) : (s.setTile c th t).slot = s.slot := rfl
@[simp] theorem State.setTile_mem (c th : Nat) (t : Option Tile) : (s.setTile c th t).mem = s.mem := rfl
@[simp] theorem State.setTile_cores (c th : Nat) (t : Option Tile) : (s.setTile c th t).cores = s.cores := rfl
@[simp] theorem State.setTile_clusters (c th : Nat) (t : Option Tile) : (s.setTile c th t).clusters = s.clusters := rfl
@[simp] theorem State.setTile_slices (c th : Nat) (t : Option Tile) : (s.setTile c th t).slices = s.slices := rfl
@[simp] theorem State.setTile_parts (c th : Nat) (t : Option Tile) : (s.setTile c th t).parts = s.parts := rfl
@[simp] theorem State.setTile_terms (c th : Nat) (t : Option Tile) : (s.setTile c th t).terms = s.terms := rfl
@[simp] theorem State.setTile_host (c th : Nat) (t : Option Tile) : (s.setTile c th t).host = s.host := rfl
@[simp] theorem State.setTile_locks (c th : Nat) (t : Option Tile) : (s.setTile c th t).locks = s.locks := rfl
@[simp] theorem State.setTile_tags (c th : Nat) (t : Option Tile) : (s.setTile c th t).tags = s.tags := rfl
@[simp] theorem State.setTile_poison (c th : Nat) (t : Option Tile) : (s.setTile c th t).poison = s.poison := rfl
@[simp] theorem State.setTile_errors (c th : Nat) (t : Option Tile) : (s.setTile c th t).errors = s.errors := rfl
@[simp] theorem State.setTile_keys (c th : Nat) (t : Option Tile) : (s.setTile c th t).keys = s.keys := rfl
@[simp] theorem State.setTile_nextIdent (c th : Nat) (t : Option Tile) :
    (s.setTile c th t).nextIdent = s.nextIdent := rfl
@[simp] theorem State.setTile_core (c th : Nat) (t : Option Tile) (i : Nat) : (s.setTile c th t).core i = s.core i :=
  rfl
@[simp] theorem State.setTile_cluster (c th : Nat) (t : Option Tile) (i : Nat) :
    (s.setTile c th t).cluster i = s.cluster i := rfl
@[simp] theorem State.setTile_slice (c th : Nat) (t : Option Tile) (i : Nat) :
    (s.setTile c th t).slice i = s.slice i := rfl
@[simp] theorem State.setTile_part (c th : Nat) (t : Option Tile) (i : Nat) : (s.setTile c th t).part i = s.part i :=
  rfl
@[simp] theorem State.setTile_byte (c th : Nat) (t : Option Tile) (i : Nat) : (s.setTile c th t).byte i = s.byte i :=
  rfl
@[simp] theorem State.setCore_cycle (k : Nat) (x : Core) : (s.setCore k x).cycle = s.cycle := rfl
@[simp] theorem State.setCore_agenda (k : Nat) (x : Core) : (s.setCore k x).agenda = s.agenda := rfl
@[simp] theorem State.setCore_todo (k : Nat) (x : Core) : (s.setCore k x).todo = s.todo := rfl
@[simp] theorem State.setCore_delays (k : Nat) (x : Core) : (s.setCore k x).delays = s.delays := rfl
@[simp] theorem State.setCore_freeCtr (k : Nat) (x : Core) : (s.setCore k x).freeCtr = s.freeCtr := rfl
@[simp] theorem State.setCore_cur (k : Nat) (x : Core) : (s.setCore k x).cur = s.cur := rfl
@[simp] theorem State.setCore_slot (k : Nat) (x : Core) : (s.setCore k x).slot = s.slot := rfl
@[simp] theorem State.setCore_mem (k : Nat) (x : Core) : (s.setCore k x).mem = s.mem := rfl
@[simp] theorem State.setCore_ctxs (k : Nat) (x : Core) : (s.setCore k x).ctxs = s.ctxs := rfl
@[simp] theorem State.setCore_clusters (k : Nat) (x : Core) : (s.setCore k x).clusters = s.clusters := rfl
@[simp] theorem State.setCore_slices (k : Nat) (x : Core) : (s.setCore k x).slices = s.slices := rfl
@[simp] theorem State.setCore_parts (k : Nat) (x : Core) : (s.setCore k x).parts = s.parts := rfl
@[simp] theorem State.setCore_terms (k : Nat) (x : Core) : (s.setCore k x).terms = s.terms := rfl
@[simp] theorem State.setCore_host (k : Nat) (x : Core) : (s.setCore k x).host = s.host := rfl
@[simp] theorem State.setCore_locks (k : Nat) (x : Core) : (s.setCore k x).locks = s.locks := rfl
@[simp] theorem State.setCore_tags (k : Nat) (x : Core) : (s.setCore k x).tags = s.tags := rfl
@[simp] theorem State.setCore_poison (k : Nat) (x : Core) : (s.setCore k x).poison = s.poison := rfl
@[simp] theorem State.setCore_errors (k : Nat) (x : Core) : (s.setCore k x).errors = s.errors := rfl
@[simp] theorem State.setCore_keys (k : Nat) (x : Core) : (s.setCore k x).keys = s.keys := rfl
@[simp] theorem State.setCore_nextIdent (k : Nat) (x : Core) : (s.setCore k x).nextIdent = s.nextIdent := rfl
@[simp] theorem State.setCore_ctx (k : Nat) (x : Core) (i : Nat) : (s.setCore k x).ctx i = s.ctx i := rfl
@[simp] theorem State.setCore_cluster (k : Nat) (x : Core) (i : Nat) : (s.setCore k x).cluster i = s.cluster i := rfl
@[simp] theorem State.setCore_slice (k : Nat) (x : Core) (i : Nat) : (s.setCore k x).slice i = s.slice i := rfl
@[simp] theorem State.setCore_part (k : Nat) (x : Core) (i : Nat) : (s.setCore k x).part i = s.part i := rfl
@[simp] theorem State.setCore_me (k : Nat) (x : Core) : (s.setCore k x).me = s.me := rfl
@[simp] theorem State.setCore_byte (k : Nat) (x : Core) (i : Nat) : (s.setCore k x).byte i = s.byte i := rfl
@[simp] theorem State.updCore_cycle (k : Nat) (f : Core → Core) : (s.updCore k f).cycle = s.cycle := rfl
@[simp] theorem State.updCore_agenda (k : Nat) (f : Core → Core) : (s.updCore k f).agenda = s.agenda := rfl
@[simp] theorem State.updCore_todo (k : Nat) (f : Core → Core) : (s.updCore k f).todo = s.todo := rfl
@[simp] theorem State.updCore_delays (k : Nat) (f : Core → Core) : (s.updCore k f).delays = s.delays := rfl
@[simp] theorem State.updCore_freeCtr (k : Nat) (f : Core → Core) : (s.updCore k f).freeCtr = s.freeCtr := rfl
@[simp] theorem State.updCore_cur (k : Nat) (f : Core → Core) : (s.updCore k f).cur = s.cur := rfl
@[simp] theorem State.updCore_slot (k : Nat) (f : Core → Core) : (s.updCore k f).slot = s.slot := rfl
@[simp] theorem State.updCore_mem (k : Nat) (f : Core → Core) : (s.updCore k f).mem = s.mem := rfl
@[simp] theorem State.updCore_ctxs (k : Nat) (f : Core → Core) : (s.updCore k f).ctxs = s.ctxs := rfl
@[simp] theorem State.updCore_clusters (k : Nat) (f : Core → Core) : (s.updCore k f).clusters = s.clusters := rfl
@[simp] theorem State.updCore_slices (k : Nat) (f : Core → Core) : (s.updCore k f).slices = s.slices := rfl
@[simp] theorem State.updCore_parts (k : Nat) (f : Core → Core) : (s.updCore k f).parts = s.parts := rfl
@[simp] theorem State.updCore_terms (k : Nat) (f : Core → Core) : (s.updCore k f).terms = s.terms := rfl
@[simp] theorem State.updCore_host (k : Nat) (f : Core → Core) : (s.updCore k f).host = s.host := rfl
@[simp] theorem State.updCore_locks (k : Nat) (f : Core → Core) : (s.updCore k f).locks = s.locks := rfl
@[simp] theorem State.updCore_tags (k : Nat) (f : Core → Core) : (s.updCore k f).tags = s.tags := rfl
@[simp] theorem State.updCore_poison (k : Nat) (f : Core → Core) : (s.updCore k f).poison = s.poison := rfl
@[simp] theorem State.updCore_errors (k : Nat) (f : Core → Core) : (s.updCore k f).errors = s.errors := rfl
@[simp] theorem State.updCore_keys (k : Nat) (f : Core → Core) : (s.updCore k f).keys = s.keys := rfl
@[simp] theorem State.updCore_nextIdent (k : Nat) (f : Core → Core) : (s.updCore k f).nextIdent = s.nextIdent := rfl
@[simp] theorem State.updCore_ctx (k : Nat) (f : Core → Core) (i : Nat) : (s.updCore k f).ctx i = s.ctx i := rfl
@[simp] theorem State.updCore_cluster (k : Nat) (f : Core →
  Core) (i : Nat) : (s.updCore k f).cluster i = s.cluster i := rfl
@[simp] theorem State.updCore_slice (k : Nat) (f : Core → Core) (i : Nat) : (s.updCore k f).slice i = s.slice i := rfl
@[simp] theorem State.updCore_part (k : Nat) (f : Core → Core) (i : Nat) : (s.updCore k f).part i = s.part i := rfl
@[simp] theorem State.updCore_me (k : Nat) (f : Core → Core) : (s.updCore k f).me = s.me := rfl
@[simp] theorem State.updCore_byte (k : Nat) (f : Core → Core) (i : Nat) : (s.updCore k f).byte i = s.byte i := rfl
@[simp] theorem State.setCluster_cycle (k : Nat) (x : Cluster) : (s.setCluster k x).cycle = s.cycle := rfl
@[simp] theorem State.setCluster_agenda (k : Nat) (x : Cluster) : (s.setCluster k x).agenda = s.agenda := rfl
@[simp] theorem State.setCluster_todo (k : Nat) (x : Cluster) : (s.setCluster k x).todo = s.todo := rfl
@[simp] theorem State.setCluster_delays (k : Nat) (x : Cluster) : (s.setCluster k x).delays = s.delays := rfl
@[simp] theorem State.setCluster_freeCtr (k : Nat) (x : Cluster) : (s.setCluster k x).freeCtr = s.freeCtr := rfl
@[simp] theorem State.setCluster_cur (k : Nat) (x : Cluster) : (s.setCluster k x).cur = s.cur := rfl
@[simp] theorem State.setCluster_slot (k : Nat) (x : Cluster) : (s.setCluster k x).slot = s.slot := rfl
@[simp] theorem State.setCluster_mem (k : Nat) (x : Cluster) : (s.setCluster k x).mem = s.mem := rfl
@[simp] theorem State.setCluster_ctxs (k : Nat) (x : Cluster) : (s.setCluster k x).ctxs = s.ctxs := rfl
@[simp] theorem State.setCluster_cores (k : Nat) (x : Cluster) : (s.setCluster k x).cores = s.cores := rfl
@[simp] theorem State.setCluster_slices (k : Nat) (x : Cluster) : (s.setCluster k x).slices = s.slices := rfl
@[simp] theorem State.setCluster_parts (k : Nat) (x : Cluster) : (s.setCluster k x).parts = s.parts := rfl
@[simp] theorem State.setCluster_terms (k : Nat) (x : Cluster) : (s.setCluster k x).terms = s.terms := rfl
@[simp] theorem State.setCluster_host (k : Nat) (x : Cluster) : (s.setCluster k x).host = s.host := rfl
@[simp] theorem State.setCluster_locks (k : Nat) (x : Cluster) : (s.setCluster k x).locks = s.locks := rfl
@[simp] theorem State.setCluster_tags (k : Nat) (x : Cluster) : (s.setCluster k x).tags = s.tags := rfl
@[simp] theorem State.setCluster_poison (k : Nat) (x : Cluster) : (s.setCluster k x).poison = s.poison := rfl
@[simp] theorem State.setCluster_errors (k : Nat) (x : Cluster) : (s.setCluster k x).errors = s.errors := rfl
@[simp] theorem State.setCluster_keys (k : Nat) (x : Cluster) : (s.setCluster k x).keys = s.keys := rfl
@[simp] theorem State.setCluster_nextIdent (k : Nat) (x : Cluster) : (s.setCluster k x).nextIdent = s.nextIdent := rfl
@[simp] theorem State.setCluster_ctx (k : Nat) (x : Cluster) (i : Nat) : (s.setCluster k x).ctx i = s.ctx i := rfl
@[simp] theorem State.setCluster_core (k : Nat) (x : Cluster) (i : Nat) : (s.setCluster k x).core i = s.core i := rfl
@[simp] theorem State.setCluster_slice (k : Nat) (x : Cluster) (i : Nat) : (s.setCluster k x).slice i = s.slice i := rfl
@[simp] theorem State.setCluster_part (k : Nat) (x : Cluster) (i : Nat) : (s.setCluster k x).part i = s.part i := rfl
@[simp] theorem State.setCluster_me (k : Nat) (x : Cluster) : (s.setCluster k x).me = s.me := rfl
@[simp] theorem State.setCluster_byte (k : Nat) (x : Cluster) (i : Nat) : (s.setCluster k x).byte i = s.byte i := rfl
@[simp] theorem State.updCluster_cycle (k : Nat) (f : Cluster → Cluster) : (s.updCluster k f).cycle = s.cycle := rfl
@[simp] theorem State.updCluster_agenda (k : Nat) (f : Cluster → Cluster) : (s.updCluster k f).agenda = s.agenda := rfl
@[simp] theorem State.updCluster_todo (k : Nat) (f : Cluster → Cluster) : (s.updCluster k f).todo = s.todo := rfl
@[simp] theorem State.updCluster_delays (k : Nat) (f : Cluster → Cluster) : (s.updCluster k f).delays = s.delays := rfl
@[simp] theorem State.updCluster_freeCtr (k : Nat) (f : Cluster →
  Cluster) : (s.updCluster k f).freeCtr = s.freeCtr := rfl
@[simp] theorem State.updCluster_cur (k : Nat) (f : Cluster → Cluster) : (s.updCluster k f).cur = s.cur := rfl
@[simp] theorem State.updCluster_slot (k : Nat) (f : Cluster → Cluster) : (s.updCluster k f).slot = s.slot := rfl
@[simp] theorem State.updCluster_mem (k : Nat) (f : Cluster → Cluster) : (s.updCluster k f).mem = s.mem := rfl
@[simp] theorem State.updCluster_ctxs (k : Nat) (f : Cluster → Cluster) : (s.updCluster k f).ctxs = s.ctxs := rfl
@[simp] theorem State.updCluster_cores (k : Nat) (f : Cluster → Cluster) : (s.updCluster k f).cores = s.cores := rfl
@[simp] theorem State.updCluster_slices (k : Nat) (f : Cluster → Cluster) : (s.updCluster k f).slices = s.slices := rfl
@[simp] theorem State.updCluster_parts (k : Nat) (f : Cluster → Cluster) : (s.updCluster k f).parts = s.parts := rfl
@[simp] theorem State.updCluster_terms (k : Nat) (f : Cluster → Cluster) : (s.updCluster k f).terms = s.terms := rfl
@[simp] theorem State.updCluster_host (k : Nat) (f : Cluster → Cluster) : (s.updCluster k f).host = s.host := rfl
@[simp] theorem State.updCluster_locks (k : Nat) (f : Cluster → Cluster) : (s.updCluster k f).locks = s.locks := rfl
@[simp] theorem State.updCluster_tags (k : Nat) (f : Cluster → Cluster) : (s.updCluster k f).tags = s.tags := rfl
@[simp] theorem State.updCluster_poison (k : Nat) (f : Cluster → Cluster) : (s.updCluster k f).poison = s.poison := rfl
@[simp] theorem State.updCluster_errors (k : Nat) (f : Cluster → Cluster) : (s.updCluster k f).errors = s.errors := rfl
@[simp] theorem State.updCluster_keys (k : Nat) (f : Cluster → Cluster) : (s.updCluster k f).keys = s.keys := rfl
@[simp] theorem State.updCluster_nextIdent (k : Nat) (f : Cluster →
  Cluster) : (s.updCluster k f).nextIdent = s.nextIdent := rfl
@[simp] theorem State.updCluster_ctx (k : Nat) (f : Cluster →
  Cluster) (i : Nat) : (s.updCluster k f).ctx i = s.ctx i := rfl
@[simp] theorem State.updCluster_core (k : Nat) (f : Cluster →
  Cluster) (i : Nat) : (s.updCluster k f).core i = s.core i := rfl
@[simp] theorem State.updCluster_slice (k : Nat) (f : Cluster →
  Cluster) (i : Nat) : (s.updCluster k f).slice i = s.slice i := rfl
@[simp] theorem State.updCluster_part (k : Nat) (f : Cluster →
  Cluster) (i : Nat) : (s.updCluster k f).part i = s.part i := rfl
@[simp] theorem State.updCluster_me (k : Nat) (f : Cluster → Cluster) : (s.updCluster k f).me = s.me := rfl
@[simp] theorem State.updCluster_byte (k : Nat) (f : Cluster →
  Cluster) (i : Nat) : (s.updCluster k f).byte i = s.byte i := rfl
@[simp] theorem State.setSlice_cycle (k : Nat) (x : Slice) : (s.setSlice k x).cycle = s.cycle := rfl
@[simp] theorem State.setSlice_agenda (k : Nat) (x : Slice) : (s.setSlice k x).agenda = s.agenda := rfl
@[simp] theorem State.setSlice_todo (k : Nat) (x : Slice) : (s.setSlice k x).todo = s.todo := rfl
@[simp] theorem State.setSlice_delays (k : Nat) (x : Slice) : (s.setSlice k x).delays = s.delays := rfl
@[simp] theorem State.setSlice_freeCtr (k : Nat) (x : Slice) : (s.setSlice k x).freeCtr = s.freeCtr := rfl
@[simp] theorem State.setSlice_cur (k : Nat) (x : Slice) : (s.setSlice k x).cur = s.cur := rfl
@[simp] theorem State.setSlice_slot (k : Nat) (x : Slice) : (s.setSlice k x).slot = s.slot := rfl
@[simp] theorem State.setSlice_mem (k : Nat) (x : Slice) : (s.setSlice k x).mem = s.mem := rfl
@[simp] theorem State.setSlice_ctxs (k : Nat) (x : Slice) : (s.setSlice k x).ctxs = s.ctxs := rfl
@[simp] theorem State.setSlice_cores (k : Nat) (x : Slice) : (s.setSlice k x).cores = s.cores := rfl
@[simp] theorem State.setSlice_clusters (k : Nat) (x : Slice) : (s.setSlice k x).clusters = s.clusters := rfl
@[simp] theorem State.setSlice_parts (k : Nat) (x : Slice) : (s.setSlice k x).parts = s.parts := rfl
@[simp] theorem State.setSlice_terms (k : Nat) (x : Slice) : (s.setSlice k x).terms = s.terms := rfl
@[simp] theorem State.setSlice_host (k : Nat) (x : Slice) : (s.setSlice k x).host = s.host := rfl
@[simp] theorem State.setSlice_locks (k : Nat) (x : Slice) : (s.setSlice k x).locks = s.locks := rfl
@[simp] theorem State.setSlice_tags (k : Nat) (x : Slice) : (s.setSlice k x).tags = s.tags := rfl
@[simp] theorem State.setSlice_poison (k : Nat) (x : Slice) : (s.setSlice k x).poison = s.poison := rfl
@[simp] theorem State.setSlice_errors (k : Nat) (x : Slice) : (s.setSlice k x).errors = s.errors := rfl
@[simp] theorem State.setSlice_keys (k : Nat) (x : Slice) : (s.setSlice k x).keys = s.keys := rfl
@[simp] theorem State.setSlice_nextIdent (k : Nat) (x : Slice) : (s.setSlice k x).nextIdent = s.nextIdent := rfl
@[simp] theorem State.setSlice_ctx (k : Nat) (x : Slice) (i : Nat) : (s.setSlice k x).ctx i = s.ctx i := rfl
@[simp] theorem State.setSlice_core (k : Nat) (x : Slice) (i : Nat) : (s.setSlice k x).core i = s.core i := rfl
@[simp] theorem State.setSlice_cluster (k : Nat) (x : Slice) (i : Nat) : (s.setSlice k x).cluster i = s.cluster i := rfl
@[simp] theorem State.setSlice_part (k : Nat) (x : Slice) (i : Nat) : (s.setSlice k x).part i = s.part i := rfl
@[simp] theorem State.setSlice_me (k : Nat) (x : Slice) : (s.setSlice k x).me = s.me := rfl
@[simp] theorem State.setPart_cycle (p : Nat) (x : Part) : (s.setPart p x).cycle = s.cycle := rfl
@[simp] theorem State.setPart_agenda (p : Nat) (x : Part) : (s.setPart p x).agenda = s.agenda := rfl
@[simp] theorem State.setPart_todo (p : Nat) (x : Part) : (s.setPart p x).todo = s.todo := rfl
@[simp] theorem State.setPart_delays (p : Nat) (x : Part) : (s.setPart p x).delays = s.delays := rfl
@[simp] theorem State.setPart_freeCtr (p : Nat) (x : Part) : (s.setPart p x).freeCtr = s.freeCtr := rfl
@[simp] theorem State.setPart_cur (p : Nat) (x : Part) : (s.setPart p x).cur = s.cur := rfl
@[simp] theorem State.setPart_slot (p : Nat) (x : Part) : (s.setPart p x).slot = s.slot := rfl
@[simp] theorem State.setPart_mem (p : Nat) (x : Part) : (s.setPart p x).mem = s.mem := rfl
@[simp] theorem State.setPart_ctxs (p : Nat) (x : Part) : (s.setPart p x).ctxs = s.ctxs := rfl
@[simp] theorem State.setPart_cores (p : Nat) (x : Part) : (s.setPart p x).cores = s.cores := rfl
@[simp] theorem State.setPart_clusters (p : Nat) (x : Part) : (s.setPart p x).clusters = s.clusters := rfl
@[simp] theorem State.setPart_slices (p : Nat) (x : Part) : (s.setPart p x).slices = s.slices := rfl
@[simp] theorem State.setPart_terms (p : Nat) (x : Part) : (s.setPart p x).terms = s.terms := rfl
@[simp] theorem State.setPart_host (p : Nat) (x : Part) : (s.setPart p x).host = s.host := rfl
@[simp] theorem State.setPart_locks (p : Nat) (x : Part) : (s.setPart p x).locks = s.locks := rfl
@[simp] theorem State.setPart_tags (p : Nat) (x : Part) : (s.setPart p x).tags = s.tags := rfl
@[simp] theorem State.setPart_poison (p : Nat) (x : Part) : (s.setPart p x).poison = s.poison := rfl
@[simp] theorem State.setPart_errors (p : Nat) (x : Part) : (s.setPart p x).errors = s.errors := rfl
@[simp] theorem State.setPart_keys (p : Nat) (x : Part) : (s.setPart p x).keys = s.keys := rfl
@[simp] theorem State.setPart_nextIdent (p : Nat) (x : Part) : (s.setPart p x).nextIdent = s.nextIdent := rfl
@[simp] theorem State.setPart_ctx (p : Nat) (x : Part) (i : Nat) : (s.setPart p x).ctx i = s.ctx i := rfl
@[simp] theorem State.setPart_core (p : Nat) (x : Part) (i : Nat) : (s.setPart p x).core i = s.core i := rfl
@[simp] theorem State.setPart_cluster (p : Nat) (x : Part) (i : Nat) : (s.setPart p x).cluster i = s.cluster i := rfl
@[simp] theorem State.setPart_slice (p : Nat) (x : Part) (i : Nat) : (s.setPart p x).slice i = s.slice i := rfl
@[simp] theorem State.setPart_me (p : Nat) (x : Part) : (s.setPart p x).me = s.me := rfl
@[simp] theorem State.updPart_cycle (p : Nat) (f : Part → Part) : (s.updPart p f).cycle = s.cycle := rfl
@[simp] theorem State.updPart_agenda (p : Nat) (f : Part → Part) : (s.updPart p f).agenda = s.agenda := rfl
@[simp] theorem State.updPart_todo (p : Nat) (f : Part → Part) : (s.updPart p f).todo = s.todo := rfl
@[simp] theorem State.updPart_delays (p : Nat) (f : Part → Part) : (s.updPart p f).delays = s.delays := rfl
@[simp] theorem State.updPart_freeCtr (p : Nat) (f : Part → Part) : (s.updPart p f).freeCtr = s.freeCtr := rfl
@[simp] theorem State.updPart_cur (p : Nat) (f : Part → Part) : (s.updPart p f).cur = s.cur := rfl
@[simp] theorem State.updPart_slot (p : Nat) (f : Part → Part) : (s.updPart p f).slot = s.slot := rfl
@[simp] theorem State.updPart_mem (p : Nat) (f : Part → Part) : (s.updPart p f).mem = s.mem := rfl
@[simp] theorem State.updPart_ctxs (p : Nat) (f : Part → Part) : (s.updPart p f).ctxs = s.ctxs := rfl
@[simp] theorem State.updPart_cores (p : Nat) (f : Part → Part) : (s.updPart p f).cores = s.cores := rfl
@[simp] theorem State.updPart_clusters (p : Nat) (f : Part → Part) : (s.updPart p f).clusters = s.clusters := rfl
@[simp] theorem State.updPart_slices (p : Nat) (f : Part → Part) : (s.updPart p f).slices = s.slices := rfl
@[simp] theorem State.updPart_terms (p : Nat) (f : Part → Part) : (s.updPart p f).terms = s.terms := rfl
@[simp] theorem State.updPart_host (p : Nat) (f : Part → Part) : (s.updPart p f).host = s.host := rfl
@[simp] theorem State.updPart_locks (p : Nat) (f : Part → Part) : (s.updPart p f).locks = s.locks := rfl
@[simp] theorem State.updPart_tags (p : Nat) (f : Part → Part) : (s.updPart p f).tags = s.tags := rfl
@[simp] theorem State.updPart_poison (p : Nat) (f : Part → Part) : (s.updPart p f).poison = s.poison := rfl
@[simp] theorem State.updPart_errors (p : Nat) (f : Part → Part) : (s.updPart p f).errors = s.errors := rfl
@[simp] theorem State.updPart_keys (p : Nat) (f : Part → Part) : (s.updPart p f).keys = s.keys := rfl
@[simp] theorem State.updPart_nextIdent (p : Nat) (f : Part → Part) : (s.updPart p f).nextIdent = s.nextIdent := rfl
@[simp] theorem State.updPart_ctx (p : Nat) (f : Part → Part) (i : Nat) : (s.updPart p f).ctx i = s.ctx i := rfl
@[simp] theorem State.updPart_core (p : Nat) (f : Part → Part) (i : Nat) : (s.updPart p f).core i = s.core i := rfl
@[simp] theorem State.updPart_cluster (p : Nat) (f : Part →
  Part) (i : Nat) : (s.updPart p f).cluster i = s.cluster i := rfl
@[simp] theorem State.updPart_slice (p : Nat) (f : Part → Part) (i : Nat) : (s.updPart p f).slice i = s.slice i := rfl
@[simp] theorem State.updPart_me (p : Nat) (f : Part → Part) : (s.updPart p f).me = s.me := rfl
@[simp] theorem State.schedule_cycle (dt : Nat) (e : Instr) : (s.schedule dt e).cycle = s.cycle := rfl
@[simp] theorem State.schedule_todo (dt : Nat) (e : Instr) : (s.schedule dt e).todo = s.todo := rfl
@[simp] theorem State.schedule_delays (dt : Nat) (e : Instr) : (s.schedule dt e).delays = s.delays := rfl
@[simp] theorem State.schedule_freeCtr (dt : Nat) (e : Instr) : (s.schedule dt e).freeCtr = s.freeCtr := rfl
@[simp] theorem State.schedule_cur (dt : Nat) (e : Instr) : (s.schedule dt e).cur = s.cur := rfl
@[simp] theorem State.schedule_slot (dt : Nat) (e : Instr) : (s.schedule dt e).slot = s.slot := rfl
@[simp] theorem State.schedule_mem (dt : Nat) (e : Instr) : (s.schedule dt e).mem = s.mem := rfl
@[simp] theorem State.schedule_ctxs (dt : Nat) (e : Instr) : (s.schedule dt e).ctxs = s.ctxs := rfl
@[simp] theorem State.schedule_cores (dt : Nat) (e : Instr) : (s.schedule dt e).cores = s.cores := rfl
@[simp] theorem State.schedule_clusters (dt : Nat) (e : Instr) : (s.schedule dt e).clusters = s.clusters := rfl
@[simp] theorem State.schedule_slices (dt : Nat) (e : Instr) : (s.schedule dt e).slices = s.slices := rfl
@[simp] theorem State.schedule_parts (dt : Nat) (e : Instr) : (s.schedule dt e).parts = s.parts := rfl
@[simp] theorem State.schedule_terms (dt : Nat) (e : Instr) : (s.schedule dt e).terms = s.terms := rfl
@[simp] theorem State.schedule_host (dt : Nat) (e : Instr) : (s.schedule dt e).host = s.host := rfl
@[simp] theorem State.schedule_locks (dt : Nat) (e : Instr) : (s.schedule dt e).locks = s.locks := rfl
@[simp] theorem State.schedule_tags (dt : Nat) (e : Instr) : (s.schedule dt e).tags = s.tags := rfl
@[simp] theorem State.schedule_poison (dt : Nat) (e : Instr) : (s.schedule dt e).poison = s.poison := rfl
@[simp] theorem State.schedule_errors (dt : Nat) (e : Instr) : (s.schedule dt e).errors = s.errors := rfl
@[simp] theorem State.schedule_keys (dt : Nat) (e : Instr) : (s.schedule dt e).keys = s.keys := rfl
@[simp] theorem State.schedule_nextIdent (dt : Nat) (e : Instr) : (s.schedule dt e).nextIdent = s.nextIdent := rfl
@[simp] theorem State.schedule_ctx (dt : Nat) (e : Instr) (i : Nat) : (s.schedule dt e).ctx i = s.ctx i := rfl
@[simp] theorem State.schedule_core (dt : Nat) (e : Instr) (i : Nat) : (s.schedule dt e).core i = s.core i := rfl
@[simp] theorem State.schedule_cluster (dt : Nat) (e : Instr) (i : Nat) :
    (s.schedule dt e).cluster i = s.cluster i := rfl
@[simp] theorem State.schedule_slice (dt : Nat) (e : Instr) (i : Nat) : (s.schedule dt e).slice i = s.slice i := rfl
@[simp] theorem State.schedule_part (dt : Nat) (e : Instr) (i : Nat) : (s.schedule dt e).part i = s.part i := rfl
@[simp] theorem State.schedule_me (dt : Nat) (e : Instr) : (s.schedule dt e).me = s.me := rfl
@[simp] theorem State.schedule_byte (dt : Nat) (e : Instr) (i : Nat) : (s.schedule dt e).byte i = s.byte i := rfl
@[simp] theorem State.after_cycle (least : Nat) (e : Instr) : (s.after least e).cycle = s.cycle := rfl
@[simp] theorem State.after_todo (least : Nat) (e : Instr) : (s.after least e).todo = s.todo := rfl
@[simp] theorem State.after_freeCtr (least : Nat) (e : Instr) : (s.after least e).freeCtr = s.freeCtr := rfl
@[simp] theorem State.after_cur (least : Nat) (e : Instr) : (s.after least e).cur = s.cur := rfl
@[simp] theorem State.after_slot (least : Nat) (e : Instr) : (s.after least e).slot = s.slot := rfl
@[simp] theorem State.after_mem (least : Nat) (e : Instr) : (s.after least e).mem = s.mem := rfl
@[simp] theorem State.after_ctxs (least : Nat) (e : Instr) : (s.after least e).ctxs = s.ctxs := rfl
@[simp] theorem State.after_cores (least : Nat) (e : Instr) : (s.after least e).cores = s.cores := rfl
@[simp] theorem State.after_clusters (least : Nat) (e : Instr) : (s.after least e).clusters = s.clusters := rfl
@[simp] theorem State.after_slices (least : Nat) (e : Instr) : (s.after least e).slices = s.slices := rfl
@[simp] theorem State.after_parts (least : Nat) (e : Instr) : (s.after least e).parts = s.parts := rfl
@[simp] theorem State.after_terms (least : Nat) (e : Instr) : (s.after least e).terms = s.terms := rfl
@[simp] theorem State.after_host (least : Nat) (e : Instr) : (s.after least e).host = s.host := rfl
@[simp] theorem State.after_locks (least : Nat) (e : Instr) : (s.after least e).locks = s.locks := rfl
@[simp] theorem State.after_tags (least : Nat) (e : Instr) : (s.after least e).tags = s.tags := rfl
@[simp] theorem State.after_poison (least : Nat) (e : Instr) : (s.after least e).poison = s.poison := rfl
@[simp] theorem State.after_errors (least : Nat) (e : Instr) : (s.after least e).errors = s.errors := rfl
@[simp] theorem State.after_keys (least : Nat) (e : Instr) : (s.after least e).keys = s.keys := rfl
@[simp] theorem State.after_nextIdent (least : Nat) (e : Instr) : (s.after least e).nextIdent = s.nextIdent := rfl
@[simp] theorem State.after_ctx (least : Nat) (e : Instr) (i : Nat) : (s.after least e).ctx i = s.ctx i := rfl
@[simp] theorem State.after_core (least : Nat) (e : Instr) (i : Nat) : (s.after least e).core i = s.core i := rfl
@[simp] theorem State.after_cluster (least : Nat) (e : Instr) (i : Nat) :
    (s.after least e).cluster i = s.cluster i := rfl
@[simp] theorem State.after_slice (least : Nat) (e : Instr) (i : Nat) : (s.after least e).slice i = s.slice i := rfl
@[simp] theorem State.after_part (least : Nat) (e : Instr) (i : Nat) : (s.after least e).part i = s.part i := rfl
@[simp] theorem State.after_me (least : Nat) (e : Instr) : (s.after least e).me = s.me := rfl
@[simp] theorem State.after_byte (least : Nat) (e : Instr) (i : Nat) : (s.after least e).byte i = s.byte i := rfl
@[simp] theorem State.fresh_cycle : s.fresh.cycle = s.cycle := rfl
@[simp] theorem State.fresh_agenda : s.fresh.agenda = s.agenda := rfl
@[simp] theorem State.fresh_todo : s.fresh.todo = s.todo := rfl
@[simp] theorem State.fresh_delays : s.fresh.delays = s.delays := rfl
@[simp] theorem State.fresh_freeCtr : s.fresh.freeCtr = s.freeCtr := rfl
@[simp] theorem State.fresh_cur : s.fresh.cur = s.cur := rfl
@[simp] theorem State.fresh_slot : s.fresh.slot = s.slot := rfl
@[simp] theorem State.fresh_mem : s.fresh.mem = s.mem := rfl
@[simp] theorem State.fresh_ctxs : s.fresh.ctxs = s.ctxs := rfl
@[simp] theorem State.fresh_cores : s.fresh.cores = s.cores := rfl
@[simp] theorem State.fresh_clusters : s.fresh.clusters = s.clusters := rfl
@[simp] theorem State.fresh_slices : s.fresh.slices = s.slices := rfl
@[simp] theorem State.fresh_parts : s.fresh.parts = s.parts := rfl
@[simp] theorem State.fresh_terms : s.fresh.terms = s.terms := rfl
@[simp] theorem State.fresh_host : s.fresh.host = s.host := rfl
@[simp] theorem State.fresh_locks : s.fresh.locks = s.locks := rfl
@[simp] theorem State.fresh_tags : s.fresh.tags = s.tags := rfl
@[simp] theorem State.fresh_poison : s.fresh.poison = s.poison := rfl
@[simp] theorem State.fresh_errors : s.fresh.errors = s.errors := rfl
@[simp] theorem State.fresh_keys : s.fresh.keys = s.keys := rfl
@[simp] theorem State.fresh_ctx (i : Nat) : s.fresh.ctx i = s.ctx i := rfl
@[simp] theorem State.fresh_core (i : Nat) : s.fresh.core i = s.core i := rfl
@[simp] theorem State.fresh_cluster (i : Nat) : s.fresh.cluster i = s.cluster i := rfl
@[simp] theorem State.fresh_slice (i : Nat) : s.fresh.slice i = s.slice i := rfl
@[simp] theorem State.fresh_part (i : Nat) : s.fresh.part i = s.part i := rfl
@[simp] theorem State.fresh_me : s.fresh.me = s.me := rfl
@[simp] theorem State.fresh_byte (i : Nat) : s.fresh.byte i = s.byte i := rfl
@[simp] theorem State.wrMem_cycle (k : Nat) (l : List Byte) : (s.wrMem k l).cycle = s.cycle := rfl
@[simp] theorem State.wrMem_agenda (k : Nat) (l : List Byte) : (s.wrMem k l).agenda = s.agenda := rfl
@[simp] theorem State.wrMem_todo (k : Nat) (l : List Byte) : (s.wrMem k l).todo = s.todo := rfl
@[simp] theorem State.wrMem_delays (k : Nat) (l : List Byte) : (s.wrMem k l).delays = s.delays := rfl
@[simp] theorem State.wrMem_freeCtr (k : Nat) (l : List Byte) : (s.wrMem k l).freeCtr = s.freeCtr := rfl
@[simp] theorem State.wrMem_cur (k : Nat) (l : List Byte) : (s.wrMem k l).cur = s.cur := rfl
@[simp] theorem State.wrMem_slot (k : Nat) (l : List Byte) : (s.wrMem k l).slot = s.slot := rfl
@[simp] theorem State.wrMem_ctxs (k : Nat) (l : List Byte) : (s.wrMem k l).ctxs = s.ctxs := rfl
@[simp] theorem State.wrMem_cores (k : Nat) (l : List Byte) : (s.wrMem k l).cores = s.cores := rfl
@[simp] theorem State.wrMem_clusters (k : Nat) (l : List Byte) : (s.wrMem k l).clusters = s.clusters := rfl
@[simp] theorem State.wrMem_slices (k : Nat) (l : List Byte) : (s.wrMem k l).slices = s.slices := rfl
@[simp] theorem State.wrMem_parts (k : Nat) (l : List Byte) : (s.wrMem k l).parts = s.parts := rfl
@[simp] theorem State.wrMem_terms (k : Nat) (l : List Byte) : (s.wrMem k l).terms = s.terms := rfl
@[simp] theorem State.wrMem_host (k : Nat) (l : List Byte) : (s.wrMem k l).host = s.host := rfl
@[simp] theorem State.wrMem_locks (k : Nat) (l : List Byte) : (s.wrMem k l).locks = s.locks := rfl
@[simp] theorem State.wrMem_poison (k : Nat) (l : List Byte) : (s.wrMem k l).poison = s.poison := rfl
@[simp] theorem State.wrMem_errors (k : Nat) (l : List Byte) : (s.wrMem k l).errors = s.errors := rfl
@[simp] theorem State.wrMem_keys (k : Nat) (l : List Byte) : (s.wrMem k l).keys = s.keys := rfl
@[simp] theorem State.wrMem_nextIdent (k : Nat) (l : List Byte) : (s.wrMem k l).nextIdent = s.nextIdent := rfl
@[simp] theorem State.wrMem_ctx (k : Nat) (l : List Byte) (i : Nat) : (s.wrMem k l).ctx i = s.ctx i := rfl
@[simp] theorem State.wrMem_core (k : Nat) (l : List Byte) (i : Nat) : (s.wrMem k l).core i = s.core i := rfl
@[simp] theorem State.wrMem_cluster (k : Nat) (l : List Byte) (i : Nat) : (s.wrMem k l).cluster i = s.cluster i := rfl
@[simp] theorem State.wrMem_slice (k : Nat) (l : List Byte) (i : Nat) : (s.wrMem k l).slice i = s.slice i := rfl
@[simp] theorem State.wrMem_part (k : Nat) (l : List Byte) (i : Nat) : (s.wrMem k l).part i = s.part i := rfl
@[simp] theorem State.wrMem_me (k : Nat) (l : List Byte) : (s.wrMem k l).me = s.me := rfl

end Fields

/-! ### Look-ups after the update of the same collection -/

section Lookups
variable (s : State)

@[simp] theorem State.setCtx_ctx_self (c : Nat) (x : Ctx) : (s.setCtx c x).ctx c = x := by
  simp [State.ctx, State.setCtx]
theorem State.setCtx_ctx_ne (c : Nat) (x : Ctx) (d : Nat) (h : d ≠ c) :
    (s.setCtx c x).ctx d = s.ctx d := Store.get_set_ne _ _ _ _ _ h
@[simp] theorem State.updCtx_ctx_self (c : Nat) (f : Ctx → Ctx) :
    (s.updCtx c f).ctx c = f (s.ctx c) := s.setCtx_ctx_self c _
theorem State.updCtx_ctx_ne (c : Nat) (f : Ctx → Ctx) (d : Nat) (h : d ≠ c) :
    (s.updCtx c f).ctx d = s.ctx d := s.setCtx_ctx_ne c _ d h
@[simp] theorem State.updMe_me (f : Ctx → Ctx) : (s.updMe f).me = f s.me := s.updCtx_ctx_self _ f
@[simp] theorem State.setMe_me (x : Ctx) : (s.setMe x).me = x := s.setCtx_ctx_self _ x
theorem State.updMe_ctx_ne (f : Ctx → Ctx) (d : Nat) (h : d ≠ s.cur) :
    (s.updMe f).ctx d = s.ctx d := s.setCtx_ctx_ne _ _ d h
@[simp] theorem State.updMe_ctx_cur (f : Ctx → Ctx) : (s.updMe f).ctx s.cur = f s.me :=
  s.setCtx_ctx_self _ _
@[simp] theorem State.updIss_me (f : Issue → Issue) :
    (s.updIss f).me = { s.me with iss := f s.me.iss } := s.updMe_me _
@[simp] theorem State.updIss_iss (f : Issue → Issue) : (s.updIss f).iss = f s.iss := by
  simp [State.iss]

@[simp] theorem State.setCore_core_self (k : Nat) (x : Core) : (s.setCore k x).core k = x := by
  simp [State.core, State.setCore]
theorem State.setCore_core_ne (k : Nat) (x : Core) (j : Nat) (h : j ≠ k) :
    (s.setCore k x).core j = s.core j := Store.get_set_ne _ _ _ _ _ h
@[simp] theorem State.updCore_core_self (k : Nat) (f : Core → Core) :
    (s.updCore k f).core k = f (s.core k) := s.setCore_core_self k _
theorem State.updCore_core_ne (k : Nat) (f : Core → Core) (j : Nat) (h : j ≠ k) :
    (s.updCore k f).core j = s.core j := s.setCore_core_ne k _ j h

@[simp] theorem State.setCluster_cluster_self (k : Nat) (x : Cluster) :
    (s.setCluster k x).cluster k = x := by
  simp [State.cluster, State.setCluster]
theorem State.setCluster_cluster_ne (k : Nat) (x : Cluster) (j : Nat) (h : j ≠ k) :
    (s.setCluster k x).cluster j = s.cluster j := Store.get_set_ne _ _ _ _ _ h
@[simp] theorem State.updCluster_cluster_self (k : Nat) (f : Cluster → Cluster) :
    (s.updCluster k f).cluster k = f (s.cluster k) := s.setCluster_cluster_self k _
theorem State.updCluster_cluster_ne (k : Nat) (f : Cluster → Cluster) (j : Nat) (h : j ≠ k) :
    (s.updCluster k f).cluster j = s.cluster j := s.setCluster_cluster_ne k _ j h

@[simp] theorem State.setSlice_slice_self (k : Nat) (x : Slice) : (s.setSlice k x).slice k = x := by
  simp [State.slice, State.setSlice]
theorem State.setSlice_slice_ne (k : Nat) (x : Slice) (j : Nat) (h : j ≠ k) :
    (s.setSlice k x).slice j = s.slice j := Store.get_set_ne _ _ _ _ _ h

@[simp] theorem State.setPart_part_self (p : Nat) (x : Part) : (s.setPart p x).part p = x := by
  simp [State.part, State.setPart]
theorem State.setPart_part_ne (p : Nat) (x : Part) (q : Nat) (h : q ≠ p) :
    (s.setPart p x).part q = s.part q := Store.get_set_ne _ _ _ _ _ h
@[simp] theorem State.updPart_part_self (p : Nat) (f : Part → Part) :
    (s.updPart p f).part p = f (s.part p) := s.setPart_part_self p _
theorem State.updPart_part_ne (p : Nat) (f : Part → Part) (q : Nat) (h : q ≠ p) :
    (s.updPart p f).part q = s.part q := s.setPart_part_ne p _ q h

/-! ### Tags and bytes (R300) -/

@[simp] theorem State.retag_parts (line : Nat) : (s.retag line).parts = s.parts := by
  unfold State.retag; split <;> rfl
@[simp] theorem State.retag_slices (line : Nat) : (s.retag line).slices = s.slices := by
  unfold State.retag; split <;> rfl
/-- The generation of a line's channel does not depend on tags. -/
theorem State.genOf_congr {s t : State} (hp : t.parts = s.parts) (hs : t.slices = s.slices) (line : Nat) :
    t.genOf line = s.genOf line := by
  simp [State.genOf, State.part, State.slice, hp, hs]
@[simp] theorem State.retag_genOf (line m : Nat) : (s.retag line).genOf m = s.genOf m :=
  State.genOf_congr (by simp) (by simp) m

/-- The tags of two states agree on a line: it is current in both or in neither. -/
theorem State.current_congr {s t : State} (line : Nat) (hg : t.genOf line = s.genOf line)
    (ht : Store.get 0 t.tags line = Store.get 0 s.tags line) : t.current line = s.current line := by
  simp only [State.current, hg, ht]

/-- A line is current after its retagging, and the others are what they were. -/
theorem State.retag_current (line m : Nat) : (s.retag line).current m = (decide (m = line) || s.current m) := by
  by_cases h : m = line
  · subst h
    by_cases hh : hostSpace ≤ (linePlace m).1
    · simp [State.current, hh]
    · simp only [State.current, State.retag_genOf]
      simp [State.retag, hh]
  · simp only [h, decide_false, Bool.false_or]
    refine State.current_congr m (by simp) ?_
    unfold State.retag
    split
    · rfl
    · exact Store.get_set_ne _ _ _ _ _ h

/-- Retagging changes no byte: a stale line reads zero before and after (R300). -/
@[simp] theorem State.retag_byte (line k : Nat) : (s.retag line).byte k = s.byte k := by
  unfold State.byte
  rw [State.retag_current]
  by_cases h : k / 128 = line
  · subst h
    by_cases hc : s.current (k / 128) = true
    · simp only [hc, Bool.or_true, if_true]
      unfold State.retag
      split <;> simp
    · have hh : ¬ hostSpace ≤ (linePlace (k / 128)).1 := fun h => hc (by simp [State.current, h])
      simp only [decide_true, Bool.true_or, if_true, hc, Bool.false_eq_true, if_false]
      unfold State.retag
      simp only [hh, hc, Bool.false_eq_true, if_false]
      refine Store.get_none _ _ _ fun e he hk => ?_
      have := (List.mem_filter.mp he).2
      simp only [decide_eq_true_eq] at this
      omega
  · simp only [h, decide_false, Bool.false_or]
    have e : Store.get memDefault (s.retag line).mem k = Store.get memDefault s.mem k := by
      unfold State.retag
      split
      · rfl
      · by_cases hc : s.current line = true
        · simp [hc]
        · simp only [hc, Bool.false_eq_true, if_false]
          refine Store.get_filter _ _ _ _ fun e he => ?_
          simp only [decide_eq_true_eq]
          omega
    rw [e]

theorem State.retagAll_byte (ls : List Nat) (k : Nat) : (ls.foldl State.retag s).byte k = s.byte k := by
  induction ls generalizing s with
  | nil => rfl
  | cons l t ih => simp [ih]

theorem State.retagAll_current (ls : List Nat) (m : Nat) :
    (ls.foldl State.retag s).current m = (decide (m ∈ ls) || s.current m) := by
  induction ls generalizing s with
  | nil => simp
  | cons l t ih =>
    simp only [List.foldl_cons, ih, State.retag_current, List.mem_cons]
    by_cases h : m = l <;> by_cases h' : m ∈ t <;> simp [h, h']

theorem State.retagAll_parts (ls : List Nat) : (ls.foldl State.retag s).parts = s.parts := by
  induction ls generalizing s with
  | nil => rfl
  | cons l t ih => simp [ih]

theorem State.retagAll_slices (ls : List Nat) : (ls.foldl State.retag s).slices = s.slices := by
  induction ls generalizing s with
  | nil => rfl
  | cons l t ih => simp [ih]

theorem mem_linesOf (k n j : Nat) (h : k ≤ j ∧ j < k + n) : j / 128 ∈ linesOf k n := by
  simp only [linesOf, List.mem_map, List.mem_range]
  exact ⟨j / 128 - k / 128, by omega, by omega⟩

/-- What is current after a write: the lines it meets, and what was. -/
theorem State.wrMem_current (k : Nat) (l : List Byte) (m : Nat) :
    (s.wrMem k l).current m = (decide (m ∈ linesOf k l.length) || s.current m) := by
  rw [← State.retagAll_current]
  unfold State.current
  have h : (s.wrMem k l).genOf m = ((linesOf k l.length).foldl State.retag s).genOf m :=
    State.genOf_congr (by rw [State.retagAll_parts]; rfl) (by rw [State.retagAll_slices]; rfl) m
  rw [h]; rfl

/-- A byte after a write of a run of bytes. -/
theorem State.byte_wrMem (k : Nat) (l : List Byte) (j : Nat) :
    (s.wrMem k l).byte j = if k ≤ j ∧ j < k + l.length then l.getD (j - k) 0 else s.byte j := by
  have e : (s.wrMem k l).byte j = if (s.wrMem k l).current (j / 128) then
      Store.get memDefault (Store.put memDefault ((linesOf k l.length).foldl State.retag s).mem k l) j
    else memDefault := rfl
  rw [e, State.wrMem_current, Store.get_put]
  by_cases h : k ≤ j ∧ j < k + l.length
  · simp [h, mem_linesOf k l.length j h, memDefault]
  · simp only [if_neg h]
    rw [← State.retagAll_current, ← s.retagAll_byte (linesOf k l.length) j]; rfl

/-- Reading back what was written. -/
theorem State.rdMem_wrMem (k : Nat) (l : List Byte) : (s.wrMem k l).rdMem k l.length = l := by
  suffices h : ∀ (n i : Nat), i + n = l.length → (s.wrMem k l).rdMem (k + i) n = l.drop i by
    simpa using h l.length 0 (by omega)
  intro n
  induction n with
  | zero => intro i hi; simp [State.rdMem, List.drop_eq_nil_of_le (show l.length ≤ i by omega)]
  | succ n ih =>
    intro i hi
    have hl : i < l.length := by omega
    rw [State.rdMem, State.byte_wrMem, show k + i + 1 = k + (i + 1) by omega, ih (i + 1) (by omega),
      List.drop_eq_getElem_cons hl]
    simp [show k + i < k + l.length by omega, hl]

/-- Two states of which the context collections alone differ, with the same contents. -/
theorem State.ctx_congr {s t : State} (h : t.ctxs = s.ctxs) (c : Nat) : t.ctx c = s.ctx c := by
  simp [State.ctx, h]

end Lookups

end Sys2Proof.Machine
end

