-- ==== Sys2Proof/Laws/Regs.lean ====
section
/-!
SUPPORT. What writing a register does, once for each register file: the value read back and the frame.
-/
namespace Sys2Proof.Machine

open Sys2Proof

theorem Grows.refl {α : Type} (p : α → Prop) (l : List α) : Grows p l l := ⟨[], by simp⟩

theorem Grows.snoc {α : Type} {p : α → Prop} (l : List α) (x : α) (h : p x) : Grows p l (l ++ [x]) :=
  ⟨[x], rfl, by simpa using h⟩

/-! ### The agenda -/

theorem mem_insertEv (t : Nat) (e : Instr) (l : List (Nat × Instr)) (x : Nat × Instr) :
    x ∈ insertEv t e l ↔ x = (t, e) ∨ x ∈ l := by
  induction l with
  | nil => simp [insertEv]
  | cons a l ih =>
    simp only [insertEv]
    split
    · simp
    · simp only [List.mem_cons, ih]
      constructor
      · rintro (h | h | h) <;> simp [h]
      · rintro (h | h | h) <;> simp [h]

theorem insertEv_sorted (t : Nat) (e : Instr) (l : List (Nat × Instr))
    (h : l.Pairwise fun a b => a.1 ≤ b.1) : (insertEv t e l).Pairwise fun a b => a.1 ≤ b.1 := by
  induction l with
  | nil => simp [insertEv]
  | cons a l ih =>
    rw [List.pairwise_cons] at h
    simp only [insertEv]
    split
    · rename_i ht
      refine List.pairwise_cons.mpr ⟨fun b hb => ?_, List.pairwise_cons.mpr h⟩
      rcases List.mem_cons.mp hb with rfl | hb
      · simp only; omega
      · have := h.1 b hb
        simp only; omega
    · rename_i ht
      refine List.pairwise_cons.mpr ⟨fun b hb => ?_, ih h.2⟩
      rcases (mem_insertEv t e l b).mp hb with rfl | hb
      · simp only; omega
      · exact h.1 b hb

theorem State.agendaKept_refl (s : State) : s.agendaKept s := ⟨fun _ h => h, fun _ h => .inl h⟩

/-! ### Reading a register just written -/

theorem Ctx.wrS_of_ne (x : Ctx) (d : BitVec 6) (v : DWord) (h : d ≠ 0) :
    x.wrS d v = { x with s := Store.set 0 x.s d.toNat v } := if_neg h

theorem Ctx.wrS_zero (x : Ctx) (v : DWord) : x.wrS 0 v = x := if_pos rfl

@[simp] theorem Ctx.rdS_wrS_self (x : Ctx) (d : BitVec 6) (v : DWord) :
    (x.wrS d v).rdS d = if d = 0 then 0 else v := by
  by_cases h : d = 0
  · rw [if_pos h]
    exact if_pos h
  · rw [if_neg h, x.wrS_of_ne d v h]
    exact (if_neg h).trans (Store.get_set_self _ _ _ _)

theorem Ctx.rdS_wrS_ne (x : Ctx) (d n : BitVec 6) (v : DWord) (h : n ≠ d) :
    (x.wrS d v).rdS n = x.rdS n := by
  have hn : n.toNat ≠ d.toNat := fun q => h (BitVec.eq_of_toNat_eq q)
  by_cases hd : d = 0
  · rw [hd, x.wrS_zero]
  · rw [x.wrS_of_ne d v hd]
    show (if n = 0 then _ else Store.get 0 (Store.set 0 x.s d.toNat v) n.toNat) = _
    rw [Store.get_set_ne _ _ _ _ _ hn]
    rfl

@[simp] theorem Ctx.rdV_wrV_self (x : Ctx) (d : BitVec 6) (v : VWord) : (x.wrV d v).rdV d = v :=
  Store.get_set_self _ _ _ _

theorem Ctx.rdV_wrV_ne (x : Ctx) (d n : BitVec 6) (v : VWord) (h : n ≠ d) :
    (x.wrV d v).rdV n = x.rdV n :=
  Store.get_set_ne _ _ _ _ _ fun q => h (BitVec.eq_of_toNat_eq q)

theorem Ctx.wrP_of_ne (x : Ctx) (d : BitVec 4) (v : PWord) (h : ¬ (d = 0 ∨ d = 8)) :
    x.wrP d v = { x with p := Store.set 0 x.p d.toNat v } := if_neg h

theorem Ctx.wrP_fixed (x : Ctx) (d : BitVec 4) (v : PWord) (h : d = 0 ∨ d = 8) : x.wrP d v = x :=
  if_pos h

@[simp] theorem Ctx.rdP_wrP_self (x : Ctx) (d : BitVec 4) (v : PWord) :
    (x.wrP d v).rdP d = if d = 0 ∨ d = 8 then BitVec.allOnes 128 else v := by
  by_cases h : d = 0 ∨ d = 8
  · rw [if_pos h]
    exact if_pos h
  · rw [if_neg h, x.wrP_of_ne d v h]
    exact (if_neg h).trans (Store.get_set_self _ _ _ _)

theorem Ctx.rdP_wrP_ne (x : Ctx) (d n : BitVec 4) (v : PWord) (h : n ≠ d) :
    (x.wrP d v).rdP n = x.rdP n := by
  have hn : n.toNat ≠ d.toNat := fun q => h (BitVec.eq_of_toNat_eq q)
  by_cases hd : d = 0 ∨ d = 8
  · rw [x.wrP_fixed d v hd]
  · rw [x.wrP_of_ne d v hd]
    show (if n = 0 ∨ n = 8 then _ else Store.get 0 (Store.set 0 x.p d.toNat v) n.toNat) = _
    rw [Store.get_set_ne _ _ _ _ _ hn]
    rfl

/-! ### Frames -/

theorem Ctx.keepsBut_refl (W : List RegId) (A : List AccKind) (x : Ctx) : x.keepsBut W A x :=
  ⟨fun _ _ => rfl, fun _ _ => rfl, fun _ _ => rfl, .refl _ _, .refl _ _, rfl⟩

theorem Ctx.keepsBut_wrS (W : List RegId) (A : List AccKind) (x : Ctx) (d : BitVec 6) (v : DWord)
    (h : .s d ∈ W) : x.keepsBut W A (x.wrS d v) := by
  refine ⟨fun n hn => x.rdS_wrS_ne d n v ?_, fun _ _ => ?_, fun _ _ => ?_, ?_, ?_, ?_⟩
  · rintro rfl; exact hn h
  all_goals unfold Ctx.wrS; split <;> first | rfl | exact .refl _ _

theorem Ctx.keepsBut_wrV (W : List RegId) (A : List AccKind) (x : Ctx) (d : BitVec 6) (v : VWord)
    (h : .v d ∈ W) : x.keepsBut W A (x.wrV d v) := by
  refine ⟨fun _ _ => rfl, fun n hn => x.rdV_wrV_ne d n v ?_, fun _ _ => rfl, .refl _ _, .refl _ _, rfl⟩
  rintro rfl; exact hn h

theorem Ctx.keepsBut_wrP (W : List RegId) (A : List AccKind) (x : Ctx) (d : BitVec 4) (v : PWord)
    (h : .p d ∈ W) : x.keepsBut W A (x.wrP d v) := by
  refine ⟨fun _ _ => ?_, fun _ _ => ?_, fun n hn => x.rdP_wrP_ne d n v ?_, ?_, ?_, ?_⟩
  case refine_3 => rintro rfl; exact hn h
  all_goals unfold Ctx.wrP; split <;> first | rfl | exact .refl _ _

theorem Grows.trans {α : Type} {p : α → Prop} {l m n : List α} (h1 : Grows p l m) (h2 : Grows p m n) :
    Grows p l n := by
  obtain ⟨a, rfl, ha⟩ := h1
  obtain ⟨b, rfl, hb⟩ := h2
  refine ⟨a ++ b, by simp, fun x hx => ?_⟩
  rcases List.mem_append.mp hx with h | h
  · exact ha x h
  · exact hb x h

theorem Ctx.keepsBut_trans {W : List RegId} {A : List AccKind} {x y z : Ctx} (h1 : x.keepsBut W A y)
    (h2 : y.keepsBut W A z) : x.keepsBut W A z := by
  obtain ⟨a1, a2, a3, a4, a5, a6⟩ := h1
  obtain ⟨b1, b2, b3, b4, b5, b6⟩ := h2
  refine ⟨fun n hn => (b1 n hn).trans (a1 n hn), fun n hn => (b2 n hn).trans (a2 n hn),
    fun n hn => (b3 n hn).trans (a3 n hn), a4.trans b4, a5.trans b5, ?_⟩
  have := congrArg (fun q : Ctx =>
    { q with s := x.s, v := x.v, p := x.p, score := x.score, outst := x.outst }) b6
  simp only at this
  rw [this]
  exact a6

/-- The running context alone changes, within the frame of a register write. -/
theorem State.regsOnly_updMe (W : List RegId) (A : List AccKind) (s : State) (f : Ctx → Ctx)
    (h : s.me.keepsBut W A (f s.me)) : s.regsOnly W A (s.updMe f) :=
  ⟨by simpa using h, fun d hd => s.updMe_ctx_ne f d hd, fun _ => rfl, s.agendaKept_refl, rfl⟩

theorem State.agendaKept_trans {s t u : State} (hc : t.cur = s.cur) (h1 : s.agendaKept t)
    (h2 : t.agendaKept u) : s.agendaKept u := by
  refine ⟨fun e he => h2.1 e (h1.1 e he), fun e he => ?_⟩
  rcases h2.2 e he with h | h
  · exact h1.2 e h
  · rw [hc] at h
    exact .inr h

theorem State.othersKept_cur {s t : State} (h : s.othersKept t) : t.cur = s.cur :=
  (congrArg State.cur h.2.2.2 : _)

theorem State.regsOnly_trans {W : List RegId} {A : List AccKind} {s t u : State}
    (h1 : s.regsOnly W A t) (h2 : t.regsOnly W A u) : s.regsOnly W A u := by
  obtain ⟨a, a1, a2, a3, a4⟩ := h1
  obtain ⟨b, b1, b2, b3, b4⟩ := h2
  have hc : t.cur = s.cur := (congrArg State.cur a4 : _)
  refine ⟨Ctx.keepsBut_trans a b, fun d hd => (b1 d (by rwa [hc])).trans (a1 d hd),
    fun k => (b2 k).trans (a2 k), State.agendaKept_trans hc a3 b3, ?_⟩
  have := congrArg (fun q : State =>
    { q with ctxs := s.ctxs, agenda := s.agenda, delays := s.delays, nextIdent := s.nextIdent }) b4
  simp only at this
  rw [this]
  exact a4

/-! ### Pending results (R128, R151) -/

/-- A result that becomes usable later: within the frame of its register. -/
theorem State.regsOnly_pend (W : List RegId) (A : List AccKind) (s : State) (r : RegId) (lat : Nat)
    (h : r ∈ W) : s.regsOnly W A (s.pend r lat) := by
  unfold State.pend
  split
  · exact ⟨Ctx.keepsBut_refl _ _ _, fun _ _ => rfl, fun _ => rfl, s.agendaKept_refl, rfl⟩
  · refine ⟨?_, fun d hd => ?_, fun _ => rfl, ⟨fun e he => ?_, fun e he => ?_⟩, rfl⟩
    · rw [State.fresh_me, State.schedule_me, State.updMe_me]
      exact ⟨fun _ _ => rfl, fun _ _ => rfl, fun _ _ => rfl, Grows.snoc _ _ h, .refl _ _, rfl⟩
    · rw [State.fresh_ctx, State.schedule_ctx, State.updMe_ctx_ne _ _ _ hd]
    · exact (mem_insertEv _ _ _ _).mpr (.inr he)
    · rcases (mem_insertEv _ _ _ _).mp he with rfl | he
      · exact .inr ⟨_, .inl rfl⟩
      · exact .inl he

@[simp] theorem State.pend_me_rdS (s : State) (r : RegId) (lat : Nat) (n : BitVec 6) :
    (s.pend r lat).me.rdS n = s.me.rdS n := by
  unfold State.pend
  split
  · rfl
  · rw [State.fresh_me, State.schedule_me, State.updMe_me]
    rfl

@[simp] theorem State.pend_me_rdV (s : State) (r : RegId) (lat : Nat) (n : BitVec 6) :
    (s.pend r lat).me.rdV n = s.me.rdV n := by
  unfold State.pend
  split
  · rfl
  · rw [State.fresh_me, State.schedule_me, State.updMe_me]
    rfl

@[simp] theorem State.pend_me_rdP (s : State) (r : RegId) (lat : Nat) (n : BitVec 4) :
    (s.pend r lat).me.rdP n = s.me.rdP n := by
  unfold State.pend
  split
  · rfl
  · rw [State.fresh_me, State.schedule_me, State.updMe_me]
    rfl

/-! ### Writing a register -/

/-- All that a scalar result does (R111, R128). -/
theorem State.setS_spec (s : State) (d : BitVec 6) (v : DWord) (lat : Nat) :
    (s.setS d v lat).me.rdS d = (if d = 0 then 0 else v) ∧ s.regsOnly [.s d] [] (s.setS d v lat) := by
  unfold State.setS
  split
  · rename_i h
    exact ⟨if_pos h, Ctx.keepsBut_refl _ _ _, fun _ _ => rfl, fun _ => rfl, s.agendaKept_refl, rfl⟩
  · rename_i h
    refine ⟨?_, State.regsOnly_trans (State.regsOnly_updMe _ _ s _ (Ctx.keepsBut_wrS _ _ _ d v (by simp)))
      (State.regsOnly_pend _ _ _ _ _ (by simp))⟩
    rw [State.pend_me_rdS, State.updMe_me, Ctx.rdS_wrS_self, if_neg h]

/-- All that a vector result does (R151). -/
theorem State.setV_spec (s : State) (d : BitVec 6) (v : VWord) (lat : Nat) :
    (s.setV d v lat).me.rdV d = v ∧ s.regsOnly [.v d] [] (s.setV d v lat) := by
  refine ⟨?_, State.regsOnly_trans (State.regsOnly_updMe _ _ s _ (Ctx.keepsBut_wrV _ _ _ d v (by simp)))
    (State.regsOnly_pend _ _ _ _ _ (by simp))⟩
  unfold State.setV
  rw [State.pend_me_rdV, State.updMe_me, Ctx.rdV_wrV_self]

/-- All that a predicate result does (R130, R151). -/
theorem State.setP_spec (s : State) (d : BitVec 4) (v : PWord) (lat : Nat) :
    (s.setP d v lat).me.rdP d = (if d = 0 ∨ d = 8 then BitVec.allOnes 128 else v) ∧
      s.regsOnly [.p d] [] (s.setP d v lat) := by
  refine ⟨?_, State.regsOnly_trans (State.regsOnly_updMe _ _ s _ (Ctx.keepsBut_wrP _ _ _ d v (by simp)))
    (State.regsOnly_pend _ _ _ _ _ (by simp))⟩
  unfold State.setP
  rw [State.pend_me_rdP, State.updMe_me, Ctx.rdP_wrP_self]

/-! ### The running context alone -/

/-- All that an update of the running context does. -/
theorem State.onlyMe_updMe (s : State) (f : Ctx → Ctx) : s.onlyMe (s.updMe f) (f s.me) :=
  ⟨s.updMe_me f, fun d hd => s.updMe_ctx_ne f d hd, rfl⟩

theorem State.onlyMe_updIss (s : State) (f : Issue → Issue) :
    s.onlyMe (s.updIss f) { s.me with iss := f s.me.iss } := s.onlyMe_updMe _

theorem State.onlyMe_raise (s : State) (c : Cause) (op det : Option DWord) :
    s.onlyMe (s.raise c op det) { s.me with iss := { s.me.iss with
      faults := s.me.iss.faults ++ [⟨s.slot.index, c, op, det, 0⟩] } } := s.onlyMe_updIss _

theorem State.onlyMe_refl (s : State) : s.onlyMe s s.me := ⟨rfl, fun _ _ => rfl, rfl⟩

theorem State.onlyCtx_updCtx (s : State) (c : Nat) (f : Ctx → Ctx) :
    s.onlyCtx (s.updCtx c f) c (f (s.ctx c)) :=
  ⟨s.updCtx_ctx_self c f, fun d hd => s.updCtx_ctx_ne c f d hd, rfl⟩

theorem State.onlyPart_updPart (s : State) (p : Nat) (f : Part → Part) :
    s.onlyPart (s.updPart p f) p (f (s.part p)) :=
  ⟨s.updPart_part_self p f, fun q hq => s.updPart_part_ne p f q hq, rfl⟩

theorem State.onlyCore_updCore (s : State) (k : Nat) (f : Core → Core) :
    s.onlyCore (s.updCore k f) k (f (s.core k)) :=
  ⟨s.updCore_core_self k f, fun j hj => s.updCore_core_ne k f j hj, rfl⟩

end Sys2Proof.Machine
end

