-- ==== Sys2Proof/Laws/Device.lean ====
section
/-!
SUPPORT. What the operations of the mailboxes, the instruction stores and the placement of grants do, once for each.
-/
namespace Sys2Proof.Machine

open Sys2Proof

/-! ### Mailboxes (R289) -/

@[simp] theorem State.setMail_mail_self (s : State) (fn : Nat) (m : Mailbox) : (s.setMail fn m).mail fn = m := by
  simp [State.setMail, State.mail]

theorem State.setMail_mail_ne (s : State) (fn j : Nat) (m : Mailbox) (h : j ≠ fn) :
    (s.setMail fn m).mail j = s.mail j := by
  simp [State.setMail, State.mail, Store.get_set_ne _ _ _ _ _ h]

@[simp] theorem State.setMail_ctxs (s : State) (fn : Nat) (m : Mailbox) : (s.setMail fn m).ctxs = s.ctxs := rfl
@[simp] theorem State.setMail_parts (s : State) (fn : Nat) (m : Mailbox) : (s.setMail fn m).parts = s.parts := rfl
@[simp] theorem State.setMail_mem (s : State) (fn : Nat) (m : Mailbox) : (s.setMail fn m).mem = s.mem := rfl
@[simp] theorem State.setMail_agenda (s : State) (fn : Nat) (m : Mailbox) : (s.setMail fn m).agenda = s.agenda := rfl
@[simp] theorem State.setMail_ready (s : State) (fn : Nat) (m : Mailbox) :
    (s.setMail fn m).host.ready = s.host.ready := rfl
@[simp] theorem State.setMail_link (s : State) (fn : Nat) (m : Mailbox) :
    (s.setMail fn m).host.link = s.host.link := rfl

/-- All that the mailbox of a function shows of a reply. -/
theorem State.reply_mail (s : State) (fn st v : Nat) :
    let m := { s.mail fn with door := false, taken := false, waits := none }
    (s.reply fn st v).mail fn =
      if s.host.ready = true ∧ s.host.link = .down then m
      else { m with stat := BitVec.ofNat 64 (st + 256 * v), msi := m.msi + 1 } := by
  simp only [State.reply, State.tell, State.freeMail, State.setMail_ready, State.setMail_link,
    State.setMail_mail_self]
  split <;> simp

/-! ### Instruction stores (R11) -/

/-- Bytes of the texts of a list of an instruction store but for that of image `h`. -/
def otherBytes (h : Nat) (l : List (Nat × Option Text)) : Nat :=
  ((l.filter fun e => decide (e.1 ≠ h)).map fun e => 4 * ((e.2.map Text.len).getD 0)).sum

/-- The texts that stay beside a new one fit in the room that it leaves. -/
theorem keepTexts_fits (h : Nat) (l : List (Nat × Option Text)) (room : Nat) :
    otherBytes h (keepTexts h room l) ≤ room := by
  induction l generalizing room with
  | nil => simp [otherBytes, keepTexts]
  | cons e t ih =>
    simp only [keepTexts]
    split
    · rename_i he
      simpa [otherBytes, he] using ih room
    · rename_i he
      split
      · rename_i hn
        have := ih (room - 4 * ((e.2.map Text.len).getD 0))
        simp only [otherBytes, ne_eq, he, not_false_eq_true, decide_true, List.filter_cons_of_pos, List.map_cons,
          List.sum_cons] at this ⊢
        omega
      · exact ih room

/-- A text that stays was there. -/
theorem mem_keepTexts (h room : Nat) (l : List (Nat × Option Text)) (e : Nat × Option Text)
    (m : e ∈ keepTexts h room l) : e ∈ l := by
  induction l generalizing room with
  | nil => exact m
  | cons x t ih =>
    simp only [keepTexts] at m
    split at m
    · exact (List.mem_cons.mp m).elim (fun q => q ▸ List.mem_cons_self ..) fun q => List.mem_cons_of_mem _ (ih _ q)
    · split at m
      · exact (List.mem_cons.mp m).elim (fun q => q ▸ List.mem_cons_self ..) fun q => List.mem_cons_of_mem _ (ih _ q)
      · exact List.mem_cons_of_mem _ (ih _ m)

/-! ### Grants (R155, R278) -/

/-- Every grant has a base. -/
theorem packs_length (ns : List Nat) (gaps : List (Nat × Nat)) (bs : List Nat) (h : packs ns gaps = some bs) :
    bs.length = ns.length := by
  induction ns generalizing gaps bs with
  | nil =>
    simp only [packs, Option.some.injEq] at h
    simp [← h]
  | cons n t ih =>
    simp only [packs] at h
    split at h
    · obtain ⟨r, hr, rfl⟩ := Option.map_eq_some_iff.mp h
      simp [ih _ _ hr]
    · obtain ⟨i, -, hi⟩ := List.exists_of_findSome?_eq_some h
      split at hi
      · split at hi
        · obtain ⟨r, hr, rfl⟩ := Option.map_eq_some_iff.mp hi
          simp [ih _ _ hr]
        · simp at hi
      · simp at hi

end Sys2Proof.Machine
end

