-- ==== Sys2Proof/Laws/Elements.lean ====
section
/-!
SUPPORT. The elements of a vector register: what a governed write of a region leaves in each of them.
-/
namespace Sys2Proof.Machine

open Sys2Proof

theorem testBit_packBits (b : Nat) (hb : 0 < b) (l : List Nat) (j : Nat) :
    (packBits b l).testBit j = (l.getD (j / b) 0).testBit (j % b) := by
  induction l generalizing j with
  | nil => simp [packBits]
  | cons x t ih =>
    unfold packBits
    rw [Nat.add_comm, Nat.testBit_two_pow_mul_add _ (Nat.mod_lt _ (Nat.two_pow_pos b))]
    by_cases h : j < b
    · rw [if_pos h, Nat.div_eq_of_lt h, Nat.mod_eq_of_lt h, Nat.testBit_mod_two_pow]
      simp [h]
    · rw [if_neg h, ih]
      have h1 : j / b = (j - b) / b + 1 := by
        rw [Nat.div_eq_sub_div hb (by omega)]
      have h2 : j % b = (j - b) % b := by
        rw [Nat.mod_eq_sub_mod (by omega)]
      rw [h1, h2, List.getD_cons_succ]

theorem getLsbD_splice (old : VWord) (base n x j : Nat) (hj : j < 4096) :
    (splice old base n x).getLsbD j =
      if base ≤ j ∧ j < base + n then x.testBit (j - base) else old.getLsbD j := by
  unfold splice
  simp only [BitVec.getLsbD_or, BitVec.getLsbD_and, BitVec.getLsbD_not, BitVec.getLsbD_shiftLeft,
    BitVec.getLsbD_ofNat, Nat.testBit_mod_two_pow, Nat.testBit_two_pow_sub_one, hj, decide_true,
    Bool.true_and]
  by_cases h1 : base ≤ j
  · have h2 : ¬ j < base := by omega
    have h3 : j - base < 4096 := by omega
    by_cases h4 : j < base + n
    · have h5 : j - base < n := by omega
      simp [h1, h2, h3, h4, h5]
    · have h5 : ¬ j - base < n := by omega
      simp [h2, h4, h5]
  · have h2 : j < base := by omega
    simp [h1, h2]

theorem regionElts_getD (l : Lanes) (b i : Nat) (f : Nat → Nat) (h : i < l.w.bits / b) :
    ((regionElts l b).map f).getD i 0 = f (laneBase l / b + i) := by
  simp [regionElts, List.getD_eq_getElem?_getD, h]

theorem laneBase_div (l : Lanes) (b k : Nat) (hb : 32 = b * k) : laneBase l = b * (laneBase l / b) := by
  have h : b ∣ laneBase l := by
    refine ⟨32 * k * l.lg.toNat, ?_⟩
    unfold laneBase
    rw [show (1024 : Nat) = 32 * 32 by rfl]
    conv => lhs; rw [show (32 * 32 : Nat) = 32 * (b * k) by rw [← hb]]
    ac_rfl
  exact (Nat.mul_div_cancel' h).symm

/-- An element of a register after a governed write of a region (R130, R131). -/
theorem eltBits_regionMap (l : Lanes) (b k : Nat) (hk : 32 = b * k) (p : PWord) (old : VWord)
    (f : Nat → Nat) (e : Nat) (he : e < 4096 / b) :
    eltBits b (regionMap l b p old f) e =
      if inRegion l (b * e / 32) = true ∧ p.getLsbD (b * e / 32) = true then BitVec.ofNat b (f e)
      else eltBits b old e := by
  have hb : 0 < b := by
    rcases Nat.eq_zero_or_pos b with h | h
    · rw [h] at hk; omega
    · exact h
  have hk0 : 0 < k := by
    rcases Nat.eq_zero_or_pos k with h | h
    · rw [h] at hk; omega
    · exact h
  have hN : 4096 = b * (128 * k) := by rw [show (4096 : Nat) = 32 * 128 by rfl, hk]; ac_rfl
  have heN : e < 128 * k := by
    rw [hN, Nat.mul_div_cancel_left _ hb] at he
    exact he
  have hbase := laneBase_div l b k hk
  have hwid : l.w.bits = b * (32 * k * l.w.groups) := by
    unfold Width.bits
    rw [show (1024 : Nat) = 32 * 32 by rfl]
    conv => lhs; rw [show (32 * 32 : Nat) = 32 * (b * k) by rw [← hk]]
    ac_rfl
  have hlb : laneBase l / b = 32 * k * l.lg.toNat := by
    unfold laneBase
    rw [show (1024 : Nat) * l.lg.toNat = b * (32 * k * l.lg.toNat) by
      rw [show (1024 : Nat) = 32 * 32 by rfl]
      conv => lhs; rw [show (32 * 32 : Nat) = 32 * (b * k) by rw [← hk]]
      ac_rfl, Nat.mul_div_cancel_left _ hb]
  have hlane : b * e / 32 = e / k := by
    rw [hk, Nat.mul_div_mul_left _ _ hb]
  -- the region, by element number
  have hreg : inRegion l (b * e / 32) = true ↔
      laneBase l / b ≤ e ∧ e < laneBase l / b + l.w.bits / b := by
    rw [hlane, hwid, Nat.mul_div_cancel_left _ hb, hlb]
    unfold inRegion
    simp only [Bool.and_eq_true, decide_eq_true_eq]
    rw [Nat.le_div_iff_mul_le hk0, Nat.div_lt_iff_lt_mul hk0]
    constructor
    · rintro ⟨h1, h2⟩
      refine ⟨by rw [show 32 * k * l.lg.toNat = 32 * l.lg.toNat * k by ac_rfl]; exact h1, ?_⟩
      rw [show 32 * k * l.lg.toNat + 32 * k * l.w.groups =
        (32 * l.lg.toNat + 32 * l.w.groups) * k by rw [Nat.add_mul]; ac_rfl]
      exact h2
    · rintro ⟨h1, h2⟩
      refine ⟨by rw [show 32 * l.lg.toNat * k = 32 * k * l.lg.toNat by ac_rfl]; exact h1, ?_⟩
      rw [show (32 * l.lg.toNat + 32 * l.w.groups) * k =
        32 * k * l.lg.toNat + 32 * k * l.w.groups by rw [Nat.add_mul]; ac_rfl]
      exact h2
  apply BitVec.eq_of_getLsbD_eq
  intro i hi
  have hbit : b * e + i < 4096 := by
    calc b * e + i < b * e + b := by omega
      _ = b * (e + 1) := by rw [Nat.mul_add, Nat.mul_one]
      _ ≤ b * (128 * k) := Nat.mul_le_mul_left _ heN
      _ = 4096 := hN.symm
  unfold eltBits
  rw [BitVec.getLsbD_extractLsb']
  simp only [hi, decide_true, Bool.true_and]
  unfold regionMap
  rw [getLsbD_splice _ _ _ _ _ hbit]
  by_cases hr : inRegion l (b * e / 32) = true
  · have hr' := hreg.mp hr
    have hin : laneBase l ≤ b * e + i ∧ b * e + i < laneBase l + l.w.bits := by
      rw [hbase]
      have h1 : b * (laneBase l / b) ≤ b * e := Nat.mul_le_mul_left _ hr'.1
      have h2 : b * (e + 1) ≤ b * (laneBase l / b) + l.w.bits := by
        rw [hwid, ← Nat.mul_add]
        refine Nat.mul_le_mul_left _ ?_
        have := hr'.2
        rw [hwid, Nat.mul_div_cancel_left _ hb] at this
        exact this
      rw [Nat.mul_add, Nat.mul_one] at h2
      omega
    rw [if_pos hin, testBit_packBits b hb]
    have h3 : (b * e + i - laneBase l) / b = e - laneBase l / b := by
      rw [hbase, Nat.mul_div_cancel_left _ hb]
      rw [show b * e + i - b * (laneBase l / b) = b * (e - laneBase l / b) + i by
        rw [Nat.mul_sub]; have := Nat.mul_le_mul_left b hr'.1; omega]
      rw [Nat.mul_add_div hb, Nat.div_eq_of_lt hi, Nat.add_zero]
    have h4 : (b * e + i - laneBase l) % b = i := by
      rw [hbase]
      rw [show b * e + i - b * (laneBase l / b) = b * (e - laneBase l / b) + i by
        rw [Nat.mul_sub]; have := Nat.mul_le_mul_left b hr'.1; omega]
      rw [Nat.mul_add_mod, Nat.mod_eq_of_lt hi]
    rw [h3, h4, regionElts_getD _ _ _ _ (by omega),
      show laneBase l / b + (e - laneBase l / b) = e by omega]
    unfold governs
    by_cases hp : p.getLsbD (b * e / 32) = true
    · rw [if_pos hp, if_pos ⟨hr, hp⟩, BitVec.getLsbD_ofNat]
      simp [hi]
    · rw [if_neg hp, if_neg fun q => hp q.2]
      unfold elt
      rw [BitVec.testBit_toNat, BitVec.getLsbD_extractLsb']
  · have hout : ¬ (laneBase l ≤ b * e + i ∧ b * e + i < laneBase l + l.w.bits) := by
      intro q
      apply hr
      apply hreg.mpr
      rw [hbase] at q
      constructor
      · by_cases h : laneBase l / b ≤ e
        · exact h
        · exfalso
          have : b * (e + 1) ≤ b * (laneBase l / b) := Nat.mul_le_mul_left _ (by omega)
          rw [Nat.mul_add, Nat.mul_one] at this
          omega
      · by_cases h : e < laneBase l / b + l.w.bits / b
        · exact h
        · exfalso
          have : b * (laneBase l / b + l.w.bits / b) ≤ b * e := Nat.mul_le_mul_left _ (by omega)
          rw [Nat.mul_add] at this
          rw [hwid, Nat.mul_div_cancel_left _ hb] at this
          rw [hwid] at q
          omega
    rw [if_neg hout, if_neg fun q => hr q.1, BitVec.getLsbD_extractLsb']
    simp [hi]

end Sys2Proof.Machine
end

