-- ==== Sys2Proof/Laws/Memory.lean ====
section
/-!
SUPPORT. Memory: every operation on it keeps its canonical form, and what a write of bytes changes when
tiles share the lines written.
-/
namespace Sys2Proof.Machine

open Sys2Proof

/-! ### The canonical form -/

theorem reset_memWf : State.reset.memWf := rfl

theorem State.retag_memWf (s : State) (line : Nat) (h : s.memWf) : (s.retag line).memWf := by
  unfold State.retag
  split
  · exact h
  · show Memory.wf (if _ then _ else _)
    split
    · exact h
    · exact Store.filter_wf _ _ _ h

/-- A fold keeps what each of its steps keeps. -/
theorem foldl_keeps {α β : Type} (P : α → Prop) (f : α → β → α) (l : List β) (a : α) (h : P a)
    (hf : ∀ a b, b ∈ l → P a → P (f a b)) : P (l.foldl f a) := by
  induction l generalizing a with
  | nil => exact h
  | cons b l ih =>
    exact ih (f a b) (hf a b (.head _) h) fun a c hc => hf a c (.tail _ hc)

theorem State.wrMem_memWf (s : State) (k : Nat) (l : List Byte) (h : s.memWf) : (s.wrMem k l).memWf :=
  Store.put_wf _ _ _ _ (foldl_keeps State.memWf _ _ _ h fun s x _ hs => s.retag_memWf x hs)

theorem State.updTile_mem (s : State) (c th : Nat) (f : Tile → Tile) : (s.updTile c th f).mem = s.mem := by
  unfold State.updTile
  split <;> rfl

theorem State.putLog_memWf (s : State) (p seq kind cause count addr req detail : Nat) (h : s.memWf) :
    (s.putLog p seq kind cause count addr req detail).memWf := by
  unfold State.putLog
  simp only
  refine State.wrMem_memWf _ _ _ ?_
  refine State.wrMem_memWf _ _ _ ?_
  exact h

theorem State.updPart_memWf (s : State) (p : Nat) (f : Part → Part) : (s.updPart p f).memWf = s.memWf := rfl

theorem State.addLog_memWf (s : State) (p kind cause addr req detail : Nat) (h : s.memWf) :
    (s.addLog p kind cause addr req detail).memWf := by
  unfold State.addLog
  split
  · rw [State.updPart_memWf]
    exact s.putLog_memWf _ _ _ _ _ _ _ _ h
  · exact h

theorem State.logRefused_memWf (s : State) (p who addr : Nat) (h : s.memWf) :
    (s.logRefused p who addr).memWf := by
  unfold State.logRefused
  simp only
  split
  · split
    · show Memory.wf (State.mem (if _ then _ else _))
      split
      · exact s.putLog_memWf _ _ _ _ _ _ _ _ h
      · exact h
    · exact s.addLog_memWf _ _ _ _ _ _ h
  · exact h

theorem State.writeBackLine_memWf (s : State) (who : Nat) (t : Tile) (j line : Nat) (h : s.memWf) :
    (s.writeBackLine who t j line).memWf := by
  unfold State.writeBackLine
  simp only
  split
  · exact s.logRefused_memWf _ _ _ h
  · exact s.wrMem_memWf _ _ h

theorem State.writeBack_memWf (s : State) (who : Nat) (t : Tile) (h : s.memWf) : (s.writeBack who t).memWf :=
  foldl_keeps State.memWf _ _ _ h fun s x _ hs => by
    show State.memWf (match x.2 with | 0 => s | l + 1 => s.writeBackLine who t x.1 l)
    split
    · exact hs
    · exact s.writeBackLine_memWf _ _ _ _ hs

theorem State.recallTile_memWf (s : State) (c th : Nat) (h : s.memWf) : (s.recallTile c th).memWf := by
  unfold State.recallTile
  split
  · exact h
  · simp only
    split
    · exact h
    · exact s.writeBack_memWf _ _ h
    · exact h

theorem State.recall_memWf (s : State) (line : Nat) (own : Option (Nat × Nat)) (h : s.memWf) :
    (s.recall line own).memWf :=
  foldl_keeps State.memWf _ _ _ h fun s x _ hs => by
    show State.memWf (if _ then _ else _)
    split
    · exact hs
    · exact s.recallTile_memWf _ _ hs

theorem State.wrLine_memWf (s : State) (k : Nat) (l : List Byte) (h : s.memWf) : (s.wrLine k l).memWf :=
  State.wrMem_memWf _ _ _ (s.recall_memWf _ _ h)

theorem State.wrRun_memWf (n : Nat) (s : State) (k : Nat) (l : List Byte) (h : s.memWf) :
    (s.wrRun n k l).memWf := by
  induction n generalizing s k l with
  | zero => exact h
  | succ n ih =>
    unfold State.wrRun
    split
    · exact h
    · exact ih _ _ _ (s.wrLine_memWf _ _ h)

theorem State.wrBytes_memWf (s : State) (k : Nat) (l : List Byte) (h : s.memWf) :
    (s.wrBytes k l).memWf := State.wrRun_memWf _ s k l h

theorem State.logMine_memWf (s : State) (a : DWord) (h : s.memWf) : (s.logMine a).memWf :=
  s.logRefused_memWf _ _ _ h

theorem State.ownLine_memWf (s : State) (c th j : Nat) (h : s.memWf) : (s.ownLine c th j).memWf := by
  unfold State.ownLine
  split
  · split
    · exact h
    · exact s.recall_memWf _ _ h
  · exact h

theorem State.writeAt_memWf (s : State) (r : Route) (l : List Byte) (h : s.memWf) :
    (s.writeAt r l).memWf := by
  unfold State.writeAt
  split
  · show Memory.wf (State.mem _)
    rw [State.updTile_mem]
    exact s.ownLine_memWf _ _ _ h
  · exact s.wrLine_memWf _ _ h
  · exact h

/-! ### Which bytes a write changes -/

/-- Any entry of a store whose value is found under its key is one of its entries. -/
theorem Store.mem_of_get {α : Type} (d : α) (m : Store α) (k : Nat) (v : α) (h : Store.get d m k = v)
    (hd : v ≠ d) : (k, v) ∈ m := by
  induction m with
  | nil => exact absurd h.symm hd
  | cons e m ih =>
    obtain ⟨j, w⟩ := e
    simp only [Store.get] at h
    split at h
    · rename_i hk
      subst hk
      subst h
      exact .head _
    · exact .tail _ (ih h)

theorem Store.list_length {α : Type} (d : α) (m : Store α) (n k : Nat) : (Store.list d m k n).length = n := by
  induction n generalizing k with
  | zero => rfl
  | succ n ih => rw [Store.list, List.length_cons, ih]

theorem leBytes_length (n x : Nat) : (leBytes n x).length = n := by
  induction n generalizing x with
  | zero => rfl
  | succ n ih => rw [leBytes, List.length_cons, ih]

theorem logRecord_length (seq kind cause count addr time req detail : Nat) (r : Bool) :
    (logRecord seq kind cause count addr time req detail r).length = 64 := by
  simp only [logRecord, List.length_append, leBytes_length]

theorem Part.logOnly_refl (P : Part) : P.logOnly P := rfl

theorem Part.logOnly_trans {P Q R : Part} (h1 : P.logOnly Q) (h2 : Q.logOnly R) : P.logOnly R := by
  have := congrArg (fun x : Part => { x with logSeq := P.logSeq, refusals := P.refusals }) h2
  simp only [Part.logOnly] at *
  rw [this]
  exact h1

theorem Part.logOnly_ownedFrom {P Q : Part} (h : P.logOnly Q) : Q.ownedFrom = P.ownedFrom := by
  rw [← show _ = P from h]; rfl

theorem State.deviceOwned_logOnly {s u : State} (hp : ∀ p, (s.part p).logOnly (u.part p)) (k : Nat) :
    u.deviceOwned k ↔ s.deviceOwned k := by
  simp only [State.deviceOwned, Part.logOnly_ownedFrom (hp _)]

/-- A write of bytes all of which lie in the device-owned part of a partition. -/
theorem State.wrMem_owned (s : State) (p T o : Nat) (l : List Byte) (hT : (s.part p).ownedFrom = T)
    (h : o + l.length ≤ 65536) (k : Nat) (hk : ¬ s.deviceOwned k) :
    (s.wrMem (keyOf p (T + o)) l).byte k = s.byte k := by
  subst hT
  rw [State.byte_wrMem, if_neg]
  rintro ⟨h1, h2⟩
  exact hk ⟨p, by simp only [keyOf] at *; omega, by simp only [keyOf] at *; omega⟩

theorem State.wrMem_rest_twice (s : State) (k j : Nat) (l m : List Byte) :
    ((s.wrMem k l).wrMem j m).parts = s.parts ∧
      { (s.wrMem k l).wrMem j m with mem := s.mem, tags := s.tags } = s := ⟨rfl, rfl⟩

/-- All that a record in the rings of a partition's log changes. -/
theorem State.putLog_spec (s : State) (p seq kind cause count addr req detail : Nat) :
    (s.putLog p seq kind cause count addr req detail).parts = s.parts ∧
    { s.putLog p seq kind cause count addr req detail with mem := s.mem, tags := s.tags } = s ∧
      ∀ k, ¬ s.deviceOwned k → (s.putLog p seq kind cause count addr req detail).byte k = s.byte k := by
  have two : ∀ (T i : Nat) (x y : List Byte), (s.part p).ownedFrom = T → i < 256 → x.length = 64 → y.length ≤ 80 →
      ∀ k, ¬ s.deviceOwned k →
        ((s.wrMem (keyOf p (T + 64 * i)) x).wrMem (keyOf p (T + 0x4480 + 80 * i)) y).byte k = s.byte k := by
    intro T i x y hT hi hx hy k hk
    rw [Nat.add_assoc]
    generalize hq : 0x4480 + 80 * i = q
    have hd : ∀ a, (s.wrMem a x).deviceOwned k ↔ s.deviceOwned k := fun _ =>
      State.deviceOwned_logOnly (fun _ => rfl) k
    refine (State.wrMem_owned _ p T q y (by rw [State.wrMem_part]; exact hT) (by omega) k
      fun h => hk ((hd _).mp h)).trans
      (s.wrMem_owned p T (64 * i) x hT (by omega) k hk)
  unfold State.putLog
  exact ⟨(s.wrMem_rest_twice _ _ _ _).1, (s.wrMem_rest_twice _ _ _ _).2,
    two _ _ _ _ rfl (Nat.mod_lt _ (by decide)) (logRecord_length _ _ _ _ _ _ _ _ _) (List.length_take_le _ _)⟩

/-- All that one log update of a partition leaves of every partition. -/
theorem State.updPart_logOnly (s : State) (p : Nat) (f : Part → Part) (h : ∀ P : Part, P.logOnly (f P)) (q : Nat) :
    (s.part q).logOnly ((s.updPart p f).part q) := by
  by_cases hq : q = p
  · subst hq; rw [State.updPart_part_self]; exact h _
  · rw [State.updPart_part_ne _ _ _ _ hq]; exact Part.logOnly_refl _

/-- What only the logs of partitions can change: memory within their device-owned parts, and the logs themselves. -/
def State.onlyLogs (s u : State) : Prop :=
  (∀ p, (s.part p).logOnly (u.part p)) ∧ { u with mem := s.mem, tags := s.tags, parts := s.parts } = s ∧
    ∀ k, ¬ s.deviceOwned k → u.byte k = s.byte k

theorem Part.logOnly_home {P Q : Part} (h : P.logOnly Q) (a : Nat) : Q.home a = P.home a := by
  rw [← show _ = P from h]; rfl

/-- Bytes do not depend on the logs that the partitions keep of refusals. -/
theorem State.byte_logOnly {s u : State} (hp : ∀ p, (s.part p).logOnly (u.part p)) (hm : u.mem = s.mem)
    (ht : u.tags = s.tags) (hs : u.slices = s.slices) (k : Nat) : u.byte k = s.byte k := by
  have hg : ∀ line, u.genOf line = s.genOf line := fun line => by
    simp only [State.genOf, Part.logOnly_home (hp _), State.slice, hs]
  simp only [State.byte, State.current, hg, hm, ht]
  rfl

theorem State.onlyLogs_ctxs {s u : State} (h : s.onlyLogs u) : u.ctxs = s.ctxs :=
  show State.ctxs { u with mem := s.mem, tags := s.tags, parts := s.parts } = _ by rw [h.2.1]

theorem State.onlyLogs_refl (s : State) : s.onlyLogs s := ⟨fun _ => rfl, rfl, fun _ _ => rfl⟩

/-- Records in the rings of a partition, and an update of what its log keeps. -/
theorem State.onlyLogs_updPart {s u : State} (hu : { u with mem := s.mem, tags := s.tags } = s)
    (hp : u.parts = s.parts) (hb : ∀ k, ¬ s.deviceOwned k → u.byte k = s.byte k) (p : Nat) (f : Part → Part)
    (hf : ∀ P : Part, P.logOnly (f P)) : s.onlyLogs (u.updPart p f) := by
  refine ⟨fun q => ?_, ?_, fun k hk => ?_⟩
  · have h := u.updPart_logOnly p f hf q
    rwa [show u.part q = s.part q by simp [State.part, hp]] at h
  · exact congrArg (fun x : State => { x with parts := s.parts }) hu
  · exact (State.byte_logOnly (u.updPart_logOnly p f hf) rfl rfl rfl k).trans (hb k hk)

theorem State.onlyLogs_trans {s t u : State} (h : s.onlyLogs t) (g : t.onlyLogs u) : s.onlyLogs u := by
  refine ⟨fun p => Part.logOnly_trans (h.1 p) (g.1 p), ?_, fun k hk => ?_⟩
  · have := congrArg (fun q : State => { q with mem := s.mem, tags := s.tags, parts := s.parts }) g.2.1
    simp only at this
    rw [this]
    exact h.2.1
  · rw [g.2.2 k fun q => hk ((State.deviceOwned_logOnly h.1 k).mp q)]
    exact h.2.2 k hk

theorem State.onlyLogs_addLog (s : State) (p kind cause addr req detail : Nat) :
    s.onlyLogs (s.addLog p kind cause addr req detail) := by
  unfold State.addLog
  split
  · obtain ⟨h0, h1, h2⟩ := s.putLog_spec p (s.part p).logSeq kind cause 1 addr req detail
    exact State.onlyLogs_updPart h1 h0 h2 p _ fun P => rfl
  · exact s.onlyLogs_refl

/-- All that the record of a refused access changes (R301, R304). -/
theorem State.logRefused_spec (s : State) (p who addr : Nat) : s.onlyLogs (s.logRefused p who addr) := by
  unfold State.logRefused
  simp only
  split
  · split
    · split
      · obtain ⟨h0, h1, h2⟩ := s.putLog_spec p _ 4 0 _ addr who 0
        exact State.onlyLogs_updPart h1 h0 h2 p _ fun P => rfl
      · exact State.onlyLogs_updPart rfl rfl (fun _ _ => rfl) p _ fun P => rfl
    · exact State.onlyLogs_trans (s.onlyLogs_addLog p 4 0 addr who 0)
        (State.onlyLogs_updPart rfl rfl (fun _ _ => rfl) p _ fun P => rfl)
  · exact s.onlyLogs_refl

/-! ### Tables of handles -/

theorem State.setTile_tile (s : State) (c th : Nat) (v : Option Tile) (c' th' : Nat) :
    (s.setTile c th v).tile c' th' = if c' = c ∧ th' = th then v else s.tile c' th' := by
  unfold State.setTile State.tile
  by_cases hc : c' = c
  · subst hc
    rw [State.updCtx_ctx_self]
    show Store.get none (Store.set none _ th v) th' = _
    rw [Store.get_set]
    by_cases ht : th' = th
    · rw [if_pos ht, if_pos ⟨rfl, ht⟩]
    · rw [if_neg ht, if_neg fun q => ht q.2]
      rfl
  · rw [State.updCtx_ctx_ne _ _ _ _ hc, if_neg fun q => hc q.1]

theorem State.setTile_ctx (s : State) (c th : Nat) (v : Option Tile) (d : Nat) :
    { (s.setTile c th v).ctx d with tiles := (s.ctx d).tiles } = s.ctx d := by
  unfold State.setTile
  by_cases hd : d = c
  · subst hd
    rw [State.updCtx_ctx_self]
    rfl
  · rw [State.updCtx_ctx_ne _ _ _ _ hd]

theorem State.onlyMemory_refl (s : State) : s.onlyMemory s := ⟨fun _ => rfl, fun _ => rfl, rfl⟩

theorem State.onlyMemory_trans {s t u : State} (h1 : s.onlyMemory t) (h2 : t.onlyMemory u) :
    s.onlyMemory u := by
  refine ⟨fun c => ?_, fun p => Part.logOnly_trans (h1.2.1 p) (h2.2.1 p), ?_⟩
  · have := congrArg (fun x : Ctx => { x with tiles := (s.ctx c).tiles }) (h2.1 c)
    simp only at this
    rw [this]
    exact h1.1 c
  · have := congrArg (fun q : State =>
      { q with ctxs := s.ctxs, mem := s.mem, tags := s.tags, parts := s.parts, poison := s.poison }) h2.2.2
    simp only at this
    rw [this]
    exact h1.2.2

theorem State.onlyMemory_setTile (s : State) (c th : Nat) (v : Option Tile) :
    s.onlyMemory (s.setTile c th v) := ⟨s.setTile_ctx c th v, fun _ => rfl, rfl⟩

theorem State.onlyMemory_of_logs {s u : State} (h : s.onlyLogs u) : s.onlyMemory u := by
  refine ⟨fun c => by rw [State.ctx_congr (State.onlyLogs_ctxs h)], h.1, ?_⟩
  exact congrArg (fun q : State => { q with ctxs := s.ctxs, poison := s.poison }) h.2.1

theorem State.onlyMemory_wrMem (s : State) (k : Nat) (l : List Byte) : s.onlyMemory (s.wrMem k l) :=
  ⟨fun _ => rfl, fun _ => rfl, rfl⟩

/-- Nothing but memory and the logs of partitions: the tables of handles too are as they were, and so is every byte
outside the lines in `L` and the device-owned parts. -/
def State.homeOnly (L : Nat → Prop) (s u : State) : Prop :=
  s.onlyMemory u ∧ u.ctxs = s.ctxs ∧ ∀ k, ¬ L (k / 128) → ¬ s.deviceOwned k → u.byte k = s.byte k

theorem State.deviceOwned_onlyMemory {s u : State} (h : s.onlyMemory u) (k : Nat) :
    u.deviceOwned k ↔ s.deviceOwned k := State.deviceOwned_logOnly h.2.1 k

/-- All that one line of a tile on its way home changes. -/
theorem State.writeBackLine_spec (s : State) (who : Nat) (t : Tile) (j line : Nat) :
    s.homeOnly (fun l => line = l) (s.writeBackLine who t j line) := by
  unfold State.writeBackLine
  simp only
  split
  · have h := s.logRefused_spec (linePlace line).1 who (linePlace line).2
    exact ⟨State.onlyMemory_of_logs h, State.onlyLogs_ctxs h, fun k _ hk => h.2.2 k hk⟩
  · refine ⟨⟨fun _ => rfl, fun _ => rfl, rfl⟩, rfl, fun k hk _ => ?_⟩
    show (s.wrMem (line * 128) _).byte k = _
    rw [State.byte_wrMem, if_neg]
    rw [Store.list_length]
    omega

/-- All that a tile's bytes on their way to memory change. -/
theorem State.writeBack_spec (s : State) (who : Nat) (t : Tile) :
    s.homeOnly (fun l => ∃ j ∈ t.phys, j.2 = l + 1) (s.writeBack who t) := by
  refine foldl_keeps (State.homeOnly _ s) _ _ _ ⟨s.onlyMemory_refl, rfl, fun _ _ _ => rfl⟩
    fun u j hj hu => ?_
  show State.homeOnly _ s (match j.2 with | 0 => u | l + 1 => u.writeBackLine who t j.1 l)
  split
  · exact hu
  rename_i m hm
  obtain ⟨h1, h2, h3⟩ := hu
  obtain ⟨g1, g2, g3⟩ := u.writeBackLine_spec who t j.1 m
  refine ⟨State.onlyMemory_trans h1 g1, g2.trans h2, fun k hk hd => ?_⟩
  rw [g3 k (fun e => hk ⟨j, hj, by rw [hm, e]⟩) fun q => hd ((State.deviceOwned_onlyMemory h1 k).mp q)]
  exact h3 k hk hd

/-- Giving up a tile's contents leaves no recorded line, and a second time changes nothing. -/
theorem Tile.givenUp_phys (t : Tile) : t.givenUp.phys = [] := rfl

theorem Tile.settled_phys (t : Tile) : t.settled.phys = t.phys := by
  unfold Tile.settled Tile.stored
  split <;> rfl

theorem Tile.givenUp_givenUp (t : Tile) : t.givenUp.givenUp = t.givenUp := by
  unfold Tile.givenUp Tile.settled Tile.stored Tile.emptied
  by_cases h : BusyBy.mxst ∈ t.busy <;> simp [h]

/-- All that sending home and emptying one tile does. -/
theorem State.recallTile_spec (s : State) (c th : Nat) :
    s.onlyMemory (s.recallTile c th) ∧
      (∀ c' th', (s.recallTile c th).tile c' th' = s.tile c' th' ∨
        (c' = c ∧ th' = th ∧ (s.recallTile c th).tile c' th' = (s.tile c' th').map Tile.givenUp)) ∧
      ∀ k, (∀ t, s.tile c th = some t → ∀ j ∈ t.phys, j.2 ≠ k / 128 + 1) → ¬ s.deviceOwned k →
        (s.recallTile c th).byte k = s.byte k := by
  have drop : ∀ (u : State) (t : Tile), s.tile c th = some t → u.ctxs = s.ctxs → ∀ c' th',
      (u.setTile c th (some t.givenUp)).tile c' th' = s.tile c' th' ∨
        (c' = c ∧ th' = th ∧ (u.setTile c th (some t.givenUp)).tile c' th' = (s.tile c' th').map Tile.givenUp) := by
    intro u t ht hu c' th'
    rw [State.setTile_tile]
    by_cases h : c' = c ∧ th' = th
    · refine .inr ⟨h.1, h.2, ?_⟩
      rw [if_pos h, h.1, h.2, ht]
      rfl
    · rw [if_neg h]
      left
      simp [State.tile, State.ctx_congr hu]
  unfold State.recallTile
  split
  · exact ⟨s.onlyMemory_refl, fun _ _ => .inl rfl, fun _ _ _ => rfl⟩
  · rename_i t ht
    simp only
    split
    · exact ⟨s.onlyMemory_setTile _ _ _, drop s t ht rfl, fun _ _ _ => rfl⟩
    · obtain ⟨h1, h2, h3⟩ := s.writeBack_spec (reqOfCtx (s.ctx c).part c) t.settled
      refine ⟨State.onlyMemory_trans h1 (State.onlyMemory_setTile _ _ _ _), drop _ t ht h2, fun k hk hd => ?_⟩
      refine h3 k ?_ hd
      rintro ⟨j, hj, e⟩
      rw [t.settled_phys] at hj
      exact hk t ht j hj e
    · exact ⟨s.onlyMemory_refl, fun _ _ => .inl rfl, fun _ _ _ => rfl⟩

/-- All that a write of a line by another agent does before the bytes are stored (R160). -/
theorem State.recall_spec (s : State) (line : Nat) (own : Option (Nat × Nat)) :
    s.onlyMemory (s.recall line own) ∧ s.tilesKept (fun l => l = line) (s.recall line own) ∧
      s.bytesKept (fun l => l = line) (fun _ => False) (s.recall line own) := by
  let P : State → Prop := fun u => s.onlyMemory u ∧ s.tilesKept (fun l => l = line) u ∧
    s.bytesKept (fun l => l = line) (fun _ => False) u
  have h0 : P s := ⟨s.onlyMemory_refl, fun _ _ => .inl rfl, fun _ _ _ => rfl⟩
  refine foldl_keeps P _ _ _ h0 fun u x hx hu => ?_
  show P (if _ then _ else _)
  split
  · exact hu
  · obtain ⟨h1, h2, h3⟩ := hu
    obtain ⟨g1, g2, g3⟩ := u.recallTile_spec x.1 x.2.1
    refine ⟨State.onlyMemory_trans h1 g1, fun c th => ?_, fun k hk hs => ?_⟩
    · rcases g2 c th with g | ⟨rfl, rfl, g⟩
      · rw [g]
        exact h2 c th
      · refine .inr ⟨⟨line, x.2.2, rfl, hx⟩, ?_⟩
        rw [g]
        rcases h2 x.1 x.2.1 with h | ⟨_, h⟩
        · rw [h]
        · rw [h, Option.map_map]
          cases s.tile x.1 x.2.1 with
          | none => rfl
          | some q => exact congrArg some q.givenUp_givenUp
    · rw [g3 k ?_ ?_, h3 k hk hs]
      · intro t ht j hj hjk
        rcases h2 x.1 x.2.1 with h | ⟨_, h⟩
        · rw [h] at ht
          exact hs ⟨line, rfl, .inl ⟨x, hx, t, ht, j, hj, hjk⟩⟩
        · rw [h] at ht
          cases hq : s.tile x.1 x.2.1 with
          | none => rw [hq] at ht; cases ht
          | some q =>
            rw [hq] at ht
            cases ht
            cases hj
      · intro hd
        exact hs ⟨line, rfl, .inr ⟨List.ne_nil_of_mem hx, (State.deviceOwned_onlyMemory h1 k).mp hd⟩⟩

/-- All that a write within one line does (R160). -/
theorem State.wrLine_spec (s : State) (k : Nat) (l : List Byte) :
    s.onlyMemory (s.wrLine k l) ∧ s.tilesKept (fun x => x = k / 128) (s.wrLine k l) ∧
      s.bytesKept (fun x => x = k / 128) (fun j => k ≤ j ∧ j < k + l.length) (s.wrLine k l) ∧
      (s.wrLine k l).rdMem k l.length = l := by
  obtain ⟨h1, h2, h3⟩ := s.recall_spec (k / 128) none
  refine ⟨State.onlyMemory_trans h1 (State.onlyMemory_wrMem _ _ _), h2, fun j hj hs => ?_, State.rdMem_wrMem _ _ _⟩
  show ((s.recall (k / 128) none).wrMem k l).byte j = _
  rw [State.byte_wrMem, if_neg hj]
  exact h3 j (fun h => h) hs

/-- The tile whose own line it is keeps its contents. -/
theorem State.recall_own (s : State) (line c th : Nat) :
    (s.recall line (some (c, th))).tile c th = s.tile c th := by
  refine foldl_keeps (fun u : State => u.tile c th = s.tile c th) _ _ _ rfl fun u x _ hu => ?_
  show State.tile (if _ then _ else _) c th = _
  split
  · exact hu
  · rename_i hx
    rcases (u.recallTile_spec x.1 x.2.1).2.1 c th with h | ⟨rfl, rfl, _⟩
    · rw [h]
      exact hu
    · exact absurd rfl hx

theorem State.ownLine_spec (s : State) (c th j : Nat) :
    s.onlyMemory (s.ownLine c th j) ∧
      s.tilesKept (fun l => ∃ t, s.tile c th = some t ∧ Store.get 0 t.phys j = l + 1) (s.ownLine c th j) ∧
      s.bytesKept (fun l => ∃ t, s.tile c th = some t ∧ Store.get 0 t.phys j = l + 1) (fun _ => False)
        (s.ownLine c th j) ∧ (s.ownLine c th j).tile c th = s.tile c th := by
  have h0 : ∀ L : Nat → Prop, s.onlyMemory s ∧ s.tilesKept L s ∧ s.bytesKept L (fun _ => False) s ∧
      s.tile c th = s.tile c th :=
    fun L => ⟨s.onlyMemory_refl, fun _ _ => .inl rfl, fun _ _ _ => rfl, rfl⟩
  cases ht : s.tile c th with
  | none =>
    have e : s.ownLine c th j = s := by unfold State.ownLine; rw [ht]
    rw [e, ← ht]
    exact h0 _
  | some t =>
    cases hp : Store.get 0 t.phys j with
    | zero =>
      have e : s.ownLine c th j = s := by unfold State.ownLine; rw [ht]; simp only [hp]
      rw [e, ← ht]
      exact h0 _
    | succ l =>
      have e : s.ownLine c th j = s.recall l (some (c, th)) := by
        unfold State.ownLine; rw [ht]; simp only [hp]
      rw [e, ← ht, s.recall_own l c th]
      obtain ⟨h1, h2, h3⟩ := s.recall_spec l (some (c, th))
      refine ⟨h1, fun a b => ?_, fun k hk hs => h3 k hk ?_, rfl⟩
      · rcases h2 a b with h | ⟨⟨x, i, rfl, hx⟩, h⟩
        · exact .inl h
        · exact .inr ⟨⟨x, i, ⟨t, ht, hp⟩, hx⟩, h⟩
      · rintro ⟨x, rfl, hx⟩
        exact hs ⟨x, ⟨t, ht, hp⟩, hx⟩

/-- All that a write of bytes of one tile does (R160). -/
theorem State.writeAt_stash (s : State) (c th o : Nat) (l : List Byte) (t : Tile)
    (ht : s.tile c th = some t) :
    let u := s.writeAt (.stash c th o) l
    let own := fun x => Store.get 0 t.phys (o / 128) = x + 1
    s.onlyMemory u ∧
      (∀ a b, ¬ (a = c ∧ b = th) → u.tile a b = s.tile a b ∨
        (∃ line j, own line ∧ (a, b, j) ∈ s.sharers line) ∧
          u.tile a b = (s.tile a b).map Tile.givenUp) ∧
      s.bytesKept own (fun _ => False) u ∧
      u.tile c th = some { t with
        data := Store.put 0 t.data o l, st := if t.scr then t.st else .dirty } := by
  obtain ⟨h1, h2, h3, h4⟩ := s.ownLine_spec c th (o / 128)
  rw [ht] at h4
  have e : s.writeAt (.stash c th o) l = (s.ownLine c th (o / 128)).setTile c th (some { t with
      data := Store.put 0 t.data o l, st := if t.scr then t.st else .dirty }) := by
    unfold State.writeAt State.updTile
    simp only [h4]
  simp only [e]
  refine ⟨State.onlyMemory_trans h1 (State.onlyMemory_setTile _ _ _ _), fun a b hab => ?_,
    fun k hk hs => ?_, ?_⟩
  · rw [State.setTile_tile, if_neg hab]
    rcases h2 a b with h | ⟨⟨x, i, ⟨t', ht', hp⟩, hx⟩, h⟩
    · exact .inl h
    · rw [ht] at ht'
      cases ht'
      exact .inr ⟨⟨x, i, hp, hx⟩, h⟩
  · refine h3 k hk ?_
    rintro ⟨x, ⟨t', ht', hp⟩, hx⟩
    rw [ht] at ht'
    cases ht'
    exact hs ⟨x, hp, hx⟩
  · rw [State.setTile_tile, if_pos ⟨rfl, rfl⟩]

/-! ### Outstanding accesses and pending results (R40, R122, R128, R151) -/

/-- Within the frame of register writes `W` and accesses `A`, the register files as they were. -/
def State.filesKept (W : List RegId) (A : List AccKind) (s t : State) : Prop :=
  s.regsOnly W A t ∧ t.me.s = s.me.s ∧ t.me.v = s.me.v ∧ t.me.iss = s.me.iss

theorem State.filesKept_refl (W : List RegId) (A : List AccKind) (s : State) : s.filesKept W A s :=
  ⟨⟨Ctx.keepsBut_refl _ _ _, fun _ _ => rfl, fun _ => rfl, s.agendaKept_refl, rfl⟩, rfl, rfl, rfl⟩

theorem State.filesKept_trans {W : List RegId} {A : List AccKind} {s t u : State}
    (h : s.filesKept W A t) (g : t.filesKept W A u) : s.filesKept W A u :=
  ⟨State.regsOnly_trans h.1 g.1, g.2.1.trans h.2.1, g.2.2.1.trans h.2.2.1, g.2.2.2.trans h.2.2.2⟩

/-- An update of the running context with an event of its own to come. -/
theorem State.filesKept_event (W : List RegId) (A : List AccKind) (s : State) (f : Ctx → Ctx) (dt : Nat)
    (e : Instr) (hk : s.me.keepsBut W A (f s.me)) (hs : (f s.me).s = s.me.s) (hv : (f s.me).v = s.me.v)
    (hi : (f s.me).iss = s.me.iss)
    (he : ∃ id, e = .resultLanding s.cur id ∨ e = .accessCompletion s.cur id) :
    s.filesKept W A ((s.updMe f).schedule dt e) := by
  refine ⟨⟨?_, fun d hd => s.updMe_ctx_ne f d hd, fun _ => rfl,
    ⟨fun x hx => (mem_insertEv _ _ _ _).mpr (.inr hx), fun x hx => ?_⟩, rfl⟩, ?_, ?_, ?_⟩
  · rw [State.schedule_me, State.updMe_me]
    exact hk
  · rcases (mem_insertEv _ _ _ _).mp hx with rfl | hx
    · exact .inr he
    · exact .inl hx
  all_goals rw [State.schedule_me, State.updMe_me]; assumption

theorem State.filesKept_pendAt (A : List AccKind) (s : State) (reg : Option RegId) (id dt : Nat) :
    s.filesKept reg.toList A (s.pendAt reg id dt) := by
  cases reg with
  | none => exact s.filesKept_refl _ _
  | some r =>
    unfold State.pendAt
    simp only
    split
    · exact s.filesKept_refl _ _
    · exact State.filesKept_event _ _ s _ _ _ ⟨fun _ _ => rfl, fun _ _ => rfl, fun _ _ => rfl,
        Grows.snoc _ _ (by simp), .refl _ _, rfl⟩ rfl rfl rfl ⟨id, .inl rfl⟩

theorem State.filesKept_holdAt (W : List RegId) (s : State) (kind : AccKind) (remote : Bool)
    (order id dt : Nat) : s.filesKept W [kind] (s.holdAt kind remote order id dt) := by
  unfold State.holdAt
  split
  · exact State.filesKept_event _ _ s _ _ _ ⟨fun _ _ => rfl, fun _ _ => rfl, fun _ _ => rfl,
      .refl _ _, Grows.snoc _ _ (by simp), rfl⟩ rfl rfl rfl ⟨id, .inr rfl⟩
  · exact s.filesKept_refl _ _

theorem State.filesKept_spent (W : List RegId) (A : List AccKind) (s : State) (o : Bool) :
    s.filesKept W A (s.spent o) :=
  ⟨⟨Ctx.keepsBut_refl _ _ _, fun _ _ => rfl, fun _ => rfl, s.agendaKept_refl, rfl⟩, rfl, rfl, rfl⟩

theorem State.filesKept_fresh (W : List RegId) (A : List AccKind) (s : State) :
    s.filesKept W A s.fresh :=
  ⟨⟨Ctx.keepsBut_refl _ _ _, fun _ _ => rfl, fun _ => rfl, s.agendaKept_refl, rfl⟩, rfl, rfl, rfl⟩

/-- All that keeping an access outstanding and a result pending does. -/
theorem State.track_spec (s : State) (reg : Option RegId) (kind : AccKind) (remote : Bool)
    (order least : Nat) (isOpen : Bool) :
    s.filesKept reg.toList [kind] (s.track reg kind remote order least isOpen) :=
  State.filesKept_trans (State.filesKept_trans (State.filesKept_trans (s.filesKept_spent _ _ _)
    (State.filesKept_pendAt _ _ _ _ _)) (State.filesKept_holdAt _ _ _ _ _ _ _))
    (State.filesKept_fresh _ _ _)

end Sys2Proof.Machine
end

