-- ==== Sys2Proof/Tests/Slice0.lean ====
section
/-!
SUPPORT. Tests. Words and values come from the encodings, tables and worked examples of spec/. A theorem named
test_met_<statement>, with or without an ending, shows a state and operands that meet the hypotheses of a statement,
  clause by clause. What
a signature, a digest or a capsule says, and whether firmware verifies, is opaque (Config),
  so no theorem can show a verdict of theirs: those clauses have a witness for everything else they ask for.
-/
namespace Sys2Proof.Tests

open Sys2Proof Sys2Proof.Machine

-- One theorem is checked at a time: many at once would need more memory than the check allows.
set_option Elab.async false

/-! ### States -/

/-- Context 0 and the slot that acts. -/
def at_ (sl : Slot) (f : Ctx → Ctx) : State :=
  { (State.reset.setCtx 0 (f { Ctx.free with occupied := true, accN := 1 })) with slot := sl }

/-- Context 0 with the operands that its bundle has read. -/
def rd (sl : Slot) (s : List DWord) (v : Store VWord) (p : Store PWord) (fmt : Word) : State :=
  let l : Latch := ⟨Store.put 0 [] 0 s, v, p, [], [], [], [], fmt⟩
  at_ sl fun c => { c with iss := { Issue.empty with latch := l } }

/-- The same with memory of partition 0 and a partition of 2 MiB on slice 0. -/
def withMem (s : State) (a : Nat) (l : List Byte) : State :=
  (s.setPart 0 { Part.reset with live := true, n := 1, M := 2097152, clusters := 1, slices := 1 }).wrMem a l

/-- What an answer holds, if it is a next state. -/
def after {α : Type} (o : Out) (f : State → α) : Option α :=
  match o with
  | .next t => some (f t)
  | _ => none

/-- Faults raised: slot, cause, operand. -/
def raised (s : State) : List (Nat × Cause × Option DWord) :=
  s.iss.faults.map fun f => (f.slot, f.cause, f.operand)

/-! ### Decoding: words written out from R22 and R30 to R36 -/

theorem test_decode_ctl :
    (decodeWord .ctl 0 0x60320000, decodeWord .ctl 0 0x6c320000, decodeWord .ctl 0 0x7070c800) =
      (some (.caphold 3 ⟨1, by decide⟩), some (.awaitf 3 ⟨1, by decide⟩), some (.testf 7 3 ⟨1, by decide⟩)) := by
  decide +kernel
theorem test_decode_use : (decodeWord .ctl 0 0x80014000, decodeWord .ctl 0 0x85000000) =
    (some (.useopen 0 5), some (.useclose 2)) := by decide +kernel
theorem test_decode_scalar :
    (decodeWord .sa 0 0x84510620, decodeWord .sa 0 0xa0824a0a, decodeWord .sa 0 0x18518028) =
      (some (.cas false .acq false 5 4 6), some (.fdiv 8 9 10), some (.shli 5 6 40)) := by decide +kernel
theorem test_decode_scalar_memory : (decodeWord .sa 0 0x80510670, decodeWord .sb 1 0x44713ffd) =
    (some (.amo .add true .acqrel false 5 4 6), some (.ldbu 7 4 0x7ffd)) := by decide +kernel
theorem test_decode_vector : decodeWord .va 0 0x48305980 = some (.vcvt 3 1 6 .rne ⟨.w4096, 0, 0⟩) := by
  decide +kernel
theorem test_decode_shuffle : (decodeWord .xu 0 0x08800010, decodeWord .xu 0 0x0c000000, decodeWord .xu 0 0x20508080) =
    (some (.trpop 8 ⟨.w1024, 1, 0⟩), some .trclr, some (.xexp2 5 2 ⟨.w4096, 0, 0⟩)) := by decide +kernel
theorem test_decode_multiply :
    (decodeWord .mx 0 0x050d9fea, decodeWord .mx 0 0x08010fe1, decodeWord .mx 0 0x0ce4c7ec) =
      (some (.mma ⟨2, 3, 12, 255, 5, false⟩), some (.mmaq ⟨0, 0, 8, 127, 0, true⟩),
        some (.mmal ⟨1, 25, 6, 63, 6, false⟩)) := by decide +kernel
theorem test_decode_matrix : (decodeWord .mx 0 0x12800000, decodeWord .mx 0 0x1428a800, decodeWord .mx 0 0x1a1c0000,
      decodeWord .mx 0 0x20259000) =
    (some (.mxz 5), some (.mxepi 0 20 21), some (.mxcb 2 7), some (.mxst 0 9 6 .rne)) := by decide +kernel
theorem test_decode_copies : (decodeWord .dm 0 0x301fffc0, decodeWord .dm 0 0x344149f8, decodeWord .dm 0 0x2c0083f8) =
    (some (.cpygo 0 31 31 31 none), some (.cpycv 4 5 9), some (.cpybs 2 3)) := by decide +kernel
theorem test_decode_queues : (decodeWord .dm 0 0x50114010, decodeWord .dm 0 0x541180f8, decodeWord .dm 0 0x58014010) =
    (some (.enq 1 5 2), some (.deq 1 6), some (.coll 5 2)) := by decide +kernel

/-! ### Ill-formed terms, one for each check of R28 that looks at a word alone -/

theorem test_illformed_slot : Instr.wellFormed .sa (.exit) = false := by decide +kernel
theorem test_illformed_event : Instr.wellFormed .ctl (.powerLoss) = false := by decide +kernel
theorem test_illformed_special_register : Instr.wellFormed .ctl (.mfs 5 0x006) = false := by decide +kernel
theorem test_illformed_fmt_bit7 : Instr.wellFormed .ctl (.fmtset 0x80) = false := by decide +kernel
theorem test_illformed_type : Instr.wellFormed .va (.vcvt 3 1 11 .fmt ⟨.w4096, 0, 0⟩) = false := by decide +kernel
theorem test_illformed_mxst_type : Instr.wellFormed .mx (.mxst 0 1 15 .fmt) = false := by decide +kernel
theorem test_illformed_level0 : Instr.wellFormed .dm (.cpylv 0 1 2) = false := by decide +kernel
theorem test_illformed_half : Instr.wellFormed .vb (.vadd 31 1 2 ⟨.w4096, 0, 0⟩) = false := by decide +kernel
theorem test_illformed_group : Instr.wellFormed .va (.vadd 3 1 2 ⟨.w2048, 1, 0⟩) = false := by decide +kernel
theorem test_illformed_swap_source : Instr.wellFormed .va (.vswp 3 32 ⟨.w4096, 0, 0⟩) = false := by decide +kernel
theorem test_illformed_p0 : Instr.wellFormed .va (.plog 0 1 2 8) = false := by decide +kernel
theorem test_illformed_transposer : Instr.wellFormed .xu (.trpush 1 ⟨.w2048, 0, 0⟩) = false := by decide +kernel
theorem test_illformed_empty : Instr.wellFormedEmpty (.emptyBundle 3 false false) = false := by decide +kernel
theorem test_bad_words : (decodeWord .ctl 0 1, decodeWord .sa 0 0xfc000000, decodeWord .dm 0 0xfc000000) =
    (none, none, none) := by decide +kernel
theorem test_decode_fault : (match decodeBundle 0 1 [(4 : Word)] with | .error e => some e | .ok _ => none) =
    some (.opcode (some .ctl)) := by decide +kernel

/-! ### Scalar slots (R113 to R127) -/

theorem test_add_wraps : after (exec (.add 5 6 7) (rd .sa [0, 0, 0, 0, 0, 0, 0xffffffffffffffff, 2] [] [] 5))
    (fun t => t.me.rdS 5) = some 1 := by decide +kernel
theorem test_s0_discards : after (exec (.addi 0 6 9) (rd .sa [0, 0, 0, 0, 0, 0, 1] [] [] 5))
    (fun t => t.me.rdS 0) = some 0 := by decide +kernel
theorem test_div_example : after (exec (.div 5 6 7) (rd .sa [0, 0, 0, 0, 0, 0, -7, 2] [] [] 5))
    (fun t => t.me.rdS 5) = some (-3) := by decide +kernel
theorem test_rem_example : after (exec (.rem 5 6 7) (rd .sa [0, 0, 0, 0, 0, 0, -7, 2] [] [] 5))
    (fun t => t.me.rdS 5) = some (-1) := by decide +kernel
theorem test_divu_by_zero : after (exec (.divu 5 6 0) (rd .sa [0, 0, 0, 0, 0, 0, 9] [] [] 5))
    (fun t => t.me.rdS 5) = some 0xffffffffffffffff := by decide +kernel
theorem test_div_overflow : after (exec (.div 5 6 7) (rd .sa [0, 0, 0, 0, 0, 0, 0x8000000000000000, -1] [] [] 5))
    (fun t => t.me.rdS 5) = some 0x8000000000000000 := by decide +kernel
theorem test_fma_inf_times_zero : after (exec (.fma 5 6 7) (rd .sa [0, 0, 0, 0, 0, 0x3f800000, 0x7f800000, 0] [] [] 5))
    (fun t => t.me.rdS 5) = some 0x7fc00000 := by decide +kernel
theorem test_fmin_signed_zero : after (exec (.fmin 5 6 7) (rd .sa [0, 0, 0, 0, 0, 0, 0, 0x80000000] [] [] 5))
    (fun t => t.me.rdS 5) = some 0x80000000 := by decide +kernel
theorem test_fsqrt_negative : after (exec (.fsqrt 5 6) (rd .sa [0, 0, 0, 0, 0, 0, 0xbf800000] [] [] 5))
    (fun t => t.me.rdS 5) = some 0x7fc00000 := by decide +kernel

/-- 1/3 has a finite rounding in both modes, beside the finite number 1.0. -/
theorem test_met_RoundingIsCorrect :
    (∃ n k j, FTy.decode .fp32 0x3f800000 = .fin n k j) ∧
    (∃ n k j, FTy.decode .fp32 (FTy.round .fp32 .rtz false (.fin false 3 (-4))) = .fin n k j) ∧
    (∃ n k j, FTy.decode .fp32 (FTy.round .fp32 .rne false (.fin false 3 (-4))) = .fin n k j) ∧
    0x7f7fffff < 2 ^ FTy.bits .fp32 ∧ (∀ neg, FTy.decode .fp32 0x7f7fffff ≠ .inf neg) ∧
    FTy.decode .fp32 0x7f7fffff ≠ .nan :=
  ⟨⟨_, _, _, rfl⟩, ⟨_, _, _, rfl⟩, ⟨_, _, _, rfl⟩, by decide +kernel, by decide +kernel, by decide +kernel⟩

/-! ### Scalar memory (R118 to R125) -/

/-- Memory at 0x100 and s6 pointing there. -/
def mem1 : State := withMem (rd .sa [0, 0, 0, 0, 0, 0x8899aabbccddeeff, 0x100] [] [] 5) 0x100 [0x80, 0x01, 0x02, 0x83]

theorem test_met_LoadsAndStoresKeepToTheirPlace : (mem1.opS 6).toNat % 8 = 0 ∧
  mem1.route 0 (mem1.opS 6) true false = .mem 0x100 ∧
    mem1.route 0 (mem1.opS 6) false true = .mem 0x100 ∧ mem1.route 0 (mem1.opS 6) true true = .mem 0x100 ∧
    allPast mem1 3 := by unfold allPast; decide +kernel
theorem test_met_LoadsAndStoresKeepToTheirPlace_refused : mem1.route 0 0x200000 true false = .refused ∧
    mem1.route 0 0x200000 false true = .refused ∧ mem1.route 0 0x1fffff true false = .mem 0x1fffff ∧
    mem1.route 0 0x1f0000 false true = .refused := by decide +kernel
theorem test_ldb_extends : after (exec (.ldb 5 6 0) mem1) (fun t => t.me.rdS 5) = some 0xffffffffffffff80 := by
  decide +kernel
theorem test_ldwu : after (exec (.ldwu 5 6 0) mem1) (fun t => t.me.rdS 5) = some 0x83020180 := by decide +kernel
theorem test_sth : after (exec (.sth 5 6 2) mem1) (fun t => t.rdMem 0x100 5) = some [0x80, 0x01, 0xff, 0xee, 0] := by
  decide +kernel
theorem test_load_misaligned : after (exec (.ldw 5 6 2) mem1) raised = some [(1, .align, some 0x102)] := by
  decide +kernel
theorem test_amo_max : after (exec (.amo .max false .rlx false 7 6 5) mem1) (fun t => (t.me.rdS 7, t.rdMem 0x100 4)) =
    some (0xffffffff83020180, [0xff, 0xee, 0xdd, 0xcc]) := by decide +kernel

/-- An access is outstanding: a release waits. -/
theorem test_met_AtomicsReadAndWriteInOneStep_waits :
    ¬ allPast (at_ .sa fun c => { c with outst := [⟨1, .load, true, 0, 1⟩] }) 2 := by unfold allPast; decide +kernel

/-- A tile of INT8 at 0x4000 in context 0, in the state given. -/
def tile1 (st : TileSt) (busy : List BusyBy) (ro poison : List Nat) : Tile :=
  { gva := 0x4000, rstride := 0, ty := 2, unit := 0, bankY := false, scr := false, sealed := false, bv := false,
    ub := 0, st := st, busy := busy, data := [], pend := [], poison := poison, ro := ro,
    phys := (List.range 128).map (fun i => (i, 129 + i)), bad := 0 }

def withTile (t : Tile) : State :=
  withMem (at_ .sa fun c => { c with tiles := [(3, some t)], unitX := (0, 4), quota := 256 }) 0x4000 [1, 2, 3]

theorem test_met_AtomicsReadAndWriteInOneStep_tiles :
    (withTile (tile1 .full [] [] [])).route 0 0x4081 true true = .stash 0 3 0x81 ∧
    (withTile (tile1 .dirty [] [] [])).route 0 0x7fff true true = .stash 0 3 0x3fff ∧
    (withTile (tile1 .full [] [] [])).route 0 0x8000 true true = .mem 0x8000 := by decide +kernel
theorem test_met_ScalarAccessStopsByCause :
    (withTile (tile1 .empty [] [] [])).route 0 0x4000 true false = .start 0 3 ∧
    (withTile (tile1 .filling [.fill] [] [])).route 0 0x4000 true false = .wait ∧
    (withTile (tile1 .full [.mx] [] [])).route 0 0x4000 true false = .wait ∧
    (withTile (tile1 .faulted [] [] [])).route 0 0x4000 true false = .faulted ∧
    (withTile (tile1 .full [] [0] [])).route 0 0x4000 false true = .prot ∧
    (withTile (tile1 .full [] [] [0])).route 0 0x407f true false = .poison ∧
    (withTile (tile1 .dirty [.mx] [] [])).route 32 0x4000 true false = .busy := by decide +kernel
theorem test_met_ScalarAccessStopsByCause_pages :
    ((mem1.updPart 0 fun P => { P with pages := [(0, some ⟨false, true, false, 0,
      .k4⟩)] })).route 0 0x100 true false = .miss ∧
    (let s := mem1.updPart 0 fun P => { P with pages := [(0, some ⟨true, true, true, 0, .k4⟩)] }
     { s with host := { s.host with link := .down } }.route 0 0x100 true false = .hostGone) ∧
    (mem1.opS 6 + 2).toNat % 4 ≠ 0 := by decide +kernel

/-! ### Control (R96 to R110) -/

/-- Registers 0, 1, -1 and predicates p1 of no bit, p2 of one bit. -/
def ctl1 : State := rd .ctl [0, 1, -1, 65536, 65535] [] [(1, 0), (2, 1), (3, BitVec.allOnes 128)] 5

theorem test_met_BranchesChooseTheNextBundle :
    (ctl1.opS 0).toInt = 0 ∧ (ctl1.opS 1).toInt ≠ 0 ∧ 0 < (ctl1.opS 1).toInt ∧ (ctl1.opS 2).toInt < 0 ∧
    (¬ ∃ n : Fin 128, (ctl1.opP 1).getLsbD n = true) ∧ (∃ n : Fin 128, (ctl1.opP 2).getLsbD n = true) ∧
    (∀ n : Fin 128, (ctl1.opP 3).getLsbD n = true) ∧ (∀ n : Fin 128, (ctl1.opP 1).getLsbD n = false) := by
  decide +kernel
theorem test_brc_taken : after (exec (.brc .ltz 2 0x1ffff) { ctl1 with ctxs := (ctl1.updIss fun i => { i with addr :=
  8 }).ctxs })
    (fun t => t.iss.target) = some (some 4) := by decide +kernel
theorem test_brc_not_taken : after (exec (.brc .gtz 0 5) ctl1) (fun t => decide (t = ctl1)) = some true := by
  decide +kernel
theorem test_brp_none : after (exec (.brp .none 1 5) ctl1) (fun t => t.iss.target) = some (some 20) := by decide +kernel
theorem test_callr_reads_first : after (exec (.callr 62) (ctl1.updIss fun i =>
    { i with hdr := 1, latch := { i.latch with s := [(62, 0x40)] } })) (fun t => (t.iss.target, t.me.rdS 62)) =
    some (some 0x40, 8) := by decide +kernel

/-- A loop level, and a context with `n` of them. -/
def lev : LoopLevel := ⟨3, 9, 0x20, 0x10⟩
def loops (n : Nat) : State := ctl1.updMe fun x => { x with loops := List.replicate n lev }

theorem test_met_LoopsPushAndPopLevels :
    (65535 < ((loops 0).opS 3).toNat ∧ ((loops 0).opS 0).toNat = 0 ∧ ((loops 0).opS 1).toNat = 1 ∧
      ((loops 0).opS 4).toNat = 65535) ∧
    (loops 5).me.loops.length = 5 ∧ (loops 4).me.loops.length < 5 ∧ (loops 0).me.loops.length < 1 ∧
    (loops 5).me.loops[(loops 5).me.loops.length - 5]? = some lev ∧ 5 ≤ (loops 5).me.loops.length := by
  decide +kernel
theorem test_loop_zero : after (exec (.loop 0 8) (loops 0)) (fun t => (t.iss.target, t.me.loops)) =
    some (some 0x24, []) := by decide +kernel
theorem test_loop_sixth : after (exec (.loopi 1 8) (loops 5)) raised = some [(0, .illegalOperand, none)] := by
  decide +kernel
theorem test_met_SpecialRegistersAreReadAndFmtDelayed :
    let f := fun l : List (Nat × Word) => at_ .ctl fun c => { c with fmtPend := l }
    ((f []).ctx 0).fmtPend = [] ∧ ((f [(1, 7), (2, 9)]).ctx 0).fmtPend = [(1, 7), (2, 9)] ∧
    ((0x055 : BitVec 12) ∈ specialRegs ∧ (0x055 : BitVec 12) ≠ 0x020) ∧
      (0x020 : BitVec 12) ∈ specialRegs := by decide +kernel
theorem test_fmt_fourth_bundle : after (exec (.fmtset 0xfffff) (loops 0)) (fun t => t.me.fmtPend) =
    some [(4, 0xfff7f)] := by decide +kernel

/-- A command of token 3 in the journal of core 0. -/
def cmd3 (kind : CmdKind) (started : Bool) (failed : Option (FailKind × DWord)) : Cmd :=
  ⟨1, 0, 0, 0, kind, 3, [], [], started, failed, false⟩
def withCmd (s : State) (l : List Cmd) : State := s.updCore 0 fun k => { k with journal := l }

theorem test_met_TokenWaitsBlockReportOrPass :
    let run := withCmd ctl1 [cmd3 (.coll 0) true none]
    let bad := withCmd ctl1 [cmd3 (.coll 0) true (some (.rights, 0x80))]
    let lost := ctl1.updMe fun x => { x with linkFail := 0x40000000 }
    (run.producers 0 3 ≠ [] ∧ ∀ q ∈ run.producers 0 3, q.failed = none) ∧
    ((∃ q ∈ bad.producers 0 3, q.failed ≠ none) ∧ ¬ ∀ q ∈ bad.producers 0 3, q.failed = none) ∧
    (ctl1.producers 0 3 = [] ∧ ctl1.me.linkFail.getLsbD 3 = false) ∧
    lost.producers 0 30 = [] ∧ lost.me.linkFail.getLsbD 30 = true := by decide +kernel
theorem test_waitk_failed : after (exec (.waitk 3 31 31 31) (withCmd ctl1 [cmd3 (.coll 0) true (some (.rights, 0x80))]))
    (fun t => t.iss.faults) = some [⟨0, .protection, some 0x80, some 64, 0⟩] := by decide +kernel
theorem test_met_FencesNopsYieldAndTrap : let s := fun i => at_ .ctl fun c => { c with iss := i }
    Scope.ctx = .ctx ∧ Scope.sys ≠ .ctx ∧ ((s .empty).ctx 0).iss.fence = none ∧ ((s .empty).ctx 0).iss.drain = none ∧
    ((s { Issue.empty with fence := some (.sys, .full) }).ctx 0).iss.fence = some (.sys, .full) ∧
    ((s { Issue.empty with drain := some .sys }).ctx 0).iss.drain = some .sys := by decide +kernel
theorem test_trap : after (exec (.trap 0x1234) ctl1) (fun t => (t.iss.performed, raised t)) =
    some (1, [(0, .softwareTrap, some 0x1234)]) := by decide +kernel

/-! ### Vector (R129 to R150) -/

/-- A register whose 32-bit lane e is `f e`. -/
def splat (f : Nat → Nat) : VWord :=
  BitVec.ofNat 4096 ((List.range 128).foldl (fun n e => n + f e * 2 ^ (32 * e)) 0)
/-- A register whose every 32-bit lane is `x`. -/
def all32 (x : Nat) : VWord := splat (fun _ => x)
/-- v1 of 1.0, v2 of 2.0, v3 of element numbers, in the format given. -/
def vec (fmt : Word) : State :=
  rd .va [0, 127, 128, 1023, 1024] [(1, all32 0x3f800000), (2, all32 0x40000000), (3, splat id)] [(1, 5)] fmt

theorem test_met_VectorArithmeticIsElementwise : (vec 5).vt = some (.flt .fp32) ∧ (vec 0).vt = some (.int 32 true) ∧
    (vec 4).vt = some (.int 8 false) ∧ (vec 3).vt = none ∧ (vec 10).vt = none ∧ (vec 15).vt = none := by decide +kernel
theorem test_vadd : after (exec (.vadd 5 1 2 ⟨.w4096, 0, 1⟩) (vec 5)) (fun t => ((List.range 4).map
    fun e => eltBits 32 (t.me.rdV 5) e)) = some [0x40400000, 0, 0x40400000, 0] := by decide +kernel
theorem test_viota_region : after (exec (.viota 5 ⟨.w1024, 2, 0⟩) (vec 0)) (fun t => (eltBits 32 (t.me.rdV 5) 63,
    eltBits 32 (t.me.rdV 5) 65, eltBits 32 (t.me.rdV 5) 96)) = some (0, 65, 0) := by decide +kernel
theorem test_met_VectorShiftsAndLaneMoves : (∃ n sg, ETy.int 32 true = .int n sg) ∧
    (∀ n sg, ETy.flt .fp32 ≠ .int n sg) ∧ ((vec 5).opS 1).toNat < 4096 / 32 ∧ 4096 / 32 ≤ ((vec 5).opS 2).toNat :=
  ⟨⟨32, true, rfl⟩, nofun, by decide +kernel, by decide +kernel⟩
theorem test_vget : after (exec (.vget 5 3 1) (vec 0)) (fun t => t.me.rdS 5) = some 127 := by decide +kernel
theorem test_vcvt_packs : after (exec (.vcvt 5 1 6 .fmt ⟨.w1024, 0, 0⟩) (vec 5)) (fun t =>
    (eltBits 16 (t.me.rdV 5) 31, eltBits 16 (t.me.rdV 5) 32)) = some (0x3f80, 0) := by decide +kernel
theorem test_met_ConversionPacksElements : vtyOf 11 = none ∧ vtyOf 0 = some (.int 32 true) ∧
    vtyOf 6 = some (.flt .bf16) ∧ ETy.bits (.flt .fp32) = ETy.bits (.int 32 true) ∧
    ETy.bits (.flt .fp32) ≠ ETy.bits (.flt .bf16) ∧ (1 : BitVec 3) ≠ 0 ∧
      (3 : BitVec 2).toNat + Width.groups .w1024 ≤ 4 ∧
    (0 : BitVec 2).toNat + Width.groups .w4096 ≤ 4 := by decide +kernel
theorem test_met_ReductionsFoldTheGovernedElements :
    let es := fun (s : State) (l : Lanes) => (List.range 128).filter fun e => inRegion l e && (s.gov l).getLsbD e
    (vec 0).vt = some (.int 32 true) ∧ es (vec 0) ⟨.w1024, 3, 1⟩ = [] ∧ es (vec 0) ⟨.w1024, 0, 1⟩ = [0, 2] ∧
    (vec 5).vt = some (.flt .fp32) := by decide +kernel
theorem test_vred : after (exec (.vred .add 5 3 ⟨.w1024, 0, 1⟩) (vec 0)) (fun t => eltBits 32 (t.me.rdV 5) 0) =
    some 2 := by decide +kernel
theorem test_vred_float : after (exec (.vred .add 5 2 ⟨.w1024, 0, 1⟩) (vec 5)) (fun t => eltBits 32 (t.me.rdV 5) 0) =
    some 0x40800000 := by decide +kernel
theorem test_met_AccumulatorRowsMove :
    let b := (vec 5).updMe fun x => { x with accBusy := [0] }
    let e := (vec 5).updIss fun i => { i with latch := { i.latch with bad := [127] } }
    (0 * 128 + (e.opS 1).toNat ∈ e.iss.latch.bad ∧ 0 * 128 + ((vec 5).opS 1).toNat ∉ (vec 5).iss.latch.bad) ∧
    ((0 : BitVec 3).toNat < (vec 5).me.accN ∧ ((vec 5).opS 1).toNat < 128 ∧ (0 : BitVec 3).toNat ∉ (vec 5).me.accBusy) ∧
    (0 < b.me.accN ∧ (b.opS 1).toNat < 128 ∧ 0 ∈ b.me.accBusy) ∧ (vec 5).me.accN ≤ (1 : BitVec 3).toNat ∧
    128 ≤ ((vec 5).opS 2).toNat := by decide +kernel
theorem test_met_PredicatesAndSelection : (vec 5).vt = some (.flt .fp32) ∧ (1 : BitVec 6) ≠ 2 ∧
    inRegion ⟨.w1024, 2, 0⟩ 64 = true ∧ inRegion ⟨.w1024, 2, 0⟩ 96 = false := by decide +kernel
theorem test_plog : after (exec (.plog 3 1 1 0b0001) (vec 5)) (fun t => t.me.rdP 3) = some (~~~ 5) := by decide +kernel
theorem test_vcmp : after (exec (.vcmp 3 .lt 1 2 ⟨.w4096, 0, 0⟩) (vec 5)) (fun t => t.me.rdP 3) =
    some (BitVec.allOnes 128) := by decide +kernel

/-- The vector state beside memory of 2 MiB; s1 holds 0x100, s2 the stride 4, s3 the address 0x102. -/
def vmem : State := withMem (rd .va [0, 0x100, 4, 0x102] [(3, splat (4 * ·))] [(1, 5)] 5) 0x100 [1, 2, 3, 4, 5]

theorem test_met_VectorLinesMove : (vmem.opS 3).toNat % 128 ≠ 0 ∧ (vmem.opS 1).toNat % 128 = 0 ∧
    ∀ k, k < 4 → vmem.route 0 (vmem.opS 1 + BitVec.ofNat 64 (128 * k)) true false = .mem (0x100 + 128 * k) ∧
      vmem.route 0 (vmem.opS 1 + BitVec.ofNat 64 (128 * k)) false true = .mem (0x100 + 128 * k) ∧
      vmem.sharers ((0x100 + 128 * k) / 128) = [] ∧ (0x100 + 128 * k) % 128 = 0 := by decide +kernel
theorem test_vld : after (exec (.vld 5 1 0 ⟨.w4096, 0, 1⟩) vmem) (fun t => (eltBits 32 (t.me.rdV 5) 0,
    eltBits 32 (t.me.rdV 5) 1)) = some (0x04030201, 0) := by decide +kernel
theorem test_met_StridedAndIndexedElementsMove : (3 : BitVec 2).toNat + Width.groups .w1024 ≤ 4 ∧
  vmem.hasFault = false ∧
    (∀ e, e < 128 → inRegion ⟨.w1024, 0, 1⟩ e = true → (vmem.gov ⟨.w1024, 0, 1⟩).getLsbD e = true →
      (vmem.opS 1 + BitVec.ofNat 64 e * vmem.opS 2).toNat % 4 = 0 ∧
      vmem.route 0 (vmem.opS 1 + BitVec.ofNat 64 e * vmem.opS 2) true false = .mem (0x100 + 4 * e) ∧
      vmem.route 0 (vmem.opS 1 + BitVec.ofNat 64 e * vmem.opS 2) false true = .mem (0x100 + 4 * e)) ∧
    ∀ e, e < 128 → inRegion ⟨.w1024, 0, 1⟩ e = true → (vmem.gov ⟨.w1024, 0, 1⟩).getLsbD e = true →
      let a := vmem.opS 1 + BitVec.ofInt 64 (eltBits 32 (vmem.opV 3) e).toInt
      a.toNat % 4 = 0 ∧ vmem.route 0 a true false = .mem (0x100 + 4 * e) ∧
        vmem.route 0 a false true = .mem (0x100 + 4 * e) := by decide +kernel
theorem test_vsts : after (exec (.vsts 3 1 2 ⟨.w1024, 0, 1⟩) vmem) (fun t => t.rdMem 0x100 12) =
    some [0, 0, 0, 0, 5, 0, 0, 0, 8, 0, 0, 0] := by decide +kernel

/-! ### The shuffle slot (R183 to R188) -/

/-- The vector state in a slot and format; s1 is 0x100. -/
def vecIn (sl : Slot) (fmt : Word) : State := { vec fmt with slot := sl }
def res1 (left : Nat) : SfRes := ⟨9, 5, 1, 1, left, false⟩

theorem test_met_SpecialFunctionsFlyAndLand : (vecIn .xu 5).vt = some (.flt .fp32) ∧
  (vecIn .xu 6).vt = some (.flt .bf16) ∧
    ((vecIn .xu 7).vt = some (.flt .fp16) ∧ FTy.fp16 ≠ .fp32 ∧ FTy.fp16 ≠ .bf16) ∧
    (∀ j ∈ [0, 4095], ∀ r ∈ ([res1 2, res1 1, res1 1].filter fun r => decide (r.left ≤ 1)), r.vd = 5 →
      r.mask.getLsbD j = false → r.val.getLsbD j = false) := by decide +kernel
theorem test_met_SpecialFunctionsAtSpecialOperands : (1 : Nat) ≠ 0 ∧ (FTy.bf16 = .fp32 ∨ FTy.bf16 = .bf16) ∧
    ((if true then -((3 : Nat) : Int) else 3) * 2 ^ (1 : Int).toNat = -6 * 2 ^ (-(1 : Int)).toNat) ∧
    ((if false then -((12 : Nat) : Int) else 12) * 2 ^ (-2 : Int).toNat = 3 * 2 ^ (-(-2 : Int)).toNat) := by
  decide +kernel
theorem test_xrcp : after (exec (.xrcp 5 2 ⟨.w4096, 0, 0⟩) (vecIn .xu 5)) (fun t => t.me.sf.map fun r =>
    (r.left, eltBits 32 r.val 3)) = some [(12, 0x3f000000)] := by decide +kernel

/-- A transposer with `n` rows pushed in BF16, and one with `k` of 64 columns popped. -/
def trp (n : Nat) : State := (vecIn .xu 6).updMe fun x => { x with
  tr := { x.tr with fill := List.replicate n 0, bits := if n = 0 then 0 else 16 } }
def trq (k : Nat) (xf : Option Nat) : State := (vecIn .xu 6).updMe fun x => { x with
  tr := { x.tr with
    pop := some (List.replicate 64 1, 16)
    popped := k
    xfer := xf.map fun n => (List.replicate 64 1, 16, n) } }

theorem test_met_TransposerPushesAndPops :
    (let s := (trp 3).updIss fun i => { i with latch := { i.latch with fmt := 5 } }
     s.vt = some (.flt .fp32) ∧ s.me.tr.fill ≠ [] ∧ s.me.tr.bits ≠ 32) ∧
    ((trp 0).vt = some (.flt .bf16) ∧ (trp 0).me.tr.fill = [] ∧ (trp 0).me.tr.fill.length + 1 ≠ 1024 / 16) ∧
    ((trp 62).me.tr.bits = 16 ∧ (trp 62).me.tr.fill.length + 1 ≠ 1024 / 16) ∧
    ((trp 63).me.tr.bits = 16 ∧ (trp 63).me.tr.fill.length + 1 = 1024 / 16) ∧ (trp 0).me.tr.pop = none ∧
    ((trq 64 none).me.tr.pop = some (List.replicate 64 1, 16) ∧ 64 ≤ (trq 64 none).me.tr.popped) ∧
    ((trq 63 none).me.tr.pop = some (List.replicate 64 1, 16) ∧ (trq 63 none).me.tr.popped < 64 ∧ 16 * 64 = 1024) ∧
    ((trq 0 none).ctx 0).tr.xfer = none ∧ ((trq 0 (some 2)).ctx 0).tr.xfer = some (List.replicate 64 1, 16, 0 + 2) ∧
    ((trq 0 (some 1)).ctx 0).tr.xfer = some (List.replicate 64 1, 16, 1) := by decide +kernel
theorem test_trpop : after (exec (.trpop 5 ⟨.w1024, 1, 0⟩) (trq 0 none)) (fun t => (eltBits 16 (t.me.rdV 5) 64,
    eltBits 16 (t.me.rdV 5) 63, t.me.tr.popped)) = some (1, 0, 1) := by decide +kernel

/-! ### The matrix slot (R190 to R206) -/

/-- Context 0 in the slot MX, with two tiles of type `ty` on both banks and `fmt` in force. -/
def mx (ty : BitVec 4) (fmt : Word) (f : Tile → Tile) : State :=
  let a : Tile := { tile1 .full [] [] [] with ty := ty, data := Store.put 0 [] 0 [1, 2, 3], phys := [] }
  let l : Latch := ⟨[], [(1, all32 0x3f800000)], [], [], [], [], [], fmt⟩
  at_ .mx fun x => { x with
    tiles := [(1, some (f a)), (2, some { a with bankY := true, data := Store.put 0 [] 0 [4, 5, 6] })]
    iss := { Issue.empty with latch := l } }
def mm (beats1 : BitVec 8) : MmaArgs := ⟨0, 1, 2, beats1, 0, true⟩

theorem test_met_MatrixMultiplyAccumulates_operands :
    operandsReady (mx 2 0x2200 id) (mm 0) (((mx 2 0x2200 id).me.tile 1).getD (tile1 .empty [] [] []))
    (((mx 2 0x2200 id).me.tile 2).getD (tile1 .empty [] [] [])) ∧ engineFree (mx 2 0x2200 id) (some 0) :=
  ⟨by unfold operandsReady; decide +kernel, by decide +kernel, by decide +kernel, by
    rintro a ⟨⟩; decide +kernel⟩
theorem test_met_MatrixMultiplyAccumulates :
    mmaRate .plain (fmtMxa 0x2200) (fmtMxb 0x2200) = some 2 ∧ fmtMxa 0x2200 = 2 ∧ fmtBs 0x2200 = false ∧
    mmaRate .plain (fmtMxa 0x6600) (fmtMxb 0x6600) = some 4 ∧ fmtMxa 0x6600 ≠ 2 ∧
    (∃ r, mmaRate .lut4 (fmtMxa 0xa600) (fmtMxb 0xa600) = some r) ∧
    (∃ r, mmaRate .int4 (fmtMxa 0x3600) (fmtMxb 0x3600) = some r) ∧
    (mm 1).beats1.toNat + 1 = 2 * 1 ∧ (mm 255).beats1.toNat + 1 = 2 * 128 ∧ 128 ≤ 128 ∧ (mx 2 0x2200 id).me.accN = 1 ∧
    accClean (mx 2 0x2200 id) 0 128 ∧ (mm 0).z = true := by
  unfold accClean
  refine ⟨?_, ?_, ?_, ?_, ?_, ⟨_, rfl⟩, ⟨_, rfl⟩, ?_⟩ <;> decide +kernel
theorem test_met_MatrixInstructionsWaitAndRefuseInOrder :
    let late := { (mx 2 0x2200 id).updMe fun x => { x with mxUntil := 8 } with cycle := 7 }
    let taken := (mx 2 0x2200 id).updCore 0 fun k => { k with mxHolder := some 1, mxUntil := 9 }
    let busy := (mx 2 0x2200 id).updMe fun x => { x with accBusy := [0] }
    late.cycle < late.me.mxUntil ∧ (taken.me.mxUntil ≤ taken.cycle ∧ taken.engineTaken = true) ∧
    (busy.me.mxUntil ≤ busy.cycle ∧ busy.engineTaken = false ∧ (0 : BitVec 3).toNat ∈ busy.me.accBusy) ∧
    ((mx 2 0x2200 id).me.accN ≤ (1 : BitVec 3).toNat ∧ (0 : BitVec 3).toNat < (mx 2 0x2200 id).me.accN) ∧
    mmaRate .plain (fmtMxa 0x2100) (fmtMxb 0x2100) = none ∧
    (mmaRate .plain (fmtMxa 0x2200) (fmtMxb 0x2200) = some 2 ∧ ((mm 0).beats1.toNat + 1) % 2 ≠ 0 ∧
      ((mm 1).beats1.toNat + 1) % 2 = 0 ∧ ((mm 1).beats1.toNat + 1) / 2 ≤ 128) ∧
    (mmaRate .int4 (fmtMxa 0x3800) (fmtMxb 0x3800) = some 1 ∧ 128 < ((mm 128).beats1.toNat + 1) / 1) ∧
    ((mx 2 0x2200 id).me.tile 1).map (fun t => t.ty.toNat) = some (fmtMxa 0x2200) ∧
    ((mx 2 0x6200 id).me.tile 1).map (fun t => t.ty.toNat) ≠ some (fmtMxb 0x6200) ∧
    ((mx 2 0x2200 fun t => { t with sealed := true }).me.tile 1).map (fun t => (t.sealed, t.busy)) = some (true, []) ∧
    ((mx 2 0x2200 fun t => { t with st := .faulted }).me.tile 1).map (fun t => (t.sealed, t.st, t.bankY)) =
      some (false, .faulted, false) := by decide +kernel
theorem test_met_MatrixInstructionsWaitAndRefuseInOrder_tiles :
    let s := mx 5 0 id
    let t := fun f : Tile → Tile => ((mx 5 0 f).me.tile 1).map fun y => (y.busy, y.st, y.sealed)
    ((mm 0).ta.toNat < 24 ∧ (mm 0).tb.toNat < 24 ∧ (s.updMe fun x => { x with tiles := [] }).me.tile 1 = none ∧
      ((mx 5 0 id).updMe fun x => { x with tiles := [(1, x.tile 1)] }).me.tile 2 = none) ∧
    (t (fun y => { y with st := .empty }) = some ([], .empty, false) ∧
      t (fun y => { y with st := .filling }) = some ([], .filling, false) ∧
      t (fun y => { y with busy := [.mx] }) = some ([.mx], .full, false) ∧
      t (fun y => { y with sealed := true }) = some ([], .full, true)) ∧
    (s.me.tile 1).map (fun y => (y.scr, y.ty)) = some (false, 5) ∧
    ((3 : BitVec 4).toNat = 3 ∧ 10 ≤ (10 : BitVec 4).toNat ∧ (5 : BitVec 4).toNat ≠ 3 ∧ (5 : BitVec 4).toNat < 10) ∧
    ((24 : BitVec 5).toNat < 24 → False) ∧ (s.me.accN ≤ (1 : BitVec 3).toNat ∧
      (0 : BitVec 3).toNat < s.me.accN) := by decide +kernel
theorem test_mma_types : after (exec (.mma (mm 3)) (mx 2 0x6600 id)) (fun t => t.iss.faults.map fun f => (f.cause,
  f.operand)) =
    some [(.illegalFormat, some 1)] := by decide +kernel
/-- A context whose bundle has found row `r` of its accumulators in error. -/
def mxBad (r : Nat) : State := (mx 2 0 id).updIss fun i => { i with latch := { i.latch with bad := [r] } }
theorem test_met_MatrixSlotMovesAndEpilogue : fmtCbf 0x40000 < 2 ∧ 2 ≤ fmtCbf 0x80000 ∧
  engineFree (mx 2 0 id) (some 0) ∧
    engineFree (mx 2 0 id) none ∧ 0 < (mx 2 0 id).me.accN ∧ accClean (mx 2 0 id) 0 128 ∧ ¬ accClean (mxBad 127) 0 128 ∧
    accClean (mxBad 128) 0 128 :=
  ⟨by decide +kernel, by decide +kernel, ⟨by decide +kernel, by decide +kernel, by rintro a ⟨⟩; decide +kernel⟩,
    ⟨by decide +kernel, by decide +kernel, nofun⟩, by decide +kernel, by unfold accClean; decide +kernel,
    by unfold accClean; decide +kernel, by unfold accClean; decide +kernel⟩
theorem test_mxz : after (exec (.mxz 0) ((mx 2 0 id).updMe fun x => { x with acc := [(5, 1)], rs := [(0, 1)] }))
    (fun t => (t.me.acc, t.me.rs)) = some ([], []) := by decide +kernel

/-- The store into tile 1 and its end: the tile is held by the engine. -/
def mxEnd (f : Tile → Tile) : State :=
  { (mx 5 0 fun t => f { t with busy := [.mxst], pend := [(0, 7)] }).updCore 0 fun k =>
    { k with mxHolder := some 0, mxUntil := 64, mxTiles := [(0, 1)] } with cycle := 64 }

theorem test_met_MatrixStoreWritesItsTile : engineFree (mx 5 0 id) (some 0) ∧ (mx 5 0 id).me.accN = 1 ∧
    ((mx 5 0 id).me.tile 1).map (fun t => (t.busy, t.st, t.ty, t.sealed)) = some ([], .full, 5, false) ∧
    vtyOf (5 : BitVec 4).toNat = some (.flt .fp32) ∧ (∀ r ∈ (mx 5 0 id).iss.latch.bad, ¬ (128 * 0 ≤ r ∧
      r < 128 * 0 + 128)) ∧
    ((mxEnd id).core 0).mxHolder = some 0 ∧ ((mxEnd id).core 0).mxUntil ≤ (mxEnd id).cycle ∧
    ((mxEnd id).tile 0 1).map (fun t => (t.busy, t.scr)) = some ([.mxst], false) ∧
    ((mxEnd fun t => { t with scr := true }).tile 0 1).map (fun t => t.scr) = some true ∧
    ((mxEnd fun t => { t with busy := [.mx] }).tile 0 1).map (fun t => t.busy) = some [.mx] :=
  ⟨⟨by decide +kernel, by decide +kernel, by rintro a ⟨⟩; decide +kernel⟩, by decide +kernel⟩
theorem test_mxst_end_scratch : after (exec (.mxOccupancyEnd 0) (mxEnd fun t => { t with scr := true }))
    (fun t => (t.tile 0 1).map fun t => (t.st, t.busy, Store.get 0 t.data 0)) = some (some (.full, [], 7)) := by
  decide +kernel

/-- A backed tile of one sharer-free line range in a partition. -/
def mxWrite : State := withTile { tile1 .full [.mxst] [] [] with pend := [(0, 7)], phys := [] }
theorem test_met_MatrixStoreEndsWithItsLinesExclusive : (mxWrite.tile 0 3).map (fun t => t.busy) = some [.mxst] ∧
    (0, 3) ∉ (mxWrite.core 0).mxTiles ∧ mxWrite.sharers (0x4000 / 128) = [] := by decide +kernel
theorem test_mxst_end_backed : after (exec (.mxstTileWriteDone 0 3) mxWrite) (fun t => (t.tile 0 3).map fun t =>
    (t.st, t.busy, Store.get 0 t.data 0, Store.get 0 t.phys 0)) = some (some (.dirty, [], 7, 0x4000 / 128 + 1)) := by
  decide +kernel

/-! ### The data-movement slot (R155 to R181) -/

/-- A descriptor at 0x100 of an INT8 tile in unit 0 whose first byte of row 0 stands at 0x4000; the table of handles
as `l` has it. -/
def dmS (l : Store (Option Tile)) (desc : List Byte) : State :=
  let s := withMem (rd .dm [0, 0x100, 0x110, 24, 64] [] [] 5) 0x100 desc
  s.updMe fun x => { x with tiles := l, unitX := (0, 8), unitY := (8, 8), quota := 1024 }
def desc1 : List Byte := leBytes 32 (0x4000 + 2 ^ 104 * 2)
def t1 : Tile := tile1 .full [] [] []
def scr (st : TileSt) (busy : List BusyBy) : Tile := { tile1 st busy [] [] with scr := true, gva := 0, phys := [] }

theorem test_met_TilesAreMappedAndSet :
    (24 ≤ (24 : BitVec 5).toNat ∧ (dmS [(3, some t1)] desc1).me.tile 3 ≠ none) ∧
    ((dmS [] desc1).me.tile 23 = none ∧ ((dmS [] desc1).opS 2).toNat % 32 ≠ 0) ∧
    (((dmS [] desc1).opS 1).toNat % 32 = 0 ∧ (dmS [] desc1).sealedTile 0 0 0x100 = false ∧
      (dmS [] desc1).memRoute 0 0x100 true false = .mem 0x100) ∧
    (dmS [] desc1).tileCheck (BitVec.ofNat 256 (leNat desc1)) = none ∧
    (dmS [] desc1).unitsHeld (tileOf (BitVec.ofNat 256 (leNat desc1))) = false ∧
    (dmS [(33, some t1)] desc1).unitsHeld (tileOf (BitVec.ofNat 256 (leNat desc1))) = true ∧
    (dmS [] desc1).tileCheck (BitVec.ofNat 256 (2 ^ 96)) = some (3, .illegalOperand) ∧
    (dmS [] desc1).tileCheck (BitVec.ofNat 256 (2 ^ 104 * 15)) = some (4, .illegalFormat) ∧
    (dmS [] desc1).tileCheck (BitVec.ofNat 256 (2 ^ 131 + 2 ^ 104 * 5)) = some (5, .illegalFormat) ∧
    (dmS [] desc1).tileCheck (BitVec.ofNat 256 (2 ^ 131 + 2 ^ 104 * 2)) = some (6, .illegalOperand) ∧
    (dmS [] desc1).tileCheck (BitVec.ofNat 256 (2 ^ 130 + 2 ^ 104 * 2 + 128)) = some (7, .illegalOperand) ∧
    (dmS [] desc1).tileCheck (BitVec.ofNat 256 (2 ^ 104 * 2 + 2 ^ 64)) = some (8, .illegalOperand) ∧
    (dmS [] desc1).tileCheck (BitVec.ofNat 256 (2 ^ 104 * 2 + 64)) = some (9, .align) ∧
    (dmS [] desc1).tileCheck (BitVec.ofNat 256 (2 ^ 104 * 2 + 2 ^ 112 * 8)) = some (10, .illegalOperand) ∧
    (dmS [(3, some { t1 with unit := 4 })] desc1).tileCheck (BitVec.ofNat 256 (leNat desc1)) =
      some (11, .illegalOperand) := by decide +kernel
theorem test_tmap : after (exec (.tmap 5 1) (dmS [] desc1)) (fun t => (t.me.tile 5).map fun t => (t.gva, t.ty, t.st)) =
    some (some (0x4000, 2, .empty)) := by decide +kernel
theorem test_met_TilesAreMappedAndSet_tiles : let s := fun t => dmS [(3, some t)] desc1
    (∃ tl, (s t1).me.tile 3 = some tl ∧ tl.busy = [] ∧ tl.scr = false) ∧
    (∃ tl, (s (scr .full [.mx])).me.tile 3 = some tl ∧ tl.busy ≠ [] ∧ tl.scr = true) ∧
    (∃ tl, (s (scr .empty [])).me.tile 3 = some tl ∧ tl.busy = [] ∧ tl.scr = true ∧ tl.st ≠ .full) :=
  ⟨⟨_, rfl, by decide +kernel⟩, ⟨_, rfl, by decide +kernel⟩, ⟨_, rfl, by decide +kernel⟩⟩

/-- A journal of 64 commands. -/
def fullJ : List Cmd := (List.range 64).map fun n => { cmd3 (.coll 0) true none with id := n + 100, entry := n }

theorem test_met_TileCommandsArePosted :
    let s := fun t => dmS [(3, some t)] desc1
    let ringed := (s (scr .full [])).updMe fun x => { x with rings := [(0, some ⟨[3], 0, 0⟩)] }
    ((s t1).resolve 3 = some 3 ∧ (s t1).resolve 4 = none ∧ ringed.resolve 24 = some 3 ∧ (s t1).resolve 31 = none) ∧
    (ringed.me.ringMember 3 = true ∧ (s t1).me.ringMember 3 = false) ∧
    ((∀ q ∈ ((s t1).core 0).journal, q.id ≠ (s t1).nextIdent) ∧
      ((s t1).core 0).journal.countP (fun q => decide (q.entry < 64)) < 64) ∧
    ¬ ((withCmd (s t1) fullJ).core 0).journal.countP (fun q => decide (q.entry < 64)) < 64 := by decide +kernel
theorem test_tfill_starts : after (exec (.tfill 3 4) (dmS [(3, some (tile1 .empty [] [] []))] desc1))
    (fun t => ((t.me.tile 3).map fun t => (t.st, t.busy), (t.core 0).journal.map fun q => (q.kind, q.tok))) =
    some (some (.filling, [.fill]), [(.fill 0 3, 4)]) := by decide +kernel
theorem test_twb_dirty : after (exec (.twb 3 4) (dmS [(3, some (tile1 .dirty [] [] []))] desc1))
    (fun t => (t.me.tile 3).map fun t => t.busy) = some (some [.wb]) := by decide +kernel

/-- Bring-up has ended, and the host link is up. -/
def linked (s : State) : State := { s with host := { s.host with ready := true, link := .up } }
/-- A partition whose page 0 is present, page 1 in host memory and read-only; the ranges of R176 in s1 to s7. -/
def prob : State :=
  (linked (withMem (rd .dm [0, 0x100, 0x1000, 4096, 0, 0x40000000, 0x40000001, 1] [] [] 5) 0 [])).updPart 0 fun P =>
    { P with pages := [(0, some ⟨true, true, false, 0, .k4⟩), (4, some ⟨false, false, true, 0, .k4⟩)] }

theorem test_met_ProbesNoteTheirRange :
    ((prob.opS 4).toNat = 0 ∧ 2 ^ 30 < (prob.opS 6).toNat ∧ (prob.opS 5).toNat ≤ 2 ^ 30 ∧ 1 ≤ (prob.opS 7).toNat) ∧
    (16 ≤ (prob.updMe fun x => { x with probes := List.replicate 16 ⟨0, 1, false⟩ }).me.probes.length ∧
      (prob.updMe fun x => { x with probes := List.replicate 15 ⟨0, 1, false⟩ }).me.probes.length < 16) ∧
    (∀ p ∈ pagesOf 0x100 1, prob.probePage p true = .ok) ∧
    (pagesOf 0x100 4096 = [0, 1] ∧ prob.probePage 0 true = .ok ∧ prob.probePage 1 true = .waits) ∧
    (let s := { prob with host := { prob.host with link := .down } }
     s.probePage 0 true = .ok ∧ s.probePage 1 true = .bad .hostGone) ∧
    (let s := { prob with host := { prob.host with pri := [(0, 1, 1)] } }
     s.probePage 1 false = .bad .lateMiss) ∧
    (let s := prob.updMe fun x => { x with probes := [⟨0x100, 1, false⟩] }
     s.me.probes.find? (fun q => decide (q.start = 0x100 ∧ q.len = 1)) = some ⟨0x100, 1, false⟩) ∧
    ∀ q ∈ prob.me.probes, ¬ (q.start = 0x100 ∧ q.len = 1) := by decide +kernel
theorem test_probe_waits : after (exec (.probe true 1 3) prob) (fun t => (t.iss.block, t.iss.later)) =
    some (true, [.pageRequest 1]) := by decide +kernel

/-- Counts, and the geometry of R172: n × n0 × y0 × x0, pad × m × h × w, and a pitch. -/
def cpy : State := rd .dm [0, 65535, 65536, 65537, 0x0002_0001_0001, 0x0007_0003_0002_0004, 0x1_0000_0000,
  0x1_0000_0000_0000, 0x1_0000_0001] [] [] 5

theorem test_met_CopyStagingIsSet :
    (65536 < (cpy.opS 3).toNat ∧ (cpy.opS 2).toNat ≤ 65536 ∧ 65535 < (cpy.opS 2).toNat ∧ (cpy.opS 1).toNat ≤ 65535) ∧
    (((cpy.opS 4).extractLsb' 48 16).toNat = 0 ∧ ((cpy.opS 5).extractLsb' 56 8).toNat = 0) ∧
    (((cpy.opS 5).extractLsb' 0 16).toNat = 4 ∧ ((cpy.opS 5).extractLsb' 16 16).toNat = 2 ∧
      ((cpy.opS 5).extractLsb' 32 16).toNat = 3 ∧ cpy.opS 6 ≠ 0 ∧ (cpy.opS 6).toNat ≤ 2 ^ 32) ∧
    (((cpy.opS 0).extractLsb' 0 16).toNat = 0 ∧ cpy.opS 0 = 0) ∧
    (((cpy.opS 7).extractLsb' 48 16).toNat ≠ 0 ∧ 2 ^ 32 < (cpy.opS 8).toNat) := by decide +kernel
theorem test_cpylv_level0 : after (exec (.cpylv 0 2 0) cpy) (fun t => t.me.staging.c0) = some 65536 := by decide +kernel
theorem test_cpylv_too_many : after (exec (.cpylv 1 2 0) cpy) raised = some [(7, .illegalOperand, some 65536)] := by
  decide +kernel

/-- Two scratch tiles, a ring of them, a staged copy of `n` bytes, and s1 = 0x100, s2 = 1, s3 = 0x102. -/
def ringS (st : TileSt) (busy : List BusyBy) (n : Nat) : State :=
  (withMem (rd .dm [0, 0x100, 1, 0x102, 0x83, 2, 9, 0x63] [] [] 5) 0x100 [1, 2, 3]).updMe fun x => { x with
    tiles := [(3, some (scr st busy)), (4, some { scr .empty [] with bankY := true })]
    rings := [(1, some ⟨[3, 4], 0, 1⟩)]
    staging := { x.staging with c0 := n, sbase := 0x100, dbase := if n = 64 then 0x1000 else 0 } }

theorem test_met_CopiesGathersAndCollectivesArePosted :
    let s := ringS .empty [] 128
    let r : Ring := ⟨[3, 4], 0, 1⟩
    let off := s.updMe fun x => { x with staging := { x.staging with l1 := ⟨2, 0, 0xff⟩, conv := some ⟨0, 0, 0, 1, 1,
      1, 0, 1⟩ } }
    s.me.staging.badConv = false ∧ off.me.staging.badConv = true ∧ s.me.ring 0 = none ∧ s.me.ring 1 = some r ∧
    s.me.staging.fits (s.slotBytes r.slot) = true ∧
    (let t := s.updMe fun x => { x with staging := { x.staging with c0 := 65536 } }
     t.me.staging.fits (t.slotBytes r.slot) = false) ∧
    ((s.opS 1).toNat % 4 = 0 ∧ (s.opS 3).toNat % 4 ≠ 0 ∧ (s.opS 2).toNat < 65536) ∧
    (s.me.staging.conv = none ∧ s.me.staging.l2.cnt = 1 ∧ s.me.staging.l3.cnt = 1 ∧ s.me.staging.l4.cnt = 1 ∧
      s.me.staging.l5.cnt = 1) ∧ s.me.staging.gathFits 1 (s.slotBytes r.slot) = true ∧
    ((s.opS 1).toNat % 64 = 0 ∧ (s.opS 3).toNat % 64 ≠ 0) := by decide +kernel
theorem test_cpygo_ring : after (exec (.cpygo 4 31 31 31 (some 1)) (ringS .empty [] 128)) (fun t =>
    ((t.core 0).journal.map fun q => (q.kind.ringTile, q.tok), (t.me.ring 1).map Ring.wr)) =
    some ([(some 4, 4)], some 0) := by decide +kernel
theorem test_met_RingsHandTilesOver :
    let s := ringS .full [] 64
    let aimed := withCmd s [cmd3 (.copy s.me.staging (some (1, 3))) false none]
    aimed.aimedAt 1 = true ∧ s.aimedAt 1 = false ∧
    ((s.opS 0).toNat = 0 ∧ 8 < (s.opS 6).toNat) ∧ ((ringS .empty [.mx] 64).me.tile 3).map Tile.busy = some [.mx] ∧
    (ringMembers (s.opS 4) 2 = [3, 4] ∧ (s.opS 4).toNat < 2 ^ (5 * 2) ∧ (∀ h ∈ [3, 4], s.mayJoin 1 h = true) ∧
      [3, 4].Nodup ∧ ringMembers (s.opS 7) 2 = [3, 3] ∧ ¬ [3, 3].Nodup ∧ s.mayJoin 0 3 = false) ∧
    (s.me.ring 0 = none ∧ s.me.ring 1 = some ⟨[3, 4], 0, 1⟩ ∧ s.me.tile 3 = some (scr .full [])) ∧
    (ringS .faulted [] 64).me.tile 3 = some (scr .faulted []) ∧
    (ringS .full [.mx] 64).me.tile 3 = some (scr .full [.mx]) ∧
    (ringS .empty [] 64).me.tile 3 = some (scr .empty []) := by decide +kernel
theorem test_rbrel : after (exec (.rbrel 1) (ringS .full [] 64)) (fun t => ((t.me.tile 3).map Tile.st,
  (t.me.ring 1).map Ring.rd)) =
    some (some .empty, some 1) := by decide +kernel
theorem test_met_ScaleTableAndLineLocks :
    let s := dmS [] desc1
    ((s.opS 2).toNat % 64 ≠ 0 ∧ (s.opS 1).toNat % 64 = 0 ∧ s.sealedTile 0 0 (s.opS 1) = false ∧
      s.memRoute 0 (s.opS 1) true false = .mem 0x100) ∧
    (dmS [(3, some { t1 with sealed := true, gva := 0x100 })] desc1).sealedTile 0 0 0x100 = true ∧
    ((s.opS 2).toNat % 128 ≠ 0 ∧ (s.opS 1).toNat % 128 = 0) ∧ ((s.opS 0).toNat = 0 ∧ (s.opS 4).toNat % 128 ≠ 0) ∧
    ((s.opS 1).toNat ≠ 0 ∧ (s.opS 1).toNat % 128 = 0) ∧ s.lockRange (s.opS 1) 256 = [2, 3] ∧
    (s.me.quota ≠ 0 ∧ s.me.locked + 128 * 2 ≤ s.me.quota) ∧ (s.updMe fun x => { x with quota := 0 }).me.quota = 0 ∧
      (s.updMe fun x => { x with quota := 255 }).me.quota < s.me.locked + 128 * 2 := by
  decide +kernel
theorem test_l2lock_quota : after (exec (.l2lock 5 1 1) ((dmS [] desc1).updMe fun x => { x with quota := 255 }))
    (fun t => t.me.rdS 5) = some 2 := by decide +kernel

/-! ### The engines (R158 to R175) -/

/-- A tile in context 0 and a command of core 0 in the journal. -/
def eng (t : Tile) (k : CmdKind) (started : Bool) : State := withCmd (withTile t) [cmd3 k started none]

theorem test_met_FillsWriteBacksAndUnmapsEnd :
    let f := eng (tile1 .filling [.fill] [] []) (.fill 0 3) true
    let w := eng (tile1 .dirty [.wb] [] []) (.wb 0 3) true
    let q := cmd3 (.fill 0 3) true none
    let issuing := f.updMe fun x => { x with iss := { x.iss with cmd := some 1, slots := [(.sa, .stb 1 2 3)] } }
    (f.cmd 0 1 = some q ∧ f.tile 0 3 = some (tile1 .filling [.fill] [] []) ∧ f.bundleOpen q = false ∧
      f.fillFailure 0 (tile1 .filling [.fill] [] []) = none ∧ f.fillBusy 0 (tile1 .filling [.fill] [] []) = false ∧
      f.fillRefused 0 (tile1 .filling [.fill] [] []) 0 = false) ∧
    (issuing.cmd 0 1 = some q ∧ issuing.bundleOpen q = true ∧
      issuing.fillFailure 0 (tile1 .filling [.fill] [] []) = none) ∧
    (f.updCtx 32 fun x => { x with tiles := [(1,
      some (tile1 .dirty [.mx] [] []))] }).fillBusy 0 (tile1 .filling [.fill] [] []) = true ∧
    ((w.updCtx 32 fun x => { x with tiles := [(1, some (tile1 .full [.mx] [] []))] }).flushBusy 0 3
        { tile1 .dirty [.wb] [] [] with phys := [] } = true ∧ w.flushBusy 0 3 (tile1 .dirty [.wb] [] []) = false) ∧
    ((f.updPart 0 fun P => { P with pages := [(16, some ⟨false, true, false, 0, .k4⟩)] }).fillFailure 0
      (tile1 .filling [.fill] [] [])).isSome = true ∧
    (w.cmd 0 1 = some (cmd3 (.wb 0 3) true none) ∧ w.tile 0 3 = some (tile1 .dirty [.wb] [] []) ∧
      w.flushFailure 0 (tile1 .dirty [.wb] [] []) = none) ∧
    ((eng { tile1 .dirty [.wb] [] [] with phys := [] } (.wb 0 3) true).updPart 0 fun P =>
      { P with pages := [(16, some ⟨true, false, false, 0, .k4⟩)] }).flushFailure 0
        { tile1 .dirty [.wb] [] [] with phys := [] } = some (.rights, 0x4000) ∧
    (eng (tile1 .full [] [] []) (.unmap 0 3) true).tile 0 3 = some (tile1 .full [] [] []) := by decide +kernel
theorem test_fill_fails : after (exec (.fillFail 0 1) ((eng (tile1 .filling [.fill] [] []) (.fill 0 3) true).updPart 0
    fun P => { P with pages := [(16, some ⟨false, true, false, 0, .k4⟩)] }))
    (fun t => ((t.tile 0 3).map fun t => (t.st, t.busy, t.bad), (t.core 0).journal.map Cmd.failed)) =
    some (some (.faulted, [], 0x4000), [some (.miss, 0x4000)]) := by decide +kernel
theorem test_met_CommandsStartWhenTheirTokensHaveSignalled :
    let s := fun (k : CmdKind) => eng (tile1 .empty [] [] []) k false
    let g := Staging.init
    (∀ k ∈ [CmdKind.copy g none, .gath g 0 0 none, .copy g (some (1, 4)), .gath g 0 0 (some (1, 4)), .enq 1 0 .zero,
      .coll 0, .fill 0 3, .wb 0 3, .unmap 0 3], (s k).cmd 0 1 = some (cmd3 k false none)) ∧
    [2].any (s (.coll 0)).cmdOpen = false ∧ [1].any (s (.coll 0)).cmdOpen = true ∧
    ((cmd3 (.coll 0) false none).entry ≠ 65 ∧ (s (.coll 0)).bundleOpen (cmd3 (.coll 0) false none) = false) ∧
    (g.isEmpty = true ∧ ({ g with c0 := 4 } : Staging).isEmpty = false ∧ g.c0 = 0) ∧
    ((s (.fill 0 3)).tile 0 3).map (fun t => (t.st, t.scr, t.busy)) = some (.empty, false, []) ∧
    ((eng (tile1 .dirty [] [] []) (.wb 0 3) false).tile 0 3).map (fun t => (t.st, t.busy)) = some (.dirty, []) ∧
    ((eng (tile1 .full [.mx] [] []) (.wb 0 3) false).tile 0 3).map (fun t => t.busy) = some [.mx] ∧
    (CmdKind.copy g (some (1, 4))).ringTile = some 4 := by decide +kernel
theorem test_wb_waits : after (exec (.dmCommandStart 0 1) (eng (tile1 .full [.mx] [] []) (.wb 0 3) false))
    (fun t => (t.agenda, (t.core 0).journal.map Cmd.started)) =
    some ([(0, .bringUpComplete), (1, .dmCommandStart 0 1)], [false]) := by decide +kernel
theorem test_met_CopiesEndWithTheirBytesWritten :
    let g : Staging := { Staging.init with c0 := 4, sbase := 0x4000, dbase := 0x5000 }
    let s := eng (tile1 .empty [] [] []) (.copy g none) true
    let r := eng (scr .empty [.copy]) (.copy { g with dbase := 0 } (some (1, 3))) true
    g.moves = [⟨4, 0, some 0x4000, 0⟩] ∧ s.cmd 0 1 = some (cmd3 (.copy g none) true none) ∧
    s.engXlate (some 0) 0 0x4000 false = .ok 0x4000 true ∧ s.engXlate (some 0) 0 0x5000 true = .ok 0x5000 true ∧
    (s.cmdBusy (cmd3 (.copy g none) true none) = false ∧ s.copying (cmd3 (.copy g none) true none) = true) ∧
    (s.updCtx 32 fun x => { x with tiles := [(1,
      some (tile1 .dirty [.mx] [] []))] }).cmdBusy (cmd3 (.copy g none) true none) = true ∧
    (r.tile 0 3 = some (scr .empty [.copy]) ∧ r.runFail 0 0x4000 4 false (some 0) = none) ∧
    (let m := s.updPart 0 fun P => { P with pages := [(16, some ⟨false, true, false, 0, .k4⟩)] }
     m.cmdFailure (cmd3 (.copy g none) true none) = some (.miss, 0x4000) ∧
       m.cmdBusy (cmd3 (.copy g none) true none) = false ∧
     m.runFail 0 0x4000 4 false (some 0) = some (.miss, 0x4000)) := by decide +kernel
theorem test_copy_ends : after (exec (.copyComplete 0 1) (eng (tile1 .empty [] [] [])
    (.copy { Staging.init with c0 := 4, sbase := 0x4000, dbase := 0x5000 } none) true))
    (fun t => (t.rdMem 0x5000 5, (t.core 0).journal.length)) = some ([1, 2, 3, 0, 0], 0) := by decide +kernel
theorem test_met_ResultsLandAndForeignLinesAreWritten :
    let s := fun b : Access => at_ .sa fun c => { c with outst := [b] }
    let find := fun b : Access => ((s b).ctx 0).outst.find? (fun b => decide (b.id = 1)) = some b
    (0x80 % 128 = 0 ∧ 0x81 % 128 ≠ 0 ∧ (16 : Nat) ≤ 16 ∧ (16 : Nat) < 17) ∧ find ⟨1, .load, true, 0, 1⟩ ∧
      find ⟨1, .load, true, 0, 2⟩ ∧
    find ⟨1, .load, false, 0, 0⟩ ∧ (∀ b ∈ ((s ⟨2, .load, true, 0, 1⟩).ctx 0).outst, b.id ≠ 1) ∧
    (mem1.refuses 0 0x80 true = false ∧ mem1.lineBusy (keyOf 0 0x80 / 128) none true = false) ∧
    (mem1.refuses 0 0x200000 true = true ∧ mem1.refuses 1 0 true = true ∧ (mem1.part 0).live = true ∧
      (mem1.part 1).live = false) ∧
    ((withTile (tile1 .dirty [.mx] [] [])).refuses 0 0x4000 false = false ∧
      (withTile (tile1 .dirty [.mx] [] [])).lineBusy (keyOf 0 0x4000 / 128) none false = true) := by decide +kernel

/-! ### Frontiers and queues (R246 to R263) -/

/-- A time of epoch `e`. -/
def tm (e : BitVec 32) : LTime := ⟨e, 0, 0, 0, 0, 0⟩

/-- Image port 1 is bound to partition port 5, a queue of two lines at 0x8000; the context is at epoch 4 and holds the
capabilities given. -/
def fr (caps : List Cap) (f : Ctx → Ctx) : State :=
  let p : Port := ⟨true, 0x8000, 2, 0, []⟩
  ((withMem (rd .ctl [0, 0x100, 0x101] [] [] 5) 0x100 [9]).updMe fun x => f { x with
    portN := 2, ports := [(1, 5)], caps := caps, iss := { x.iss with time := tm 4 } }).updPart 0 fun P =>
      { P with ports := [(5, p)] }
def open1 : Access := ⟨1, .store, true, 0, 0⟩
def inc1 (st : IncSt) : Inc := ⟨1, .ctl, 5, tm 4, true, st⟩

theorem test_met_CapabilitiesCountWhatTheyHold :
    let idle := fr [] id
    ((idle.me.port 0 = none ∧ idle.me.port 2 = none) ∧ idle.me.port 1 = some 5 ∧ (idle.part 0).underflow = none) ∧
    ((idle.updPart 0 fun P => { P with underflow := some (3, tm 2) }).part 0).underflow = some (3, tm 2) ∧
    (idle.me.cap 5 = none ∧ idle.me.caps.length < 16) ∧
    ((fr [⟨5, 1, 0, tm 2⟩] id).me.cap 5 = some ⟨5, 1, 0, tm 2⟩ ∧ (tm 2).toNat < (tm 4).toNat ∧ (tm 4).trunc 0 = tm 4) ∧
    (16 ≤ (fr (List.replicate 16 ⟨6, 2, 0, tm 2⟩) id).me.caps.length ∧
      (fr (List.replicate 15 ⟨6, 2, 0, tm 2⟩) id).me.caps.length < 16) ∧
    ((tm 4).trunc 0 = tm 4 ∧ (tm 4).toNat < (tm 5).toNat) ∧
    ((fr [] fun x => { x with outst := [open1] }).me.outst = [open1] ∧ ¬ 2 ≤ open1.stage ∧
      (fr [] fun x => { x with outst := [open1] }).incOf .ctl = none) ∧ idle.me.outst = [] ∧
    (∀ st ∈ [IncSt.acked, .sent, .counted, .refused, .ackedRefused],
      (fr [] fun x => { x with incs := [inc1 st] }).incOf .ctl = some (inc1 st)) ∧
    ((fr [] fun x => { x with incs := [inc1 .sent] }).ctx 0).incs.find?
      (fun i => decide (i.slot = .ctl ∧ i.st = .sent)) = some (inc1 .sent) ∧
    (let s := fr [] fun x => { x with incs := [{ inc1 .sent with id := 2 }] }
     let t := s.updCtx 1 fun x => { x with incs := [inc1 .sent] }
     ((s.ctx 0).incs.map Inc.id = [2] ∧ (s.ctx 1).incs = []) ∧ ((t.ctx 1).incs.map Inc.id = [1] ∧ 1 / 32 = 0 / 32)) ∧
    (Frontier.fin (tm 5)).passes (tm 4) = true ∧ (Frontier.fin (tm 4)).passes (tm 4) = false := by decide +kernel
theorem test_caphold_sends : after (exec (.caphold 1 0) (fr [] id)) (fun t => (t.iss.stall, t.iss.later)) =
    some (true, [.increment .ctl 5 (tm 4) true]) := by decide +kernel
theorem test_capadv_counts : after (exec (.capadv 1) (fr [⟨5, 1, 0, tm 2⟩] fun x => { x with incs := [inc1 .acked] }))
    (fun t => ((t.cluster 0).batch, t.me.caps)) = some ([⟨5, tm 2, -1⟩], [⟨5, 1, 0, tm 4⟩]) := by decide +kernel

/-- The queue with `n` lines in it. -/
def frq (n : Nat) (caps : List Cap) : State := (fr caps id).updPart 0 fun P =>
  { P with ports := [(5, ⟨true, 0x8000, 2, 0, List.replicate n (tm 3)⟩)] }

theorem test_met_QueuesCarryLinesWithTheirTimes :
    let s := frq 0 [⟨5, 1, 0, tm 4⟩]
    let cl := fun f : Frontier => s.updCluster 0 fun k => { k with ann := [(5, some f)] }
    portReady s 1 5 ∧ (reachedAt (cl .inf) 5 0 ∧ reachedAt (cl (.fin (tm 4))) 5 0) ∧
    ((frq 0 []).part 0).port 5 = ⟨true, 0x8000, 2, 0, []⟩ ∧
    ((mem1.part 0).port 5).queue = false ∧ ((s.opS 2).toNat % 128 ≠ 0 ∧ (s.opS 1).toNat % 128 = 0) ∧
    (let h := (s.updPart 0 fun P => { P with pages := [(32, some ⟨true, true, true, 8, .k4⟩)] })
     h.queueGone 0 ((h.part 0).port 5) 0 = true ∧ s.queueGone 0 ((s.part 0).port 5) 0 = false ∧
       s.sealedBy 0 0x8000 = none) ∧
    (s.me.cap 5 = some ⟨5, 1, 0, tm 4⟩ ∧ (tm 4).toNat ≤ s.me.iss.time.toNat) ∧ (frq 0 []).me.cap 5 = none ∧
    (((frq 2 []).part 0).port 5).times = tm 3 :: [tm 3] ∧ s.route 0 (s.opS 1) false true = .mem 0x100 ∧
    (let f := frq 2 []
     let b := f.updMe fun x => { x with tiles := [(3, some { tile1 .dirty [.mx] [] [] with phys := [(0, 257)] })] }
     f.queueBusy 0 ((f.part 0).port 5) 0 false = false ∧ b.queueBusy 0 ((b.part 0).port 5) 0 false = true) ∧
    (let q := cmd3 (.enq 5 0x100 (tm 4)) true none
     let e := withCmd (frq 1 []) [q]
     e.cmd 0 1 = some q ∧ e.runFail 0 0x100 128 false = none ∧
       ¬ ((e.part 0).port 5).cap ≤ ((e.part 0).port 5).times.length ∧
       e.enqBefore q 5 = false ∧ (e.ctx 0).openOf q.after 2 = false ∧ e.runBusy 0 0x100 128 false = false ∧
       e.queueBusy 0 ((e.part 0).port 5) 1 true = false ∧
       e.queueGone 0 ((e.part 0).port 5) 1 = false ∧ e.sealedBy 0 0x8080 = none ∧ e.sealedBy 0 0x8110 = none ∧
         ((frq 2 []).part 0 |>.port 5).cap ≤ 2) := by
  refine ⟨⟨?_, ?_⟩, ⟨⟨_, rfl, ?_⟩, ⟨_, rfl, ?_⟩⟩, ?_⟩ <;> decide +kernel
theorem test_awaitf_blocks : after (exec (.awaitf 1 0) (fr [] id)) (fun t => t.iss.block) = some true := by
  decide +kernel
theorem test_deq : after (exec (.deq 1 1) (((frq 2 []).wrMem 0x8000 [7, 8]).updMe id)) (fun t => (t.rdMem 0x100 3,
    ((t.part 0).port 5).head, t.me.rt, (t.cluster 0).batch)) =
    some ([7, 8, 0], 1, tm 3, [⟨5, tm 3, -1⟩]) := by decide +kernel

/-- A partition on cluster 0 whose batch holds a change. -/
def cho (f : Part → Part) : State :=
  ((fr [] id).updPart 0 fun P => f { P with counts := [⟨5, tm 2, 1⟩] }).updCluster 0 fun k =>
    { k with cond := .held 0, batch := [⟨5, tm 2, -1⟩] }

theorem test_met_ChorusAnnouncesTheLeastHeldTimes :
    let s := cho fun P => { P with changed := true }
    ((s.part 0).live = true ∧ (s.part 0).changed = true ∧ (s.part 0).closed = none ∧ (s.part 0).pendingAnn = false ∧
      (s.part 0).underflow = none ∧ s.clustersOf 0 = [0]) ∧
    ((cho fun P => { P with closed := some [⟨5, tm 2, -2⟩] }).part 0).closed = some [⟨5, tm 2, -2⟩] ∧
    (let a := (cho fun P => { P with closed := some [], ahead := [3] })
     (a.part 0).closed ≠ none ∧ 3 ∉ a.incsSent 0 ∧
       3 ∈ (a.updMe fun x => { x with incs := [{ inc1 .sent with id := 3 }] }).incsSent 0) ∧
    ([⟨5, tm 2, -2⟩] : List Delta).foldl addCount [⟨5, tm 2, 1⟩] = [⟨5, tm 2, -1⟩] ∧
    ([⟨5, tm 2, -1⟩] : List Delta).foldl addCount [⟨5, tm 2, 1⟩] = [] ∧
    ((cho fun P => { P with pendingAnn := true, changed := true }).part 0).pendingAnn = true ∧
    (s.part 0).frontier [] 5 = .inf ∧ (s.part 0).frontier [⟨5, tm 2, 1⟩] 5 = .fin (tm 2) := by decide +kernel
theorem test_round : after (exec (.roundCompute 0) (cho fun P => { P with closed := some [⟨5, tm 3, 1⟩] }))
    (fun t => (Store.get none (t.part 0).ann 5, (t.part 0).pendingAnn)) = some (some (.fin (tm 2)), true) := by
  decide +kernel

/-! ### Uses (R222 to R235) -/

def body1 (expiry : Nat) : TermsBody := ⟨0, 0, 1, 7, 0, expiry, 2, 5, 10, 4096, 3⟩
def handle1 (expiry n : Nat) : Handle := ⟨body1 expiry, [4], some (0, 0x10000), 0, 0, 0, 0, 0, n, 0⟩
def ask1 (kind : Nat) (ans : Bool) (check : Nat) : Ask := ⟨.ctl, 1, kind, 3, ans, check, false, 8, 9⟩

/-- Handle 3 installed as given, two bindings granted, binding 1 as given, and the question given; s1 = 3, s2 = 4096. -/
def uses (h : Option Handle) (b : Binding) (asks : List Ask) : State :=
  let s := (rd .ctl [0, 3, 4096] [] [] 5).updMe fun x =>
    { x with ubN := 2, ub := [(1, b)], asks := asks, identity := 6 }
  let g : Image := { imageOf [0] with digest := 4 }
  (s.updPart 0 fun P => { P with policy := { P.policy with tenant := 7 }, images := [(0, some g)] }).setHandle 3 h
def unit1 (t : Terms → Terms) (s : State) : State := { s with terms := t s.terms }
def never : Nat := 2 ^ 64 - 1

theorem test_met_UseBindingsOpenAndClose :
    let s := uses (some (handle1 never 64)) .none []
    (4096 ≤ (s.opS 2).toNat ∧ (s.opS 1).toNat < 4096) ∧ (s.me.ubN ≤ (2 : BitVec 3).toNat ∧
      (1 : BitVec 3).toNat < s.me.ubN) ∧
    (s.me.binding 1).st = .free ∧ ((uses none ⟨.reserved, 3, 8, 0⟩ []).me.binding 1).st ≠ .free ∧
      s.askOf .ctl 0 = none ∧
    (uses none .none [ask1 0 false 0]).askOf .ctl 0 = some (ask1 0 false 0) ∧
    (∀ k ∈ [0, 1, 4, 5, 6], (uses none .none [ask1 0 true k]).askOf .ctl 0 = some (ask1 0 true k)) ∧
    (uses none .none [ask1 1 true 0]).askOf .ctl 1 = some (ask1 1 true 0) ∧ s.beatsOn 1 = false ∧
    (let t := { withTile { tile1 .full [.mx] [] [] with sealed := true, ub := 1 } with cycle := 3 }
     ((t.updMe fun x => { x with mxUntil := 9, ubN := 2 }).updCore 0 fun k => { k with mxTiles := [(0,
       3)] }).beatsOn 1 = true) ∧
    (let t := unit1 (fun t => { t with resv := [⟨8, 3, 0, false, 0,
      6⟩] }) (uses (some (handle1 never 64)) ⟨.reserved, 3, 8, 0⟩ [])
     t.terms.resv.find? (fun r => decide (r.serial = (t.me.binding 1).serial ∧ r.holder = t.me.identity)) =
       some ⟨8, 3, 0, false, 0, 6⟩ ∧ (t.handle 3).isSome = true) := by decide +kernel
theorem test_useopen_denied : after (exec (.useopen 1 1) (uses none .none [ask1 0 true 1]))
    (fun t => t.iss.faults.map fun f => (f.cause, f.operand, f.detail, f.terms)) =
    some [(.termsDenied, some 3, some 1, 0x9003)] := by decide +kernel
theorem test_met_TheTermsUnitReservesCommitsAndRefuses :
    let q := ask1 0 false 0
    let s := uses (some (handle1 never 64)) .none [q]
    let put := fun (s : State) => (s.ctx 0).asks.find? (fun a => decide (a.slot = .ctl) && !a.answered)
    (put s = some q ∧ q.handle.toNat = 3 ∧ (uses none .none [q]).handle 3 = none) ∧
    (s.openCheck 0 3 = (0, false) ∧ 0 + 0 + 1 ≤ 64 ∧ s.terms.resv.length < 2 ^ 31) ∧
    ((uses (some (handle1 never 0)) .none [q]).openCheck 0 3 = (0, false) ∧ 0 < 0 + 0 + 1) ∧
    (uses (some (handle1 9 64)) .none [q]).openCheck 0 3 = (5, true) ∧
    (unit1 (fun t =>
      { t with synced := true, clockBase := 9 }) (uses (some (handle1 9 64)) .none [q])).openCheck 0 3 = (5, false) ∧
    (uses (some { handle1 never 64 with used := 2 }) .none [q]).openCheck 0 3 = (6, false) ∧
    put (uses none .none [ask1 1 false 0]) = some (ask1 1 false 0) ∧
    (let b := fun st => uses (some (handle1 9 64)) ⟨st, 3, 8, 0⟩ [ask1 2 false 0]
     put (b .reserved) = some (ask1 2 false 0) ∧ ((b .free).ctx 0 |>.binding 1).st = .free ∧
       ((b .reserved).ctx 0 |>.binding 1).st = .reserved ∧ ((b .committed).ctx 0 |>.binding 1).st = .committed ∧
       (b .reserved).tclock < 9 ∧ 9 ≤ (unit1 (fun t => { t with clockBase := 9 }) (b .reserved)).tclock ∧ 9 ≠ never) ∧
    (let t := unit1 (fun t => { t with nv := [⟨3, 64⟩] }) s
     t.terms.nv.find? (fun w => decide (w.handle = 3)) = some ⟨3, 64⟩ ∧ t.handle 3 = some (handle1 never 64)) := by
  decide +kernel
theorem test_open_reserves : after (exec (.termsUnitAnswer 0 .ctl)
    (uses (some (handle1 never 64)) .none [ask1 0 false 0]))
    (fun t => ((t.ctx 0).asks.map fun q => (q.check, q.serial), (t.handle 3).map Handle.reserved)) =
    some ([(0, 1)], some 1) := by decide +kernel
theorem test_first_beat_meters : after (exec (.termsUnitAnswer 0 .ctl)
    (uses (some { handle1 never 64 with reserved := 1 })
    ⟨.reserved, 3, 8, 0⟩ [ask1 2 false 0])) (fun t => ((t.handle 3).map fun x => (x.reserved, x.used, x.meter),
    ((t.ctx 0).binding 1).st)) = some (some (0, 1, 5), .committed) := by decide +kernel

/-! ### Traps and the ends of contexts (R83 to R92, R109, R210 to R220, R234) -/

/-- Context 0 with these faults of its bundle at 0x40, in a cluster whose Gecko keeps its ring at 0x8000. -/
def trp1 (l : List SlotFault) : State :=
  (ctl1.updMe fun x => { x with iss := { x.iss with faults := l, addr := 0x40, performed := 2 } }).updCluster 0 fun k =>
    { k with trbase := 0x8000 }
def flt1 (n : Nat) (c : Cause) : SlotFault := ⟨n, c, some 3, some 4, 0⟩
def rec1 (c : Cause) : TrapRec := ⟨0x40, c, 0, 2, 0, 1, 3, .zero, 0, 0, 4, 0, 0⟩
def frozen1 (c : Cause) : State := ctl1.updMe fun x => { x with frozen := true, trap := some (rec1 c) }

theorem test_met_TrapsFreezeReportAndResume :
    lowestFault (trp1 []).me.iss.faults = none ∧
    lowestFault (trp1 [flt1 3 .align, flt1 1 .lateMiss]).me.iss.faults = some (flt1 1 .lateMiss) ∧
    (((frozen1 .lateMiss).cluster 0).busy = false ∧ ((frozen1 .lateMiss).cluster 0).cond ≠ .transit) ∧
    (((frozen1 .lateMiss).updCluster 0 fun k => { k with cond := .transit }).cluster 0).cond = .transit ∧
    (((frozen1 .lateMiss).updCluster 0 fun k => { k with ctxcmd := 1 }).cluster 0).busy = true ∧
    ((frozen1 .fillFault).ctx 0).trap = some (rec1 .fillFault) ∧ ((frozen1 .fillFault).ctx 0).frozen = true ∧
    Cause.align ∉ [Cause.lateMiss, .softwareTrap, .linkFailed, .fillFault, .hostGone] ∧
    (let s := (trp1 []).updCluster 0 fun k => { k with trWait := [(0, rec1 .align)], trhead := 255 }
     (s.cluster 0).trWait = (0, rec1 .align) :: [] ∧ ((s.cluster 0).trhead - (s.cluster 0).trtail).toNat < 256) ∧
    (let s := (trp1 []).updCluster 0 fun k => { k with trWait := [(0, rec1 .align)], trhead := 256 }
     ¬ ((s.cluster 0).trhead - (s.cluster 0).trtail).toNat < 256) := by decide +kernel
theorem test_trap_entry : (let t := (trp1 [flt1 3 .align, flt1 1 .lateMiss]).takeTrap 0
    ((t.ctx 0).frozen, (t.cluster 0).trWait.map fun r => (r.2.addr, r.2.cause, r.2.slot, r.2.flags, r.2.operand))) =
    (true, [(0x40, .lateMiss, 1, 1, 3)]) := by decide +kernel
theorem test_resume : after (exec (.ctxResume 0) (frozen1 .softwareTrap)) (fun t => ((t.ctx 0).frozen,
  (t.ctx 0).iss.replay)) =
    some (false, true) := by decide +kernel
theorem test_resume_not_recoverable :
    after (exec (.ctxResume 0) (frozen1 .align)) (fun t => (t.ctx 0).frozen) = some true := by
  decide +kernel
theorem test_record_lands : after (exec (.trapRecordAppend 0) ((trp1 []).updCluster 0 fun k => { k with trWait :=
  [(0, rec1 .align)] }))
    (fun t => (t.rdMem (keyOf 32 0x8000) 2, (t.cluster 0).trhead)) = some ([0x40, 0], 1) := by decide +kernel

/-- A context that the dispatcher has asked to stop, at a safe point that keeps s1. -/
def stop1 (f : Ctx → Ctx) : State :=
  ctl1.updMe fun x => f { x with stopReq := some ⟨[.preempt], none, 0, false⟩, safe := some ⟨2, 0, 0, 0⟩ }

theorem test_met_ContextsExitStopAndReturn :
    ((ctl1.updMe fun x => { x with mxUntil := 1 }).cycle < 1 ∧
      (withCmd ctl1 [cmd3 (.coll 0) true none]).tokensRun 0 = true ∧
      (ctl1.updMe fun x => { x with outst := [open1] }).me.outst = [open1] ∧ ¬ 2 ≤ open1.stage) ∧
    (ctl1.me.mxUntil ≤ ctl1.cycle ∧ ctl1.tokensRun 0 = false ∧ ctl1.me.outst = [] ∧ ctl1.tokensFailed 0 = [] ∧
      ctl1.tilesRun 0 = false) ∧
    ((withCmd ctl1 [cmd3 (.coll 0) true (some (.miss, 4))]).tokensFailed 0 ≠ [] ∧
      (withCmd ctl1 [cmd3 (.coll 0) true (some (.miss, 4))]).tokensRun 0 = false) ∧
    (withTile (tile1 .filling [.fill] [] [])).tilesRun 0 = true ∧
    ((ctl1.cluster 0).busy = false ∧ (ctl1.ctx 0).occupied = true ∧ (ctl1.ctx 0).stopReq = none ∧
      (ctl1.ctx 0).frozen = false ∧
      (ctl1.ctx 0).ending = none ∧ (ctl1.cluster 0).cond ≠ .transit) ∧
    (let t := ctl1.updCluster 0 fun k => { k with cond := .transit }
     let b := ctl1.updCluster 0 fun k => { k with ctxcmd := 0x04000001 }
     (t.cluster 0).cond = .transit ∧ (b.cluster 0).busy = true ∧
       ((b.cluster 0).ctxcmd ≠ BitVec.ofNat 32 (4 * 2 ^ 24 + 1 % 32 * 2 ^ 16 + 1) ∧ 1 / 32 = 0)) ∧
    (let e := fun (n : Nat) (s : State) => s.updMe fun x => { x with ending := some (n, 0) }
     ((e 0 ctl1).me.ending = some (0, 0) ∧ (e 0 ctl1).me.tiles = [] ∧ ¬ (e 0 ctl1).endWaits 0 0) ∧
     ((e 9 ctl1).me.tiles = [] ∧ (e 9 ctl1).endWaits 0 9) ∧
     (e 9 (withTile (tile1 .full [] [] []))).tile 0 3 = some (tile1 .full [] [] [])) ∧
    ((frozen1 .align).ctx 0).frozen = true ∧
    ((stop1 id).ctx 0).stopReq = some ⟨[.preempt], none, 0, false⟩ ∧ ((stop1 id).ctx 0).mayStop = false ∧
    ((stop1 fun x => { x with afterSafe := true }).ctx 0).mayStop = true ∧
    (stop1 fun x => { x with afterSafe := true }).stopWaits 0 = false ∧
    (stop1 fun x => { x with afterSafe := true, outst := [open1] }).stopWaits 0 = true ∧
    (let v : Saved := ⟨0x1000, { Ctx.free with accN := 1, identity := 6 }, [], 0, 5, .gecko⟩
     let s := (State.reset.updPart 0 fun P => { P with live := true, saved := [v] }).updCluster 0 fun k =>
       { k with cond := .held 0, ctxsave := 0x1000 }
     (s.cluster 0).busy = false ∧ (s.cluster 0).cond = .held 0 ∧
       (s.part 0).saved.find? (fun v => decide (v.area = (s.cluster 0).ctxsave ∧ v.why ≠ .move)) = some v ∧
       (s.part 0).resize = none ∧
       (s.areaBusy 0 0x1000 0 v.ctx.areaSize false = false ∧ (s.part 0).moves v.ctx = false) ∧
       ((s.updPart 0 fun P => { P with map := [(0, 0x8000)], resize := some ⟨.quiesce, 2, 1, [(0, 0x8001)], 1000,
         false, false, 0, [], 0, 0, none, none, 0⟩ }).part 0).moves v.ctx = true ∧
       s.roomAt 0 1 0 0 = some (0, 0)) := by
  unfold State.endWaits
  decide +kernel
theorem test_exit_frees : after (exec .exit ctl1) (fun t => (decide (t.ctx 0 = ctl1.me.ended), (t.ctx 0).occupied)) =
    some (true, false) := by decide +kernel
theorem test_stop_keeps_named : after (exec (.contextStop 0) (stop1 fun x => { x with afterSafe := true, s := [(1,
  5), (2, 6)] }))
    (fun t => ((t.ctx 0).occupied, (t.part 0).saved.map fun v => (v.ctx.rdS 1, v.ctx.rdS 2))) =
    some (false, [(5, 0)]) := by decide +kernel

/-- Contexts 0 (priority 3), 1 and 2 (priority 2) of core 0. -/
def sel (run : Option Nat) (f : State → State) : State :=
  let c := fun p : BitVec 4 => { Ctx.free with occupied := true, pri := p, afterSafe := true }
  f ((((State.reset.setCtx 0 (c 3)).setCtx 1 (c 2)).setCtx 2 (c 2)).updCore 0 fun k =>
    { k with running := run, last := [(2, 1)] })

theorem test_met_TheSelectorGoesByPriorityAndTurn :
    ((sel none id).core 0).running = none ∧ (sel none id).readyOn 0 = [0, 1, 2] ∧ State.reset.readyOn 0 = [] ∧
    ((sel (some 1) id).core 0).running = some 1 ∧
    (let s := sel (some 1) fun s => { s with cycle := 8192 }
     (s.ctx 1).afterSafe = true ∧ (s.core 0).selAt + 8192 ≤ s.cycle ∧ 2 ∈ s.readyOn 0 ∧ (s.ctx 2).pri = (s.ctx 1).pri) ∧
    (0x02000000 : DWord).toNat / 2 ^ 24 % 16 = 2 ∧ (State.reset.cluster 0).cond ≠ .transit ∧
    ((State.reset.updCluster 0 fun k => { k with cond := .transit }).cluster 0).cond = .transit ∧
    ((1 : DWord).getLsbD 0 = true ∧ (2 : DWord).getLsbD 0 = false ∧ (State.reset.mail 0).door = false) := by
  decide +kernel
theorem test_selector_turn : after (exec (.selectorSwitch 0) (sel none id)) (fun t => ((t.core 0).running,
  (t.core 0).waitTo)) =
    some (some 2, 2) := by decide +kernel
theorem test_time_slice : after (exec (.timeSliceExpiry 0) (sel (some 1) fun s => { s with cycle := 8192 }))
    (fun t => (t.core 0).running) = some (some 2) := by decide +kernel
theorem test_trbase_mask : after (exec (.registerWrite (.gecko 0 .trbase) 0xffff) State.reset)
    (fun t => (t.cluster 0).trbase) = some 0xc000 := by decide +kernel

/-! ### A step -/

/-- The word of ADDI s5, s0, 7 placed where the next step fetches. -/
def addi7 : Word := encode (.addi 5 0 7)

theorem test_met_StepRunsTheDecodedInstruction :
    let s := State.reset.withFetchWord 32 addi7.toNat
    let h := headerOne .sa 0
    let b : Bundle := ⟨0, h, [(.sa, .addi 5 0 7)]⟩
    let old := (s.updCore 0 fun r => { r with pair := none }).acting 0
    hasTurn s 0 0 [] ∧ (s.text 0).map (fun g => (g.isStart 0, g.word 0, g.word 1)) = some (true, h, addi7) ∧
    (match s.fetch 0 with | .ok x => decide (x = b) | .error _ => false) = true ∧
    after (old.tick 0) (fun t => (t.ctx 0).bundleCheck b) = some none ∧
    (s.ctx 0).early s.cycle b.slots = false ∧ (s.ctx 0).stallsOn b s.cycle = false ∧
    (old.awaitsEntry 0 = false ∧ (s.ctx 0).fenced b.slots = false ∧ s.fetchBad 0 = false) ∧
    ([RegId.s 6].all (fun r => !decide (r ∈ (Instr.addi 5 0 7).reads .sa)) = true ∧
      (RegId.s 6 ∈ (Instr.addi 5 6 7).reads .sa)) :=
  ⟨⟨fun e r h => (nomatch (show ([] : List (Nat × Instr)) = e :: r from h)), by decide +kernel, by decide +kernel,
      by decide +kernel, by decide +kernel, by decide +kernel, by decide +kernel, by decide +kernel, by decide +kernel,
      by decide +kernel, by decide +kernel⟩,
    by decide +kernel, by decide +kernel, by decide +kernel, by decide +kernel, by decide +kernel, by decide +kernel,
      by decide +kernel, by decide +kernel⟩
theorem test_step_runs : after (step (State.reset.withFetchWord 32 addi7.toNat)) (fun t => ((t.ctx 0).rdS 5,
  (t.ctx 0).pc)) =
    some (7, 8) := by decide +kernel
theorem test_step_due : after (step { State.reset with agenda := [(0,
  .powerLimitReached true)] }) (fun t => (t.host.throttle, t.agenda)) =
    some (true, []) := by decide +kernel
theorem test_step_back_edge :
    let s := ((State.reset.withFetchWord 32 addi7.toNat).updCtx 0 fun x => { x with loops := [⟨0, 2, 0, 0⟩] })
    after (step s) (fun t => ((t.ctx 0).pc, (t.ctx 0).loops.map LoopLevel.lc)) = some (0, [1]) := by decide +kernel
theorem test_step_traps :
    let g := imageOf [headerOne .ctl 0, encode (.trap 5)]
    let s := (State.reset.withFetchWord 32 0x100).updCluster 0 fun k => { k with istore := [(0, some g.text)] }
    after (step s) (fun t => ((t.ctx 0).frozen, (t.ctx 0).pc, (t.ctx 0).trap.map TrapRec.cause)) =
      some (true, 0, some .softwareTrap) := by decide +kernel
theorem test_met_StepRunsTheDecodedInstruction_loops : (lev.lc.toNat + 1 < lev.lb.toNat) ∧
  ({ lev with lc := 8 } : LoopLevel).lb.toNat ≤ 8 + 1 := by
  decide +kernel

/-! ### The dispatcher (R216 to R219, R249) -/

/-- An image of one kernel that claims one accumulator and one unit of each bank group. -/
def img1 : Image :=
  { imageOf [headerOne .ctl 0, encode .exit] with kernels := [⟨0, 1, 0, 1, 1, 0, 0, 65536⟩] }
/-- A launch record: image 0, kernel 0, priority 0, one member, gang 9, any slot, no ports. -/
def launch1 : List Byte :=
  [0, 0, 0, 0, 0, 1, 9, 0, 0, 0, 0, 255, 0, 0, 0, 0] ++ leBytes 8 0x77 ++ leBytes 8 3 ++ List.replicate 32 255 ++
    [255] ++ leBytes 63 0
/-- Partition 0 with the image, virtual pair (0, 0) on core 0, and the waiting list given; the host link is up. -/
def dis (w : List WaitEntry) (f : State → State) : State :=
  f (((linked State.reset).setPart 0 { Part.reset with
    live := true, n := 1, M := 2097152, clusters := 1, slices := 1, map := [(0, 0x8000)], images := [(0, some img1)],
    waiting := w }).updCluster 0 fun k => { k with cond := .held 0 })
def wait1 (level since : Nat) (head : Option Nat) : WaitEntry :=
  ⟨level, since, since, level, [launchOf launch1], none, head, [], []⟩
/-- Every slot of core 0 taken by a context of priority 9. -/
def full1 (s : State) : State :=
  (List.range 4).foldl (fun s c => s.setCtx c { Ctx.free with occupied := true, pri := 9, accN := 2 }) s

theorem test_met_LaunchesAreQueuedPlacedAndAged :
    ((dis [] id).part 0).live = true ∧ (dis [] id).hostGone 0 = false ∧ (State.reset.part 0).live = false ∧
    ({ dis [] id with host := HostIf.reset } : State).hostGone 0 = true ∧
    ((launchOf launch1).status.toNat % 8 = 0 ∧ ((dis [] id).part 0).launchOk launch1 (launchOf launch1) = true ∧
      (launchOf launch1).members = 1 ∧ ((dis [] id).part 0).gangs = []) ∧
    (((dis [] id).part 0).kernelOf (launchOf launch1) = some (img1, ⟨0, 1, 0, 1, 1, 0, 0, 65536⟩) ∧ 1 ≤ 8 ∧
      (let big := (dis [] id).updPart 0 fun P => { P with images := [(0, some { img1 with kernels := [⟨0, 9, 0, 1, 1,
        0, 0, 65536⟩] })] }
       (big.part 0).kernelOf (launchOf launch1) |>.map fun x => decide (8 < x.2.accs)) = some true) ∧
    ((dis [] id).part 0).launchOk launch1 { launchOf launch1 with pri := 12 } = false ∧
    inOrder [wait1 3 1 none, wait1 2 5 none, wait1 2 4 none] = [wait1 2 4 none, wait1 2 5 none, wait1 3 1 none] ∧
    (((dis [wait1 1 0 none] id).part 0).kernelOf (launchOf launch1) = some (img1, ⟨0, 1, 0, 1, 1, 0, 0, 65536⟩) ∧
      (dis [wait1 1 0 none] id).findRoom ((dis [wait1 1 0 none] id).slotsFor 0 0 0 255) 1 1 1 = some (0, 0, 0)) ∧
    (dis [wait1 1 0 none] full1).findRoom ((dis [wait1 1 0 none] full1).slotsFor 0 0 0 255) 1 1 1 = none ∧
    ([wait1 2 0 none].any (fun e => decide (2 ≤ e.level ∧ e.moved + 12500000 ≤ 12500000)) = true ∧
      [wait1 1 0 none].any (fun e => decide (2 ≤ e.level ∧ e.moved + 12500000 ≤ 12500000)) = false) ∧
    (dis [wait1 1 0 (some 0)] full1).candidates 0 (wait1 1 0 (some 0)) = [3, 2, 1, 0] ∧
    (let due := { dis [wait1 1 0 (some 0)] full1 with cycle := 1250000 }
     (∃ h ∈ (due.part 0).waiting, ∃ w, h.headAt = some w ∧ w + 1250000 ≤ due.cycle)) ∧
    (¬ ∃ h ∈ ((dis [wait1 1 0 none] id).part 0).waiting, ∃ w, h.headAt = some w ∧ w + 1250000 ≤ 0) ∧
    (let due := { (dis [{ wait1 1 0 (some 0) with victims := [3] }] full1).updCtx 3 fun x =>
        { x with stopReq := some ⟨[.preempt], none, 0, false⟩ } with cycle := 1250000 }
     (∃ q, (due.ctx 3).stopReq = some q ∧ .preempt ∈ q.kinds ∧ q.since + 1250000 ≤ due.cycle ∧ q.further = false) ∧
       (3 ∈ due.leaving 0 (wait1 1 0 (some 0)) ∧ ∀ d ∈ due.leaving 0 (wait1 1 0 (some 0)), due.overdue d = true →
         d = 3) ∧
       inOrder (due.part 0).waiting = [{ wait1 1 0 (some 0) with victims := [3] }] ∧
       due.candidates 0 { wait1 1 0 (some 0) with victims := [3] } = [2, 1, 0]) ∧
    (¬ ∃ q, ((dis [] id).ctx 3).stopReq = some q ∧ .preempt ∈ q.kinds ∧ q.since + 1250000 ≤ 0) ∧
    ((dis [] id).part 0).leaseEnd ≤ 0 := by
  decide +kernel
theorem test_dispatch : after (exec (.gangPlacement 0) (dis [wait1 1 0 none] id)) (fun t => ((t.ctx 0).occupied,
    (t.ctx 0).rdS 1, (t.ctx 0).lc0, (t.part 0).waiting)) = some (true, 0x77, 3, []) := by decide +kernel
theorem test_preempts : after (exec (.gangPlacement 0) (dis [wait1 1 0 none] full1)) (fun t =>
    ((t.ctx 3).stopReq.isSome, (t.ctx 0).stopReq.isSome)) = some (true, false) := by decide +kernel

/-! ### The mailbox (R215, R222 to R236, R289 to R295); what a signature or a capsule says is not known here -/

/-- Bring-up has ended, function 0 names partition 0, and its doorbell has been rung. -/
def mb (f : State → State) : State :=
  f { dis [] id with host := { HostIf.reset with ready := true, link := .up, mail := [(0,
    { Mailbox.reset with door := true })] } }
/-- A terms object of one code digest, 2 uses and 4096 bytes. -/
def terms1 : List Byte :=
  leBytes 4 0x544e455a ++ leBytes 2 1 ++ leBytes 0xaa 0 ++ leBytes 4 2 ++ leBytes 12 0 ++ leBytes 8 4096 ++
    leBytes 56 0 ++ leBytes 4 1

theorem test_met_MailboxCommandsCheckAndReply :
    let s := mb fun s => s.wrBytes (keyOf 16 0x1000) terms1
    let h := handle1 never 64
    let other := s.setMail 1 { Mailbox.reset with door := true }
    ¬ ((State.reset.mail 0).door = true ∧ (State.reset.mail 0).taken = false) ∧
    ((s.mail 0).door = true ∧ (s.mail 0).taken = false ∧ s.host.ready = true ∧ s.fnPart 0 = some 0) ∧
    ((other.mail 1).door = true ∧ (other.mail 1).taken = false ∧ other.fnPart 1 = none ∧ (1 : Nat) ≠ 0) ∧
    ({ s with host := { s.host with ready := false } } : State).host.ready = false ∧
    ((4095 : DWord).toNat ≤ 4095 ∧ 4095 < (4096 : DWord).toNat) ∧
    ((0x1000 : DWord).toNat % 128 = 0 ∧ termsLayout (s.hostBytes 0x1000 6144) = true) ∧ s.handle 3 = none ∧
    ((s.setHandle 3 (some h)).handle 3 = some h ∧ (s.setHandle 3 (some h)).outstandingUse 3 h = false ∧
      s.outstandingUse 3 { h with reserved := 1 } = true) ∧
    ((0x10000 : DWord).toNat % 4096 = 0 ∧ 0x10000 + h.body.length ≤ (s.part 0).ownedFrom ∧
      s.regionFree 0 0x10000 4096 = true) ∧
    (let i := Instr.bindRegion 0 3 0x10000 0x2000
     let rem := Instr.removeTerms 0 3 0x2000
     let t := s.updMe fun x => { x with tiles := [(3, some { tile1 .dirty [.mx] [] [] with phys := [(0,
       keyOf 16 0x2000 / 128 + 1)] })] }
     let r := s.updMe fun x => { x with tiles := [(3, some { tile1 .dirty [.mx] [] [] with phys := [(0,
       0x10000 / 128 + 1)] })] }
     let w := s.setMail 0 { s.mail 0 with taken := true, waits := some i }
     ((∀ o ∈ s.objects i, s.spanBusy (keyOf hostSpace o.1) o.2 false = false) ∧
       (∃ o ∈ t.objects i, t.spanBusy (keyOf hostSpace o.1) o.2 false = true) ∧
       ((w.mail 0).door = true ∧ (w.mail 0).waits = some i)) ∧
     (s.spanBusy (keyOf 0 0x10000) 4096 true = false ∧ r.spanBusy (keyOf 0 0x10000) 4096 true = true ∧
       (0x2000 : DWord).toNat % 128 = 0 ∧ (0x2001 : DWord).toNat % 128 ≠ 0) ∧
     (s.spanBusy (keyOf hostSpace 0x2000) 2676 true = false ∧ t.spanBusy (keyOf hostSpace 0x2000) 2676 true = true ∧
       rem ≠ i)) ∧
    s.host.link ≠ .down ∧ (9 < ({ s with terms := { s.terms with clockBase := 10 } } : State).tclock ∧
      s.tclock ≤ 9) := by
  decide +kernel
theorem test_busy_before_bring_up : after (exec (.statement 0 3 0) (mb fun s => { s with host :=
  { s.host with ready := false } })) (fun t => (t.mail 0).stat) = some 8 := by
  decide +kernel
theorem test_statement_no_handle : after (exec (.statement 0 3 0) (mb id)) (fun t => (t.mail 0).stat) = some 9 := by
  decide +kernel

/-- An image object: text of one EXIT bundle at 0xf00, its map at 0xf80, one safe-point entry at 0xfa0, one kernel
entry at 0xfc0. -/
def object1 : List Byte :=
  leBytes 4 0x31494a48 ++ leBytes 4 1 ++ leBytes 8 0x1080 ++ leBytes 4 0xf00 ++ leBytes 4 8 ++ leBytes 4 0xf80 ++
    leBytes 4 0x1080 ++ leBytes 4 0 ++ leBytes 4 0xfa0 ++ leBytes 2 1 ++ leBytes 2 0 ++ leBytes 4 0x1000 ++
    leBytes 4 0xfc0 ++ leBytes 2 1 ++ leBytes 0xeca 0 ++ bytesOfWord (headerOne .ctl 0) ++ bytesOfWord (encode .exit) ++
    leBytes 120 0 ++ [1] ++ leBytes 63 0 ++ leBytes 4 0 ++ [1] ++ leBytes 19 0 ++ leBytes 8 65536
def text1 : Store Word := Store.put 0 [] 0 [headerOne .ctl 0, encode .exit]

theorem test_met_ImagesPortsLeasesAndSessions_images :
    let s := mb fun s => s.wrBytes (keyOf 16 0x1000) object1
    let g := s.rawImage 0x1000
    let ks := (s.table g g.kerOff 64 g.kerN).map kernelOf
    let safes := s.table g g.safeOff 32 g.safeN
    let bs := (s.startWords g).map (textBundle text1)
    s.formatOk g = true ∧ s.formatOk { g with textLen := 6 } = false ∧ s.startWords g = [0] ∧
    structureOk g.words (s.startWords g) bs = true ∧ tablesOk safes ks [] bs = true ∧
    s.grantOk 0 g ks (safes.map safeEntryOf) = true ∧ spacingOk (ks.map fun k => k.entry / 4) bs = true ∧
    shadowOk [0] bs = true ∧ s.clustersIn 0 = [0] ∧
    shadowOk [0] [textBundle (Store.put 0 [] 0 [headerOne .ctl 0 ||| 0x200, encode (.fmtset 1)]) 0] = false ∧
    ((∀ o ∈ s.objects (.loadImage 0 0x1000), s.spanBusy (keyOf hostSpace o.1) o.2 false = false) ∧
      s.runBusy 0 (BitVec.ofNat 64 g.dataBase) g.dataLen true = false ∧
      (s.updMe fun x => { x with tiles := [(3, some (tile1 .full [.mx] [] []))] }).runBusy 0 0x4000 1 true = true) ∧
    (s.host.ready = true ∧ (s.mail 0).door = true ∧ (s.mail 0).taken = false ∧ s.fnPart 0 = some 0 ∧
      s.host.link ≠ .down) := by
  decide +kernel
/-- 32 pushes whose last is followed by a safe point; the same with a pop between. -/
def pushes (gap : Nat) : List TextBundle :=
  let ws := (List.replicate 32 [headerOne .xu 0, encode (.trpush 1 ⟨.w1024, 0, 0⟩)]).flatten ++
    (List.replicate gap [headerOne .ctl 0, encode .nopCtl]).flatten ++ [headerOne .ctl 0 ||| 0x200, encode .nopCtl]
  (List.range (33 + gap)).map fun i => textBundle (Store.put 0 [] 0 ws) (2 * i)
theorem test_transfer_shadow : (shadowOk [0] (pushes 6), shadowOk [0] (pushes 7)) = (false, true) := by decide +kernel
theorem test_met_ImagesPortsLeasesAndSessions_ports :
    let s := mb id
    ((63 : DWord).toNat < 64 ∧ 64 ≤ (64 : DWord).toNat ∧ (s.part 0).storageOk 0x8000 2 = true) ∧
    ((∀ e ∈ (s.part 0).counts, e.port.toNat = 5 → e.n ≤ 0) ∧ s.portBound 0 5 = false) ∧
    (¬ ∀ e ∈ ((s.updPart 0 fun P => { P with counts := [⟨5, tm 1, 1⟩] }).part 0).counts, e.port.toNat = 5 → e.n ≤ 0) ∧
    ((((frq 2 []).part 0).port 5).queue = true ∧ (((frq 2 []).part 0).port 5).cap ≤ 2 ∧
      (((frq 1 []).part 0).port 5).times.length < (((frq 1 []).part 0).port 5).cap ∧
      (frq 1 []).spanBusy (keyOf hostSpace 0x1000) 128 false = false ∧
      (frq 1 []).queueBusy 0 (((frq 1 []).part 0).port 5) (((frq 1 []).part 0).port 5).tail true = false) ∧
    ((∀ e ∈ s.ctxs, e.2.occupied = true → e.2.part = 0 → e.2.caps = [] ∧ e.2.waitsOnFrontier = false) ∧
      (s.part 0).saved = []) ∧
    ((32 : DWord).toNat + s.leased 0 ≤ 32 ∧ 32 < 32 + (s.updPart 1 fun P =>
      { P with live := true, lease := 1 }).leased 0) ∧
    Store.get none s.host.token 0 = none ∧
    Store.get none ({ s with host := { s.host with token := [(0,
      some 5)] } } : State).host.token 0 = some (5 : BitVec 128) := by
  decide +kernel
theorem test_port_set : after (exec (.portSet 0 5 1 0x8000 2) (mb id)) (fun t => ((t.part 0).port 5, (t.mail 0).stat)) =
    some (⟨true, 0x8000, 2, 0, []⟩, 0) := by decide +kernel
theorem test_attach_other_token : after (exec (.attach 0 4) (mb fun s => { s with host := { s.host with token := [(0,
  some 5)] } }))
    (fun t => (t.mail 0).stat) = some 15 := by decide +kernel

/-! ### Partitions (R268 to R283) -/

/-- A layout block at 0x1000 of host memory, for partition `p`: cluster 1, slice 1, and, to create, one virtual cluster
and 2 MiB; its map at 0x2000 puts (0, 0) on core 8. -/
def lay (p n M : Nat) (f : State → State) : State :=
  mb fun s => f ((s.wrBytes (keyOf 16 0x1000)
    (leBytes 1 p ++ leBytes 1 0 ++ leBytes 1 n ++ leBytes 5 0 ++ leBytes 8 2 ++
    leBytes 16 2 ++ leBytes 8 M ++ leBytes 16 0 ++ leBytes 8 0x2000 ++ leBytes 8 0)).wrBytes (keyOf 16 0x2000) [1,
      0x80])
/-- To cluster 1 and these slices; virtual pair (0, 0) moves to core 8. -/
def resize1 (ph : Phase) (slices : BitVec 96) (mig : Nat) : Resize :=
  ⟨ph, 2, slices, [(0, 0x8001)], 1000, false, false, 0, [], mig, 0, none, none, 0⟩
def mlt (ph : Phase) (slices : BitVec 96) (mig : Nat) : State :=
  (mb id).updPart 0 fun P => { P with resize := some (resize1 ph slices mig) }

theorem test_met_PartitionsAreGrantedResizedAndDestroyed :
    let s := lay 3 1 2097152 id
    let g := s.layout 0x1000
    let r := lay 0 0 0 id
    (s.layoutOk 0x1000 g true g.n = true ∧ s.layoutOk 0x1001 g true g.n = false ∧ (s.part g.part).live = false ∧
      g.part = 3) ∧
    (s.allFree g.clusters g.slices = true ∧ (∀ P ∈ s.liveParts, P.vfs &&& g.vfs = 0) ∧ memoryFits g.slices g.M = true ∧
      Policy.admits ⟨0, 16, 2, 2, 1, 1, 1, 1, 0, 0, 0, 1⟩ g.clusters g.slices = true ∧
      s.roomForPart ⟨0, 16, 2, 2, 1, 1, 1, 1, 0, 0, 0, 1⟩ = true) ∧
    (∀ i ∈ [Instr.partCreate 0 0x1000, .partResize 0 0x1000, .partStatus 0 0x1000, .partDestroy 0 0x1000],
      ∀ o ∈ s.objects i, s.spanBusy (keyOf hostSpace o.1) o.2 false = false) ∧
    (s.updCluster 1 fun k => { k with cond := .held 5 }).allFree g.clusters g.slices = false ∧
    ((r.part 0).live = true ∧ (r.part 0).resize = none ∧ (r.part 0).saved = [] ∧ r.ctxs = []) ∧
    (let y := r.layout 0x1000
     r.layoutOk 0x1000 y false (r.part y.part).n = true ∧
       r.allFree (y.clusters &&& ~~~ (r.part 0).clusters) (y.slices &&& ~~~ (r.part 0).slices) = true ∧
       memoryFits y.slices (r.part 0).M = true ∧ r.movesFit 0 (r.readMap y.map) = true) := by decide +kernel
theorem test_met_PartitionsAreGrantedResizedAndDestroyed_resize :
    (let r := resize1 .prepare 1 0
     ((mlt .prepare 1 0).part 0).resize = some r ∧ ((mlt .prepare 1 0).part 0).live = true) ∧
    (let r := resize1 .quiesce 1 0
     (mlt .quiesce 1 0).unstopped 0 r = [] ∧ ((mlt .quiesce 1 0).setCtx 0
       { Ctx.free with occupied := true }).unstopped 0 r = [0]) ∧
    ((∀ c ∈ ((mlt .quiesce 1 0).setCtx 0 { Ctx.free with occupied := true }).unstopped 0 (resize1 .quiesce 1 0),
      (((mlt .quiesce 1 0).setCtx 0 { Ctx.free with occupied := true }).ctx c).ending = none) ∧
      ({ resize1 .rehash 2 0 with lockTo := some 3 } : Resize).lockTo = some 3 ∧
        (resize1 .rehash 2 0).switchTo.getD 0 = 0) ∧
    ((mlt .quiesce 1 0).cycle < 0 + 1000 * 1250 ∧ 0 + 1000 * 1250 ≤
      ({ mlt .quiesce 1 0 with cycle := 1250000 } : State).cycle) ∧
    ((resize1 .move 1 0).slices = ((mlt .move 1 0).part 0).slices ∧
      (resize1 .move 2 0).slices ≠ ((mlt .move 2 0).part 0).slices) ∧
    ((resize1 .rehash 2 65535).migrated < 65536 ∧ (resize1 .rehash 2 65536).migrated = 65536) ∧
    (setHome 1 0 ≠ setHome 2 0 ∧ ∃ n ∈ List.range 4, setHome 1 n = setHome 3 n) ∧
    ((resize1 .commit 1 0).clusters ≠ 0 ∧ ({ resize1 .commit 1 0 with clusters := 0 } : Resize).clusters = 0) := by
  decide +kernel
/-- A context saved for the resize: its cluster 0 slot 0, and its virtual pair (0, 0) moves to core 8. -/
def saved1 (k : StopKind) : Saved := ⟨0, { Ctx.free with occupied := true, accN := 1, identity := 6 }, [], 0, 0, k⟩
theorem test_met_PartitionsAreGrantedResizedAndDestroyed_saved :
    let s := fun ph k => (mlt ph 1 0).updPart 0 fun P => { P with
      saved := [saved1 k], resize := some { resize1 ph 1 0 with switchTo := some 0 } }
    ((resize1 .move 1 0).switchTo = none ∧ ∀ v ∈ ((mlt .move 1 0).part 0).saved, v.why ≠ .move) ∧
    (((s .move .move).part 0).saved = [saved1 .move] ∧ (s .move .move).cycle = 0 ∧
      mapCore [(0, 0x8001)] (saved1 .move).ctx.vcluster.toNat (saved1 .move).ctx.vcore.toNat = some 8 ∧
      (s .move .move).findRoom (coreCtxs 8) 1 0 0 = some (32, 0, 0) ∧
      (s .move .move).areaBusy 0 0 0 (saved1 .move).ctx.areaSize false = false) ∧
    (∀ k ∈ [StopKind.move, .park], ((s .abort k).part 0).saved = [saved1 k] ∧
      ((s .abort k).part 0).clusters.getLsbD ((saved1 k).from_ / 32) = true ∧ ((s .abort k).ctx 0).occupied = false ∧
      (s .abort k).accsHeld 0 + 1 ≤ 8 ∧ rangeFree ((s .abort k).unitsUsed 0 false) (0, 0) = true ∧
      rangeFree ((s .abort k).unitsUsed 0 true) (0, 0) = true ∧
      (s .abort k).areaBusy 0 0 0 (saved1 k).ctx.areaSize false = false) := by
  decide +kernel
/-- A resize that its policy admits commits: the partition stands on cluster 1, cluster 0 is as after reset. -/
theorem test_commit : after (exec (.moultCommit 0) (((mlt .commit 1 0).updPart 0 fun P =>
      { P with resize := some { resize1 .commit 1 0 with inPolicy := true } }).updCluster 0 fun k =>
        { k with cond := .transit }))
    (fun t => ((t.part 0).clusters, (t.part 0).resize, (t.cluster 0).cond, (t.mail 0).stat)) = some (2, none, .free,
      0) := by
  decide +kernel
theorem test_resize_waits : after (exec (.moultMove 0) ((mlt .quiesce 1 0).setCtx 0 { Ctx.free with occupied := true }))
    (fun t => (t.agenda.map Prod.snd, (t.part 0).resize.map Resize.phase)) =
    some ([.bringUpComplete, .contextStop 0, .moultMove 0], some .quiesce) := by decide +kernel
theorem test_early_timeout : after (exec (.quiesceTimeout 0) (mlt .quiesce 1 0))
    (fun t => (t.part 0).resize.map Resize.phase) =
    some (some .quiesce) := by decide +kernel

/-! ### Collectives (R294 to R299) -/

/-- A descriptor of 64 bytes: broadcast of one 32-bit word from rank 0, group 7, rank `r` of two. -/
def coll1 (r : Nat) : BitVec 512 :=
  BitVec.ofNat 512 (0x2000 + 0x3000 * 2 ^ 64 + 2 ^ 128 + 3 * 2 ^ 160 + 7 * 2 ^ 176 + r * 2 ^ 192 + 2 * 2 ^ 200)
def member1 (r : Nat) : CollMember := ⟨0, r + 1, 0, 0, BitVec.ofNat 64 (0x1000 + 64 * r), coll1 r, false, none, []⟩
def group1 : CollGroup := ⟨7, [member1 0, member1 1], 100, [0], false, [(2, 0), (2, 1)]⟩
def col (lease : Nat) (g : List CollGroup) : State :=
  let s := (((withMem ctl1 0x1000 (leBytes 64 (coll1 0).toNat)).wrMem 0x2000 [1, 2, 3, 4]).updPart 0 fun P =>
    { P with lease := lease })
  let cmds := (List.range 2).map fun r =>
    { cmd3 (.coll (BitVec.ofNat 64 (0x1000 + 64 * r))) true none with id := r + 1, entry := r }
  let s := withCmd s cmds
  let s := linked s
  { s with host := { s.host with colls := g } }

theorem test_met_CollectivesGatherCombineAndTimeOut :
    let q := cmd3 (.coll 0x1000) true none
    ((col 0 []).cmd 0 1 = some q ∧ (col 0 []).runFail 0 0x1000 64 false = none ∧ ((col 0 []).part 0).lease = 0) ∧
    (((col 1 []).part 0).lease ≠ 0 ∧
      (collDesc (BitVec.ofNat 512 (leNat ((col 1 []).bulkRead 0 0x1000 64)))).good = true ∧
      (col 1 []).collGroup 7 = none) ∧
    (let s := col 1 [group1]
     s.collGroup 7 = some group1 ∧ s.cycle < group1.due ∧ group1.due ≤ ({ s with cycle := 100 } : State).cycle ∧
       (member1 0).d.n = 2 ∧ group1.ports ≠ [] ∧ s.portsOf (member1 0).d [] = group1.ports ∧
         s.memberFailure (member1 0) = none ∧ s.memberFailure (member1 1) = none ∧
       ((member1 0).d.op = 3 ∧ (member1 0).d.root = 0 ∧ (member1 0).d.rank = 0 ∧ (member1 1).d.rank = 1 ∧
         (member1 0).d.count * (member1 0).d.size ≤ 128 ∧ (member1 1).d.dst.toNat % 128 = 0) ∧
       s.xlate 0 0x3000 true = .ok 0x3000 true ∧ s.xlate 0 (0x1040 + 32) true = .ok 0x1060 true) ∧
    (let a := { member1 0 with peer := some [1, 2, 3, 4] }
     (a.peer = none → a.killed = false) ∧ (a.peer.getD []).length = a.d.count * a.d.size) ∧
    (let g : CollGroup := ⟨7, [], 100, [0], true, []⟩
     (col 1 [g]).collGroup 7 = some g ∧ g.spoilt = true ∧ ({ g with ports := [] } : CollGroup).ports = []) ∧
    ((collDesc (coll1 2)).good = false ∧ (member1 0).d.good = true) := by decide +kernel
theorem test_met_CollectivesGatherCombineAndTimeOut_waits :
    (let s := col 1 [group1]
     let b := fun l => s.updMe fun x => { x with tiles := [(3, some { tile1 .dirty [.mx] [] [] with phys := [(0,
       l / 128 + 1)] })] }
     ((b 0x1000).runBusy 0 0x1000 64 false = true ∧ s.runBusy 0 0x1000 64 false = false) ∧
     ((b 0x1000).endBusy (member1 0) = true ∧ s.endBusy (member1 0) = false ∧ s.endBusy (member1 1) = false) ∧
     ((b 0x3000).memberBusy (member1 0) = true ∧ s.memberBusy (member1 0) = false ∧ s.memberBusy (member1 1) = false) ∧
     ((s.updPart 0 fun P => { P with pages := [(3, some ⟨false, true, false, 0,
       .k4⟩)] }).memberFailure (member1 0)).isSome = true ∧
     (member1 0).killed = false ∧ (member1 0).ctx < 2048 ∧ (s.cmd 0 1).isSome = true ∧
     ((0x1060 : Nat) < 0x3000 ∧ 2 * ((member1 1).d.count * (member1 1).d.size) ≤ 128)) ∧
    (let d := fun op : Nat => collDesc (coll1 0 + BitVec.ofNat 512 (op * 2 ^ 160) - BitVec.ofNat 512 (3 * 2 ^ 160))
     (∀ op ∈ [0, 1, 2, 3], (d op).op = op ∧ (d op).rank = 0 ∧ (d op).n = 2 ∧ (d op).ty < 5 ∧ (d op).redop = 0)) ∧
    (let g : CollGroup := ⟨7, [], 100, [0], true, [(2, 0)]⟩
     ((col 1 [g]).collGroup 7 = some g ∧ (∀ x ∈ g.came ++ [(2, 1)], x.1 = 2 ∧ x.2 < 2) ∧
       ((g.came ++ [(2, 1)]).map Prod.snd).Nodup ∧ (g.came ++ [(2, 1)]).length = 2)) ∧
    (let g : CollGroup := ⟨7, [member1 1], 100, [0], false, []⟩
     let a := (member1 1).d
     let d := (member1 0).d
     (g.spoilt = false ∧ g.members ≠ [] ∧ g.members.length + 1 = d.n) ∧
       (a.op = d.op ∧ a.ty = d.ty ∧ a.redop = d.redop ∧ a.count = d.count ∧ a.n = d.n ∧ a.root = d.root ∧
         a.rank ≠ d.rank)) := by
  decide +kernel
theorem test_coll_no_lease : after (exec (.collDescriptorRead 0 1) (col 0 [])) (fun t => (t.rdMem 0x1020 1,
    ((t.core 0).journal.map Cmd.id))) = some ([2], [2]) := by decide +kernel
theorem test_broadcast : after (exec (.collectiveComplete 7) (col 1 [group1])) (fun t => (t.rdMem 0x3000 5,
    (t.core 0).journal.length, t.collGroup 7)) = some ([1, 2, 3, 4, 0], 0, none) := by decide +kernel

/-! ### The host and the device as a whole (R288, R291 to R294, R308 to R313) -/

/-- Page 5 of partition 0 mapped as given, and the versions of evicted pages; the host link is up. -/
def pag (m : PageMap) (ev : Store (Option DWord)) : State :=
  (linked mem1).updPart 0 fun P => { P with pages := [(20, some m)], evicted := ev }

theorem test_met_PagesLinksAndHostAccesses :
    ((mem1.part 0).live = true ∧ ((mem1.part 0).page 5).present = true ∧ ((mem1.part 0).page 5).host = false) ∧
    ((State.reset.part 0).live = false ∧ ((pag ⟨false, true, true, 0, .k4⟩ []).part 0 |>.page 5).host = true) ∧
    (let P := mem1.part 0
     let b := fun l => mem1.updMe fun x => { x with tiles := [(3, some { tile1 .dirty [.mx] [] [] with phys := [(0,
       l / 128 + 1)] })] }
     let x := (pag ⟨true, true, false, 5, .k4⟩ [(5, some 9)]).updPart 0 fun P =>
       { P with policy := { P.policy with cls := 1 } }
     (P.live = true ∧ (P.guestPage 5).present = true ∧ (P.guestPage 5).host = false ∧
       ¬ P.M ≤ (P.guestPage 5).ppage * 4096 ∧
       (P.hostPage (P.guestPage 5).ppage).present = true ∧ mem1.pinnedAt 0 (P.guestPage 5).ppage = false) ∧
     (mem1.spanBusy 0x5000 4096 false = false ∧ mem1.spanBusy (evictKey 0 5) 4120 true = false ∧
       (b 0x5080).spanBusy 0x5000 4096 false = true ∧ mem1.spanBusy (evictKey 0 5) 4120 false = false) ∧
     ((pag ⟨true, true, false, 5, .k4⟩ [(5, some 9)]).returned 0 5 6 9 ≠ none ∧ x.returned 0 5 6 9 = none)) ∧
    ((mem1.part 0).expects 5 = none ∧ ((pag ⟨true, true, false, 5, .k4⟩ [(5, some 9)]).part 0).expects 5 = some 9) ∧
    (∃ r ∈ ({ mem1 with host := { mem1.host with pri := [(0, 5, 0)] } } : State).host.pri, r.1 = 0 ∧ r.2.1 = 5) ∧
    ((pag ⟨true, true, true, 0, .k4⟩ []).partBusy 0 = false ∧ ((pag ⟨true, true, true, 0, .k4⟩ []).updMe fun x =>
      { x with outst := [open1] }).partBusy 0 = true) ∧
    (let s := mem1.updPart 0 fun P => { P with vfs := 1 }
     s.fnPart 1 = some 0 ∧ mem1.fnPart 1 = none ∧ (0x7c : DWord).toNat % 128 + 4 ≤ 128 ∧
       s.refuses 0 0x7c true = false) ∧
    (let s := (linked mem1).updPart 0 fun P => { P with vfs := 1 }
     let d := s.updMe fun x => { x with tiles := [(3, some (tile1 .dirty [.mx] [] []))] }
     (s.host.link ≠ .down ∧ s.hostWaits 0 0x4000 4 true = false ∧ s.hostWaits 0 0x4000 4 false = false) ∧
       (d.hostWaits 0 0x4000 4 true = true ∧ d.hostWaits 0 0x4000 4 false = true) ∧
       s.refuses 0 0x200000 true = true ∧ s.refuses 0 0x200000 false = true ∧ (0x200000 : DWord).toNat % 128 = 0) ∧
    (let s := (pag ⟨true, true, true, 0, .k4⟩ []).updMe fun x => { x with occupied := true, probes := [⟨0x5000, 1,
      false⟩] }
     s.pinned 0 5 = true ∧ s.partBusy 0 = false ∧ ((s.part 0).page 5).present = true ∧
       ((s.part 0).page 5).host = true) ∧
    (mem1.pinned 0 5 = false ∧ State.reset.host.ready = false ∧ (linked mem1).host.ready = true ∧
      mem1.host.link = .down) ∧
    ((18 : Nat) ≤ 18 ∧ (17 : Nat) < 18) ∧
    (let l := fun n => ((List.replicate n 1).filter fun x => decide (1250000 < x + 1250000)) ++ [1250000]
     64 < (l 64).length ∧ ¬ 64 < (l 63).length) := by decide +kernel
/-- The device takes a page of 64 KiB that is mapped as a whole. -/
theorem test_large_page : after (exec (.pageWalkComplete 0 0x13 ⟨true, true, false, 0x25, .k64⟩) mem1)
    (fun t => ((t.part 0).page 0x1f, (t.part 0).page 0x20)) =
    some (⟨true, true, false, 0x2f, .k4⟩, ⟨true, true, false, 0x20, .k4⟩) := by decide +kernel
/-- What an evicted page holds in host memory is opaque; a pinned page stays where it is. -/
theorem test_pinned_page_stays : after (exec (.pageEviction 0 5 9) (mem1.updMe fun x => { x with probes := [⟨0x5fff,
  1, false⟩] }))
    (fun t => ((t.part 0).page 5 |>.present, (t.part 0).expects 5)) = some (true, none) := by decide +kernel
theorem test_flit_retry : after (exec (.flitRetry 17) { linked mem1 with
    cycle := 1250000
    host := { (linked mem1).host with ports := [(17, ⟨false, List.replicate 64 1⟩)] } })
    (fun t => ((t.linkPort 17).down, (t.linkPort 17).retries.length)) = some (true, 65) := by decide +kernel
theorem test_met_ResetsAndPowerLossLeaveWhatIsPersistent :
    let s := (mb id).setHandle 3 (some (handle1 never 64))
    (s.handle 3 = some (handle1 never 64) ∧ ∃ h, s.handle h ≠ none) ∧ (∀ e ∈ (mb id).terms.handles, e.2 = none) ∧
    s.host.powered = true ∧ ({ s with host := { s.host with powered := false } } : State).host.powered = false ∧
    (unit1 (fun t => { t with loss := true }) s).terms.loss = true :=
  ⟨⟨by decide +kernel, 3, by decide +kernel⟩, by decide +kernel, by decide +kernel, rfl, rfl⟩
theorem test_loss_charges : after (exec .powerUpRecovery (unit1 (fun t => { t with loss := true })
    { (mb id).setHandle 3 (some (handle1 never 64)) with host := { HostIf.reset with powered := false } }))
    (fun t => (t.handle 3).map fun x => (x.lost, x.used, x.meter)) = some (some (64, 64, 320)) := by decide +kernel

/-! ### The whole -/

theorem test_met_TheSpecsWordsDecode : (0 : Word).toNat < 2 ^ 26 ∧ (0x3ffffff : Word).toNat < 2 ^ 26 ∧
  (0x3ffffff : Word) ≠ 0 := by
  decide +kernel
theorem test_met_DecodingUndoesEncoding : Instr.wellFormed .sa (.div 5 6 7) = true ∧
    Instr.wellFormedEmpty (.emptyBundle 3 true false) = true ∧ decodeWord .sa 0 0x0451870c = some (.div 5 6 7) := by
  decide +kernel
theorem test_met_EveryStepKeepsMemoryCanonical : mem1.memWf ∧ ∃ t, step mem1 = .next t :=
  ⟨by unfold State.memWf; decide +kernel, _, rfl⟩
theorem test_no_power : step { State.reset with agenda := [], host := { HostIf.reset with powered := false } } =
    .fault .noPower := rfl

end Sys2Proof.Tests
end

section
/-!
SUPPORT. Which operations leave memory canonical (O59). An operation that writes no memory leaves `State.memWf` as it
was, an equivalence that `simp` rewrites with; one that writes keeps it by the rules of Laws/Memory; one that goes on
by a given function keeps it where that function does. Each definition has one lemma, in the order of the model.
-/
namespace Sys2Proof.Machine

open Sys2Proof

variable {s : State}

/-! ### Reading the invariant off a state -/

@[simp] theorem State.memWf_ite (c : Prop) [Decidable c] (a b : State) :
    (if c then a else b).memWf ↔ if c then a.memWf else b.memWf := by split <;> rfl

theorem State.ite_memWf {c : Prop} [Decidable c] {a b : State} (ha : a.memWf) (hb : b.memWf) :
    (if c then a else b).memWf := by split <;> assumption

@[simp] theorem State.memWf_of_mem : Memory.wf s.mem ↔ s.memWf := Iff.rfl

@[simp] theorem State.mk_memWf (cycle agenda todo delays freeCtr cur slot mem ctxs cores clusters slices parts terms
    host locks tags poison errors keys nextIdent) :
    (State.mk cycle agenda todo delays freeCtr cur slot mem ctxs cores clusters slices parts terms host locks tags
      poison errors keys nextIdent).memWf ↔ Memory.wf mem := Iff.rfl

/-- A fold whose every step leaves the invariant as it was. -/
@[simp] theorem State.foldl_memWf {β : Type} {f : State → β → State} (hf : ∀ u b, (f u b).memWf ↔ u.memWf)
    (l : List β) (u : State) : (l.foldl f u).memWf ↔ u.memWf := by
  induction l generalizing u with
  | nil => rfl
  | cons b l ih => exact (ih (f u b)).trans (hf u b)

/-! ### Registers, clocks and traps -/

@[simp] theorem State.setCtx_memWf (c x) : (s.setCtx c x).memWf ↔ s.memWf := Iff.rfl
@[simp] theorem State.updCtx_memWf (c f) : (s.updCtx c f).memWf ↔ s.memWf := Iff.rfl
@[simp] theorem State.updCore_memWf (k f) : (s.updCore k f).memWf ↔ s.memWf := Iff.rfl
@[simp] theorem State.setCluster_memWf (k x) : (s.setCluster k x).memWf ↔ s.memWf := Iff.rfl
@[simp] theorem State.updCluster_memWf (k f) : (s.updCluster k f).memWf ↔ s.memWf := Iff.rfl
@[simp] theorem State.setSlice_memWf (k x) : (s.setSlice k x).memWf ↔ s.memWf := Iff.rfl
@[simp] theorem State.setPart_memWf (p x) : (s.setPart p x).memWf ↔ s.memWf := Iff.rfl
@[simp] theorem State.updPart_memWf_iff (p f) : (s.updPart p f).memWf ↔ s.memWf := Iff.rfl
@[simp] theorem State.updMe_memWf (f) : (s.updMe f).memWf ↔ s.memWf := Iff.rfl
@[simp] theorem State.updIss_memWf (f) : (s.updIss f).memWf ↔ s.memWf := Iff.rfl
@[simp] theorem State.setTile_memWf (c th t) : (s.setTile c th t).memWf ↔ s.memWf := Iff.rfl
@[simp] theorem State.updTile_memWf (c th f) : (s.updTile c th f).memWf ↔ s.memWf := by
  unfold State.updTile; split <;> simp
@[simp] theorem State.schedule_memWf (dt e) : (s.schedule dt e).memWf ↔ s.memWf := Iff.rfl
@[simp] theorem State.after_memWf (least e) : (s.after least e).memWf ↔ s.memWf := Iff.rfl
@[simp] theorem State.drawBit_memWf : s.drawBit.2.memWf ↔ s.memWf := Iff.rfl
@[simp] theorem State.fresh_memWf : s.fresh.memWf ↔ s.memWf := Iff.rfl
@[simp] theorem State.pend_memWf (r lat) : (s.pend r lat).memWf ↔ s.memWf := by simp [State.pend]
@[simp] theorem State.setS_memWf (d v lat) : (s.setS d v lat).memWf ↔ s.memWf := by simp [State.setS]
@[simp] theorem State.setV_memWf (d v lat) : (s.setV d v lat).memWf ↔ s.memWf := by simp [State.setV]
@[simp] theorem State.setP_memWf (d v lat) : (s.setP d v lat).memWf ↔ s.memWf := by simp [State.setP]
@[simp] theorem State.raiseT_memWf (c o d w) : (s.raiseT c o d w).memWf ↔ s.memWf := Iff.rfl
@[simp] theorem State.raise_memWf (c o d) : (s.raise c o d).memWf ↔ s.memWf := Iff.rfl
@[simp] theorem State.blocks_memWf : s.blocks.memWf ↔ s.memWf := Iff.rfl
@[simp] theorem State.stalls_memWf : s.stalls.memWf ↔ s.memWf := Iff.rfl
@[simp] theorem State.sets_memWf (l) : (s.sets l).memWf ↔ s.memWf := Iff.rfl
@[simp] theorem State.addDevLog_memWf (k a r d) : (s.addDevLog k a r d).memWf ↔ s.memWf := Iff.rfl
@[simp] theorem State.logDevRefused_memWf (who a) : (s.logDevRefused who a).memWf ↔ s.memWf := by
  simp [State.logDevRefused]
@[simp] theorem State.sendTrap_memWf (c r) : (s.sendTrap c r).memWf ↔ s.memWf := Iff.rfl

theorem State.takeTrap_memWf (h : s.memWf) (c) : (s.takeTrap c).memWf := by
  unfold State.takeTrap
  split
  · exact h
  · exact State.addLog_memWf _ _ _ _ _ _ _ h

theorem State.bundleFault_memWf (h : s.memWf) (c slot cause op) : (s.bundleFault c slot cause op).memWf :=
  State.takeTrap_memWf (s := s.updCtx c _) h c

@[simp] theorem State.restartCmd_memWf (k q) : (s.restartCmd k q).memWf ↔ s.memWf := by
  unfold State.restartCmd; split <;> simp
@[simp] theorem State.restartFailed_memWf (c) : (s.restartFailed c).memWf ↔ s.memWf := by
  simp [State.restartFailed]
@[simp] theorem State.resume_memWf (c) : (s.resume c).memWf ↔ s.memWf := by
  unfold State.resume; split <;> simp

/-! ### Accesses of the running context -/

@[simp] theorem State.withText_memWf (c) : (s.withText c).memWf ↔ s.memWf := by
  unfold State.withText; split <;> simp
@[simp] theorem State.pendAt_memWf (reg id dt) : (s.pendAt reg id dt).memWf ↔ s.memWf := by
  unfold State.pendAt; split <;> simp
@[simp] theorem State.holdAt_memWf (k r o id dt) : (s.holdAt k r o id dt).memWf ↔ s.memWf := by
  simp [State.holdAt]
@[simp] theorem State.spent_memWf (o) : (s.spent o).memWf ↔ s.memWf := Iff.rfl
@[simp] theorem State.track_memWf (reg k r o l i) : (s.track reg k r o l i).memWf ↔ s.memWf := by
  simp [State.track]

/-- A route that is no place only marks the bundle. -/
theorem State.badRoute_memWf (h : s.memWf) {r a d t} (e : s.badRoute r a d = some t) : t.memWf := by
  cases r <;> simp only [State.badRoute, Option.some.injEq, reduceCtorEq] at e <;> exact e ▸ h

/-! ### Control -/

@[simp] theorem State.goto_memWf (t) : (s.goto t).memWf ↔ s.memWf := Iff.rfl
@[simp] theorem State.pushLoop_memWf (n e) : (s.pushLoop n e).memWf ↔ s.memWf := by simp [State.pushLoop]
@[simp] theorem State.setFmt_memWf (w) : (s.setFmt w).memWf ↔ s.memWf := Iff.rfl

theorem State.raiseFailed_memWf (h : s.memWf) {l t} (e : s.raiseFailed l = some t) : t.memWf := by
  obtain ⟨x, -, rfl⟩ := Option.map_eq_some_iff.mp e
  exact h

@[simp] theorem State.waitTokens_memWf (h : s.memWf) (ks) : (s.waitTokens ks).memWf := by
  unfold State.waitTokens
  split
  · exact h
  · split
    next t e => exact State.raiseFailed_memWf h e
    next => simp [h]

/-! ### Bulk transfers -/

theorem State.logRun_memWf (h : s.memWf) (p who a n w cl) : (s.logRun p who a n w cl).memWf :=
  foldl_keeps State.memWf _ _ _ h fun u x _ hu => by
    simp only [State.memWf_ite]
    split
    · exact u.logRefused_memWf _ _ _ hu
    · exact hu

@[simp] theorem State.poisonLine_memWf (l) : (s.poisonLine l).memWf ↔ s.memWf := by simp [State.poisonLine]

theorem State.bulkWrite_memWf (h : s.memWf) (p who a l bad cl) : (s.bulkWrite p who a l bad cl).memWf :=
  foldl_keeps (fun x : State × List Byte => x.1.memWf) _ _ _ h fun x c _ hx => by
    dsimp only
    split
    · have hw := x.1.wrLine_memWf ‹_› (x.2.take c.2) hx
      simp [hx, hw]
    · exact x.1.logRefused_memWf _ _ _ hx
    · exact hx

theorem State.bulkSome_memWf (h : s.memWf) (p who a l bad cl) : (s.bulkSome p who a l bad cl).memWf :=
  foldl_keeps (fun x : State × Nat => x.1.memWf) _ _ _ h fun x c _ hx => by
    simp only [State.memWf_ite]
    split
    · exact hx
    · split
      · exact x.1.logRefused_memWf _ _ _ hx
      · exact foldl_keeps State.memWf _ _ _ hx fun u i _ hu => State.bulkWrite_memWf hu ..

@[simp] theorem State.issueCmd_memWf (k t w) : (s.issueCmd k t w).memWf ↔ s.memWf := Iff.rfl

@[simp] theorem State.async_memWf {f : State → State} (h : s.memWf) (hf : (f s).memWf) : (s.async f).memWf := by
  simp [State.async, h, hf]

@[simp] theorem State.updCmd_memWf (k id f) : (s.updCmd k id f).memWf ↔ s.memWf := Iff.rfl
@[simp] theorem State.endCmd_memWf (k id) : (s.endCmd k id).memWf ↔ s.memWf := Iff.rfl
@[simp] theorem State.failCmd_memWf (k id f a) : (s.failCmd k id f a).memWf ↔ s.memWf := by
  unfold State.failCmd; split <;> simp
@[simp] theorem State.fillEnds_memWf (d k id) : (s.fillEnds d k id).memWf ↔ s.memWf := Iff.rfl
@[simp] theorem State.beginFill_memWf (k id o th t) : (s.beginFill k id o th t).memWf ↔ s.memWf := Iff.rfl
@[simp] theorem State.beginFlush_memWf (k id o th t i) : (s.beginFlush k id o th t i).memWf ↔ s.memWf := by
  simp [State.beginFlush]
@[simp] theorem State.startFill_memWf (o th) : (s.startFill o th).memWf ↔ s.memWf := by
  unfold State.startFill; split <;> simp

theorem State.logSrc_memWf (h : s.memWf) (cl p who r) : (s.logSrc cl p who r).memWf := by
  unfold State.logSrc
  split
  · exact State.logRun_memWf h ..
  · exact h

theorem State.putRun_memWf (h : s.memWf) (src cl p who d r) : (s.putRun src cl p who d r).memWf :=
  foldl_keeps State.memWf _ _ _ h fun _ _ _ hu => State.bulkWrite_memWf hu ..

theorem State.copyRuns_memWf (h : s.memWf) (cl p who d rs) : (s.copyRuns cl p who d rs).memWf := by
  have run : ∀ u : State, u.memWf → ∀ src r, ((u.logSrc cl p who r).putRun src cl p who d r).memWf :=
    fun u hu _ _ => State.putRun_memWf (State.logSrc_memWf hu ..) ..
  unfold State.copyRuns
  split
  · refine foldl_keeps State.memWf _ _ _ h fun u i _ hu => ?_
    dsimp only
    split
    · exact hu
    · exact run u hu _ _
  · exact foldl_keeps State.memWf _ _ _ h fun u r _ hu => run u hu _ r

/-! ### Terms -/

@[simp] theorem State.setHandle_memWf (k x) : (s.setHandle k x).memWf ↔ s.memWf := Iff.rfl
@[simp] theorem State.updHandle_memWf (k f) : (s.updHandle k f).memWf ↔ s.memWf := by
  unfold State.updHandle; split <;> simp
@[simp] theorem State.endUse_memWf (n holder) : (s.endUse n holder).memWf ↔ s.memWf := by
  unfold State.endUse; split <;> simp
@[simp] theorem State.closeBinding_memWf (c u) : (s.closeBinding c u).memWf ↔ s.memWf := by
  simp [State.closeBinding]
@[simp] theorem State.raiseN_memWf (k x) : (s.raiseN k x).memWf ↔ s.memWf := by simp [State.raiseN]

@[simp] theorem State.consult_memWf {f : Ask → State → State} (h : s.memWf) (ub k hd)
    (hf : ∀ a u, u.memWf → (f a u).memWf) : (s.consult ub k hd f).memWf := by
  unfold State.consult
  split
  · exact h
  · simp [h, hf]

@[simp] theorem State.sealedBeat_memWf {f : State → State} (h : s.memWf) (t) (hf : ∀ u, u.memWf → (f u).memWf) :
    (s.sealedBeat t f).memWf := by
  unfold State.sealedBeat
  simp only [State.memWf_ite]
  split
  · exact h
  · split
    · exact h
    · refine State.consult_memWf h _ _ _ fun q u hu => ?_
      split
      · exact hf u hu
      all_goals exact hu

@[simp] theorem State.answer_memWf (c sl f) : (s.answer c sl f).memWf ↔ s.memWf := Iff.rfl
@[simp] theorem State.answerOpen_memWf (c a) : (s.answerOpen c a).memWf ↔ s.memWf := by
  unfold State.answerOpen
  dsimp only
  split
  · rfl
  · split <;> simp
@[simp] theorem State.answerQuery_memWf (c a) : (s.answerQuery c a).memWf ↔ s.memWf := Iff.rfl
@[simp] theorem State.answerBeat_memWf (c a) : (s.answerBeat c a).memWf ↔ s.memWf := by
  unfold State.answerBeat
  dsimp only
  split <;> simp
@[simp] theorem State.wakeOpens_memWf (k) : (s.wakeOpens k).memWf ↔ s.memWf := by simp [State.wakeOpens]

/-! ### Vector and matrix slots -/

@[simp] theorem State.withVt_memWf {f : ETy → State} (h : s.memWf) (hf : ∀ t, (f t).memWf) :
    (s.withVt f).memWf := by
  unfold State.withVt
  split
  · exact hf _
  · exact h

@[simp] theorem State.vmap_memWf (d l b lat f) : (s.vmap d l b lat f).memWf ↔ s.memWf := by simp [State.vmap]
theorem State.vbin_memWf (h : s.memWf) (d a b l lat f) : (s.vbin d a b l lat f).memWf := by simp [State.vbin, h]
theorem State.vtern_memWf (h : s.memWf) (d a b l lat f) : (s.vtern d a b l lat f).memWf := by simp [State.vtern, h]
theorem State.vun_memWf (h : s.memWf) (d a l lat f) : (s.vun d a l lat f).memWf := by simp [State.vun, h]

@[simp] theorem State.withRow_memWf {f : Nat → State} (h : s.memWf) (acc row) (hf : ∀ r, (f r).memWf) :
    (s.withRow acc row f).memWf := by
  simp [State.withRow, h, hf]

theorem State.sfun_memWf (h : s.memWf) (d a l f) : (s.sfun d a l f).memWf :=
  State.withVt_memWf h fun t => by split <;> exact h

@[simp] theorem State.withEngine_memWf {f : State} (h : s.memWf) (acc) (hf : f.memWf) :
    (s.withEngine acc f).memWf := by
  refine State.ite_memWf h (State.ite_memWf h ?_)
  split
  · exact State.ite_memWf h hf
  · exact hf

@[simp] theorem State.withAcc_memWf {f : State} (h : s.memWf) (acc) (hf : f.memWf) : (s.withAcc acc f).memWf := by
  simp [State.withAcc, h, hf]

@[simp] theorem State.holds_memWf (n acc l st) : (s.holds n acc l st).memWf ↔ s.memWf := Iff.rfl
@[simp] theorem State.noteAlias_memWf (k) : (s.noteAlias k).memWf ↔ s.memWf := by
  unfold State.noteAlias; split <;> simp

theorem State.matWait_memWf (h : s.memWf) {th t} (e : s.matWait th = some t) : t.memWf := by
  unfold State.matWait at e
  split at e
  · cases e
  · split at e
    · cases e
    · split at e
      · cases e
        exact h
      · split at e <;> cases e
        · simp [h]
        · exact h

@[simp] theorem State.mmaWrite_memWf (m acc ta tb r) : (s.mmaWrite m acc ta tb r).memWf ↔ s.memWf := by
  unfold State.mmaWrite
  split <;> rfl
@[simp] theorem State.eccMma_memWf (acc) : (s.eccMma acc).memWf ↔ s.memWf := Iff.rfl

@[simp] theorem State.unlessBad_memWf {f : State} (h : s.memWf) (acc) (hf : f.memWf) :
    (s.unlessBad acc f).memWf := by
  simp [State.unlessBad, h, hf]

@[simp] theorem State.bankConflict_memWf (a b) : (s.bankConflict a b).memWf ↔ s.memWf := Iff.rfl

theorem State.mmaGo_memWf (h : s.memWf) (k m) : (s.mmaGo k m).memWf := by
  refine State.withAcc_memWf h _ ?_
  split
  · exact h
  · refine State.ite_memWf h (State.ite_memWf h ?_)
    split
    · exact h
    · exact h
    · split
      · exact h
      · exact h
      · refine State.ite_memWf h <| State.ite_memWf h <| State.ite_memWf h <| State.ite_memWf h <|
          State.ite_memWf h <| State.ite_memWf h <| State.ite_memWf ?_ ?_
        · exact State.sealedBeat_memWf h _ fun u hu =>
            State.ite_memWf hu ((State.mmaWrite_memWf ..).mpr hu)
        · exact State.ite_memWf h ((State.mmaWrite_memWf ..).mpr h)

theorem State.mmaRun_memWf (h : s.memWf) (k m) : (s.mmaRun k m).memWf := by
  have hn : ((s.noteAlias m.ta.toNat).noteAlias m.tb.toNat).memWf := by simp [h]
  refine State.withEngine_memWf hn _ ?_
  split
  next t e _ => exact State.matWait_memWf hn e
  next t _ e => exact State.matWait_memWf hn e
  next t u e _ => exact (State.updIss_memWf _).mpr (State.matWait_memWf hn e)
  next => exact State.mmaGo_memWf hn k m

/-! ### The DM slot and its engines -/

@[simp] theorem State.takesTime_memWf : s.takesTime.memWf ↔ s.memWf := Iff.rfl

theorem State.dmRead_memWf {f : List Byte → State → State} (h : s.memWf) (a n)
    (hf : ∀ l u, u.memWf → (f l u).memWf) : (s.dmRead a n f).memWf := by
  unfold State.dmRead
  split
  case h_5 => exact hf _ _ h
  case h_6 => exact hf _ _ (s.logMine_memWf a h)
  all_goals exact h

@[simp] theorem State.direct_memWf {f : Tile → State} (h : s.memWf) (th) (hf : ∀ t, (f t).memWf) :
    (s.direct th f).memWf := by
  unfold State.direct
  split
  · exact h
  · split
    · exact h
    · exact hf _

@[simp] theorem State.aliased_memWf {f : Nat → Tile → State} (h : s.memWf) (th) (hf : ∀ k t, (f k t).memWf) :
    (s.aliased th f).memWf := by
  unfold State.aliased
  split
  · exact h
  · split
    · exact h
    · exact hf _ _

@[simp] theorem State.detach_memWf (th t) : (s.detach th t).memWf ↔ s.memWf := by simp [State.detach]
@[simp] theorem State.updStaging_memWf (f) : (s.updStaging f).memWf ↔ s.memWf := Iff.rfl
@[simp] theorem State.claim_memWf (q r) : (s.claim q r).memWf ↔ s.memWf := Iff.rfl

@[simp] theorem State.readSlot_memWf {f : Ring → Nat → Tile → State} (h : s.memWf) (rb)
    (hf : ∀ r k t, (f r k t).memWf) : (s.readSlot rb f).memWf := by
  unfold State.readSlot
  split
  · exact h
  · dsimp only
    split
    · exact h
    · exact hf _ _ _

@[simp] theorem State.withRange_memWf {f : List Nat → State} (h : s.memWf) (a b) (hf : ∀ l, (f l).memWf) :
    (s.withRange a b f).memWf := by
  simp [State.withRange, h, hf]

theorem State.logFill_memWf (h : s.memWf) (p c t) : (s.logFill p c t).memWf :=
  foldl_keeps State.memWf _ _ _ h fun u j _ hu => by
    simp only [State.memWf_ite]
    split
    · exact u.logRefused_memWf _ _ _ hu
    · exact hu

theorem State.flush_memWf (h : s.memWf) (c th t) : (s.flush c th t).memWf := by
  refine State.writeBack_memWf _ _ _ (foldl_keeps State.memWf _ _ _ (foldl_keeps State.memWf _ _ _ h ?_) ?_)
  · intro u j _ hu
    simp only [State.memWf_ite]
    split
    · exact u.logRefused_memWf _ _ _ hu
    · exact hu
  · intro u x _ hu
    simp only [State.memWf_ite]
    split
    · exact u.recall_memWf _ _ hu
    · exact hu

theorem State.logReads_memWf (h : s.memWf) (q rs) : (s.logReads q rs).memWf := by
  refine foldl_keeps State.memWf _ _ _ ?_ fun u r _ hu => State.logSrc_memWf hu ..
  split
  · exact State.logRun_memWf h ..
  · exact h

@[simp] theorem State.copyEndsIn_memWf (d k id) : (s.copyEndsIn d k id).memWf ↔ s.memWf := Iff.rfl
@[simp] theorem State.copyEnds_memWf (k id) : (s.copyEnds k id).memWf ↔ s.memWf := Iff.rfl
@[simp] theorem State.startFillCmd_memWf (k q o th t) : (s.startFillCmd k q o th t).memWf ↔ s.memWf := by
  unfold State.startFillCmd; split <;> simp
@[simp] theorem State.startFlush_memWf (k q o th i) : (s.startFlush k q o th i).memWf ↔ s.memWf := by
  unfold State.startFlush; split <;> simp
@[simp] theorem State.startCopy_memWf (k q) : (s.startCopy k q).memWf ↔ s.memWf := by simp [State.startCopy]
@[simp] theorem State.takeEntry_memWf (k q) : (s.takeEntry k q).memWf ↔ s.memWf := by simp [State.takeEntry]

theorem State.logAgent_memWf (h : s.memWf) (who a) : (s.logAgent who a).memWf := by
  simp [State.logAgent, State.logRefused_memWf, h]

/-! ### The frontier unit -/

@[simp] theorem State.nextRound_memWf (p) : (s.nextRound p).memWf ↔ s.memWf := Iff.rfl
@[simp] theorem State.noteChange_memWf (p) : (s.noteChange p).memWf ↔ s.memWf := by
  unfold State.noteChange; dsimp only; split <;> rfl
@[simp] theorem State.decrement_memWf (cl p n t) : (s.decrement cl p n t).memWf ↔ s.memWf := by
  simp [State.decrement]
@[simp] theorem State.increment_memWf (p n t i) : (s.increment p n t i).memWf ↔ s.memWf := by
  simp [State.increment]
@[simp] theorem State.underflow_memWf (x) : (s.underflow x).memWf ↔ s.memWf := Iff.rfl

@[simp] theorem State.withPort_memWf {f : BitVec 6 → State} (h : s.memWf) (n) (hf : ∀ p, (f p).memWf) :
    (s.withPort n f).memWf := by
  unfold State.withPort
  split
  · exact h
  · split
    · exact h
    · exact hf _

@[simp] theorem State.counted_memWf {f : State → State} (h : s.memWf) (p t hold)
    (hf : ∀ u, u.memWf → (f u).memWf) :
    (s.counted p t hold f).memWf := by
  unfold State.counted
  split
  · exact h
  · split
    · exact hf _ h
    · exact h
    · exact h

theorem State.queueWrite_memWf (h : s.memWf) (p who a l) : (s.queueWrite p who a l).memWf := by
  simp [State.queueWrite, State.logRefused_memWf, State.wrLine_memWf, h]

theorem State.append_memWf (h : s.memWf) (p who n l t) : (s.append p who n l t).memWf :=
  State.queueWrite_memWf (State.queueWrite_memWf h ..) ..

@[simp] theorem State.dropCaps_memWf (c) : (s.dropCaps c).memWf ↔ s.memWf := by
  refine (State.foldl_memWf (fun u i => ?_) _ _).trans (State.foldl_memWf (fun _ _ => State.decrement_memWf ..) _ s)
  split <;> simp

/-! ### Contexts that end, stop and return -/

@[simp] theorem State.awaitFlush_memWf (c) : (s.awaitFlush c).memWf ↔ s.memWf := Iff.rfl

theorem State.releaseTile_memWf (h : s.memWf) (c th) : (s.releaseTile c th).memWf := by
  unfold State.releaseTile
  split
  · exact h
  · simp [State.flush_memWf, h]

theorem State.releaseTiles_memWf (h : s.memWf) (c) : (s.releaseTiles c).memWf :=
  foldl_keeps State.memWf _ _ _ h fun _ _ _ hu => State.releaseTile_memWf hu ..

@[simp] theorem State.keepEnqs_memWf (c n) : (s.keepEnqs c n).memWf ↔ s.memWf := by
  unfold State.keepEnqs
  dsimp only
  split <;> simp
@[simp] theorem State.mapJournals_memWf (f) : (s.mapJournals f).memWf ↔ s.memWf := by simp [State.mapJournals]
@[simp] theorem State.dropAsks_memWf (c) : (s.dropAsks c).memWf ↔ s.memWf := by simp [State.dropAsks]
@[simp] theorem State.closeBindings_memWf (c) : (s.closeBindings c).memWf ↔ s.memWf :=
  State.foldl_memWf (fun _ _ => State.closeBinding_memWf ..) _ s
@[simp] theorem State.mapColls_memWf (f) : (s.mapColls f).memWf ↔ s.memWf := Iff.rfl
@[simp] theorem State.orphanColls_memWf (k c n) : (s.orphanColls k c n).memWf ↔ s.memWf := Iff.rfl
@[simp] theorem State.leaveCore_memWf (c n) : (s.leaveCore c n).memWf ↔ s.memWf := Iff.rfl
@[simp] theorem State.geckoDone_memWf (c) : (s.geckoDone c).memWf ↔ s.memWf := Iff.rfl

theorem State.writeStatus_memWf (h : s.memWf) (c v) : (s.writeStatus c v).memWf := by
  simp [State.writeStatus, State.bulkWrite_memWf, h]

@[simp] theorem State.memberEnds_memWf (c) : (s.memberEnds c).memWf ↔ s.memWf := by
  unfold State.memberEnds
  dsimp only
  split <;> simp

theorem State.finishEnd_memWf (h : s.memWf) (c n) : (s.finishEnd c n).memWf := by
  simp [State.finishEnd, State.writeStatus_memWf, h]

theorem State.endStep_memWf (h : s.memWf) (c) : (s.endStep c).memWf := by
  have ht := State.releaseTiles_memWf h c
  unfold State.endStep
  dsimp only
  split
  · exact ht
  · simp [State.finishEnd_memWf, ht]

theorem State.finishEnds_memWf (h : s.memWf) : s.finishEnds.memWf :=
  foldl_keeps State.memWf _ _ _ h fun _ _ _ hu => State.endStep_memWf hu _

theorem State.endContext_memWf (h : s.memWf) (c k n) : (s.endContext c k n).memWf := by
  simp [State.endContext, State.endStep_memWf, h]

@[simp] theorem State.geckoWrite_memWf {f : State} (h : s.memWf) (cl) (hf : f.memWf) : (s.geckoWrite cl f).memWf := by
  simp [State.geckoWrite, h, hf]

theorem State.gecko_memWf {f : State → State} (h : s.memWf) (op c b) (hf : ∀ u, u.memWf → (f u).memWf) :
    (s.gecko op c b f).memWf := by
  refine State.geckoWrite_memWf h _ ?_
  split
  · exact h
  · exact hf _ h

theorem State.geckoOn_memWf {f : State → State} (h : s.memWf) (op c) (hf : ∀ u, u.memWf → (f u).memWf) :
    (s.geckoOn op c f).memWf := by
  refine State.geckoWrite_memWf h _ ?_
  split
  · exact h
  · exact hf _ h

theorem State.flushAll_memWf (h : s.memWf) (c) : (s.flushAll c).memWf :=
  foldl_keeps State.memWf _ _ _ h fun u e _ hu => by
    split
    · simp [State.flush_memWf, hu]
    · exact hu

theorem State.areaWrite_memWf (h : s.memWf) (p who a o l) : (s.areaWrite p who a o l).memWf := by
  unfold State.areaWrite
  split
  · exact s.wrBytes_memWf _ _ h
  · refine foldl_keeps (fun x : State × List Byte => x.1.memWf) _ _ _ h fun x c _ hx => ?_
    simp [State.logRefused_memWf, State.wrLine_memWf, hx]

theorem State.writeArea_memWf (h : s.memWf) (p who a x n f cfg l) : (s.writeArea p who a x n f cfg l).memWf :=
  foldl_keeps State.memWf _ _ _ h fun _ _ _ hu => State.areaWrite_memWf hu ..

@[simp] theorem State.withdraw_memWf (c) : (s.withdraw c).memWf ↔ s.memWf := by simp [State.withdraw]
@[simp] theorem State.saveColls_memWf (c n) : (s.saveColls c n).memWf ↔ s.memWf := Iff.rfl

theorem State.save_memWf (h : s.memWf) (c r) : (s.save c r).memWf := by
  have hf : ((s.withdraw c).flushAll c).memWf := State.flushAll_memWf (by simp [h]) c
  simp [State.save, State.writeArea_memWf, hf]

@[simp] theorem State.askStop_memWf (c r) : (s.askStop c r).memWf ↔ s.memWf := by
  unfold State.askStop
  split
  · rfl
  · split <;> simp
@[simp] theorem State.unlessReserved_memWf {u : State} (h : s.memWf) (p) (hu : u.memWf) :
    (s.unlessReserved p u).memWf := by
  simp [State.unlessReserved, h, hu]
@[simp] theorem State.reissue_memWf (c l) : (s.reissue c l).memWf ↔ s.memWf := by simp [State.reissue]
@[simp] theorem State.reclaim_memWf (c n) : (s.reclaim c n).memWf ↔ s.memWf := by simp [State.reclaim]
@[simp] theorem State.restore_memWf (p v c b) : (s.restore p v c b).memWf ↔ s.memWf := by
  unfold State.restore
  dsimp only
  split <;> split <;> simp

@[simp] theorem State.setTail_memWf (cl v) : (s.setTail cl v).memWf ↔ s.memWf := by simp [State.setTail]
@[simp] theorem State.setMail_memWf (fn m) : (s.setMail fn m).memWf ↔ s.memWf := Iff.rfl
@[simp] theorem State.writeCtxCmd_memWf (cl v) : (s.writeCtxCmd cl v).memWf ↔ s.memWf := by
  unfold State.writeCtxCmd
  dsimp only
  split
  · rfl
  · split <;> rfl
@[simp] theorem State.ringDoor_memWf (fn) : (s.ringDoor fn).memWf ↔ s.memWf := Iff.rfl
@[simp] theorem State.mapPage_memWf (p vp m) : (s.mapPage p vp m).memWf ↔ s.memWf := Iff.rfl

theorem State.integrityTrap_memWf (h : s.memWf) (c vp) : (s.integrityTrap c vp).memWf := by
  unfold State.integrityTrap
  split
  · simp [State.takeTrap_memWf, h]
  · exact h

theorem State.pageBad_memWf (h : s.memWf) (p vp) : (s.pageBad p vp).memWf := by
  refine foldl_keeps State.memWf _ _ _ (s.addLog_memWf _ _ _ _ _ _ h) fun u e _ hu => ?_
  simp [State.integrityTrap_memWf, hu]

@[simp] theorem State.priDone_memWf (p vp) : (s.priDone p vp).memWf ↔ s.memWf := Iff.rfl

theorem State.pageBack_memWf (h : s.memWf) (p vp gp pp w v) : (s.pageBack p vp gp pp w v).memWf := by
  unfold State.pageBack
  split
  · exact State.pageBad_memWf h ..
  · exact s.wrBytes_memWf _ _ h

/-! ### Mailbox commands -/

@[simp] theorem State.tell_memWf (fn st v) : (s.tell fn st v).memWf ↔ s.memWf := by simp [State.tell]
@[simp] theorem State.freeMail_memWf (fn) : (s.freeMail fn).memWf ↔ s.memWf := Iff.rfl
@[simp] theorem State.reply_memWf (fn st v) : (s.reply fn st v).memWf ↔ s.memWf := by simp [State.reply]
@[simp] theorem State.goesOn_memWf (fn i) : (s.goesOn fn i).memWf ↔ s.memWf := Iff.rfl

@[simp] theorem State.command_memWf {f : State} (h : s.memWf) (fn i) (hf : f.memWf) : (s.command fn i f).memWf := by
  simp [State.command, h, hf]

@[simp] theorem State.anyCommand_memWf {f : Nat → State} (h : s.memWf) (fn i) (hf : ∀ p, (f p).memWf) :
    (s.anyCommand fn i f).memWf := by
  refine State.command_memWf h _ _ ?_
  split
  · simp [h]
  · exact hf _

@[simp] theorem State.physCommand_memWf {f : State} (h : s.memWf) (fn i) (hf : f.memWf) :
    (s.physCommand fn i f).memWf := by
  simp [State.physCommand, h, hf]

@[simp] theorem State.checked_memWf {ok : State} (h : s.memWf) (fn l) (hok : ok.memWf) :
    (s.checked fn l ok).memWf := by
  induction l with
  | nil => exact hok
  | cons x l ih => simp [State.checked, h, ih]

theorem State.clearTiles_memWf (h : s.memWf) (k n) : (s.clearTiles k n).memWf :=
  foldl_keeps State.memWf _ _ _ h fun u l _ hu => u.recall_memWf l none hu

theorem State.makeStatement_memWf (h : s.memWf) (fn k x d f) : (s.makeStatement fn k x d f).memWf := by
  simp [State.makeStatement, State.wrBytes_memWf, h]

@[simp] theorem State.dropRaises_memWf (k) : (s.dropRaises k).memWf ↔ s.memWf := by simp [State.dropRaises]

/-! ### Collectives -/

theorem State.markToken_memWf (h : s.memWf) (c p tok) : (s.markToken c p tok).memWf := by
  have hs f : (s.updPart p f).memWf := (State.updPart_memWf_iff ..).mpr h
  refine State.ite_memWf h ?_
  dsimp only
  split
  · exact State.ite_memWf (State.areaWrite_memWf (hs _) ..) (hs _)
  · exact hs _

theorem State.collStatus_memWf (h : s.memWf) (m n) : (s.collStatus m n).memWf := by
  simp [State.collStatus, State.bulkWrite_memWf, h]

theorem State.endColl_memWf (h : s.memWf) (e) : (s.endColl e).memWf := by
  have hs := State.collStatus_memWf h e.member e.status
  refine State.ite_memWf h ?_
  split
  · simp [hs]
  · exact hs
  · simp [State.markToken_memWf, hs]

theorem State.endMember_memWf (h : s.memWf) (m n) : (s.endMember m n).memWf := State.endColl_memWf h _
theorem State.failMember_memWf (h : s.memWf) (m f) : (s.failMember m f).memWf := State.endColl_memWf h _

theorem State.collsEnd_memWf (h : s.memWf) : s.collsEnd.memWf :=
  foldl_keeps State.memWf _ _ _ h fun _ _ _ hu => State.endColl_memWf hu _

@[simp] theorem State.setGroup_memWf (g x) : (s.setGroup g x).memWf ↔ s.memWf := Iff.rfl

theorem State.failGroup_memWf (h : s.memWf) (g) : (s.failGroup g).memWf :=
  foldl_keeps State.memWf _ _ _ h fun _ _ _ hu => State.endMember_memWf hu ..

theorem State.spoil_memWf (h : s.memWf) (g m) : (s.spoil g m).memWf :=
  foldl_keeps State.memWf _ _ _ h fun _ _ _ hu => State.endMember_memWf hu ..

theorem State.joinGroup_memWf (h : s.memWf) (m) : (s.joinGroup m).memWf := by
  unfold State.joinGroup
  dsimp only
  split <;> simp [State.spoil_memWf, h]

theorem State.peersArrive_memWf (h : s.memWf) : s.peersArrive.memWf :=
  foldl_keeps State.memWf _ _ _ h fun _ _ _ hu => State.joinGroup_memWf hu _

theorem State.deliver_memWf (h : s.memWf) (m bads out) : (s.deliver m bads out).memWf := by
  have hl who n : (s.logRun m.part who m.d.src n false m.cluster).memWf := State.logRun_memWf h ..
  refine State.ite_memWf h (State.endMember_memWf (State.ite_memWf (hl ..) ?_) ..)
  exact foldl_keeps State.memWf _ _ _ (hl ..) fun _ _ _ hu => State.bulkWrite_memWf hu ..

/-! ### Images and launches -/

@[simp] theorem State.loadText_memWf (p k t) : (s.loadText p k t).memWf ↔ s.memWf :=
  State.foldl_memWf (fun _ _ => by simp) _ s

theorem State.bindImage_memWf (h : s.memWf) (p key g img fn) : (s.bindImage p key g img fn).memWf := by
  simp [State.bindImage, State.bulkWrite_memWf, h]

theorem State.dropLaunch_memWf (h : s.memWf) (p r) : (s.dropLaunch p r).memWf := by
  simp [State.dropLaunch, State.bulkWrite_memWf, h]

theorem State.addLaunch_memWf (h : s.memWf) (p sys r) : (s.addLaunch p sys r).memWf := by
  refine State.ite_memWf (State.dropLaunch_memWf h ..) <| State.ite_memWf h <| State.ite_memWf ?_ h
  exact foldl_keeps State.memWf _ _ _ h fun _ _ _ hu => State.dropLaunch_memWf hu ..

@[simp] theorem State.dispatch_memWf (p gang lv g k r c b) : (s.dispatch p gang lv g k r c b).memWf ↔ s.memWf :=
  Iff.rfl

theorem State.placeMembers_memWf (p gang lv) (l) (h : s.memWf) {t} (e : s.placeMembers p gang lv l = some t) :
    t.memWf := by
  induction l generalizing s with
  | nil => exact Option.some.inj e ▸ h
  | cons r l ih =>
    unfold State.placeMembers at e
    split at e
    · cases e
    · split at e
      · cases e
      · exact ih ((State.dispatch_memWf ..).mpr h) e

@[simp] theorem State.admitGang_memWf (p id l) : (s.admitGang p id l).memWf ↔ s.memWf := by
  unfold State.admitGang
  split <;> simp

theorem State.placeEntry_memWf (h : s.memWf) {p e t} (he : s.placeEntry p e = some t) : t.memWf := by
  unfold State.placeEntry at he
  split at he
  · split at he
    · exact Option.some.inj he ▸ h
    · dsimp only at he
      split at he
      · cases he
      · exact Option.some.inj he ▸ (State.restore_memWf ..).mpr h
  · obtain ⟨u, hu, rfl⟩ := Option.map_eq_some_iff.mp he
    exact (State.admitGang_memWf ..).mpr (State.placeMembers_memWf _ _ _ _ ((State.fresh_memWf).mpr h) hu)

@[simp] theorem State.preempt_memWf (p l) : (s.preempt p l).memWf ↔ s.memWf := by simp [State.preempt]
@[simp] theorem State.updEntry_memWf (p e f) : (s.updEntry p e f).memWf ↔ s.memWf := Iff.rfl
@[simp] theorem State.headWaits_memWf (p e) : (s.headWaits p e).memWf ↔ s.memWf := by simp [State.headWaits]

theorem State.tryEntry_memWf (h : s.memWf) {p e t} (he : s.tryEntry p e = some t) : t.memWf :=
  State.placeEntry_memWf h (Option.filter_eq_some_iff.mp he).1

@[simp] theorem State.placed_memWf (p e b) : (s.placed p e b).memWf ↔ s.memWf := Iff.rfl

theorem State.passing_memWf (h : s.memWf) (p l) : (s.passing p l).memWf := by
  induction l with
  | nil => exact h
  | cons e l ih =>
    unfold State.passing
    split
    next u hu => exact (State.placed_memWf ..).mpr (State.tryEntry_memWf h hu)
    next => exact ih

@[simp] theorem State.takeFurther_memWf (p e) : (s.takeFurther p e).memWf ↔ s.memWf := by
  refine State.foldl_memWf (fun u c => ?_) _ s
  dsimp only
  split <;> simp

/-! ### The host, links and errors -/

theorem State.hostLine_memWf (h : s.memWf) (p fn a l) : (s.hostLine p fn a l).memWf := by
  simp [State.hostLine, State.logRefused_memWf, State.wrLine_memWf, h]

@[simp] theorem State.answers_memWf (l) : (s.answers l).memWf ↔ s.memWf := Iff.rfl

theorem State.hostRead_memWf (h : s.memWf) (p fn a n) : (s.hostRead p fn a n).memWf := by
  simp [State.hostRead, State.logRefused_memWf, h]

@[simp] theorem State.hostRefused_memWf (fn a n r) : (s.hostRefused fn a n r).memWf ↔ s.memWf := by
  simp [State.hostRefused]
@[simp] theorem State.setPort_memWf (p x) : (s.setPort p x).memWf ↔ s.memWf := Iff.rfl
@[simp] theorem State.assignSpare_memWf (n) : (s.assignSpare n).memWf ↔ s.memWf := by
  unfold State.assignSpare
  dsimp only
  split <;> rfl

theorem State.portDown_memWf (h : s.memWf) (n) : (s.portDown n).memWf := by
  refine State.ite_memWf ?_ h
  refine foldl_keeps State.memWf _ _ _ ?_ fun _ _ _ hu => State.failGroup_memWf hu _
  split
  · exact (State.assignSpare_memWf _).mpr h
  · exact h

/-- A reset of the device keeps host memory alone (R309). -/
theorem State.wipe_memWf (h : s.memWf) : s.wipe.memWf := Store.filter_wf _ _ _ h

@[simp] theorem State.comeUp_memWf : s.comeUp.memWf ↔ s.memWf := Iff.rfl
@[simp] theorem State.poisonAt_memWf (e) : (s.poisonAt e).memWf ↔ s.memWf := by
  cases e <;> simp [State.poisonAt]

theorem State.takeError_memWf (h : s.memWf) (e) : (s.takeError e).memWf := by
  simp [State.takeError, State.addLog_memWf, h]

theorem State.errorsStrike_memWf (h : s.memWf) : s.errorsStrike.memWf :=
  foldl_keeps State.memWf _ _ _ h fun _ _ _ hu => State.takeError_memWf hu _

/-! ### Partitions that come, change and go -/

theorem State.wipeSpace_memWf (h : s.memWf) (n) : (s.wipeSpace n).memWf := Store.filter_wf _ _ _ h

theorem State.scrubCluster_memWf (h : s.memWf) (cl c) : (s.scrubCluster cl c).memWf := by
  simp [State.scrubCluster, State.wipeSpace_memWf, h]

@[simp] theorem State.sliceCond_memWf (k c) : (s.sliceCond k c).memWf ↔ s.memWf := Iff.rfl
theorem State.zeroSlice_memWf (h : s.memWf) (k) : (s.zeroSlice k).memWf := Store.filter_wf _ _ _ h

theorem State.bumpSlice_memWf (h : s.memWf) (k) : (s.bumpSlice k).memWf := by
  simp [State.bumpSlice, State.zeroSlice_memWf, h]

theorem State.scrubSlice_memWf (h : s.memWf) (k c) : (s.scrubSlice k c).memWf := State.bumpSlice_memWf h k

theorem State.renewTrust_memWf (h : s.memWf) (p) : (s.renewTrust p).memWf :=
  State.wrBytes_memWf _ _ _ (State.wrBytes_memWf _ _ _ h)

@[simp] theorem State.loadTexts_memWf (p cl) : (s.loadTexts p cl).memWf ↔ s.memWf :=
  State.foldl_memWf (fun u e => by split <;> simp) _ s
@[simp] theorem State.takeUp_memWf (fn) : (s.takeUp fn).memWf ↔ s.memWf := Iff.rfl
@[simp] theorem State.within_memWf (n) : (s.within n).2.memWf ↔ s.memWf := Iff.rfl

theorem State.createPart_memWf (h : s.memWf) (g y fn) : (s.createPart g y fn).memWf := by
  have hc : ((selected g.clusters).foldl (fun s k => s.scrubCluster k (.held g.part)) (s.wipeSpace g.part)).memWf :=
    foldl_keeps State.memWf _ _ _ (State.wipeSpace_memWf h _) fun _ _ _ hu => State.scrubCluster_memWf hu ..
  simp [State.createPart, State.renewTrust_memWf, hc]

@[simp] theorem State.dropRegions_memWf (p) : (s.dropRegions p).memWf ↔ s.memWf := by
  refine State.foldl_memWf (fun u e => ?_) _ s
  split
  · split <;> simp
  · rfl

theorem State.prepare_memWf (h : s.memWf) (p r) : (s.prepare p r).memWf := by
  refine foldl_keeps State.memWf _ _ _ (foldl_keeps State.memWf _ _ _ h ?_) ?_
  · exact fun u k _ hu => (State.loadTexts_memWf ..).mpr (State.scrubCluster_memWf hu ..)
  · exact fun u k _ hu => State.bumpSlice_memWf hu k

@[simp] theorem State.sendStops_memWf (p r) : (s.sendStops p r).memWf ↔ s.memWf := by simp [State.sendStops]
@[simp] theorem State.setResize_memWf (p r) : (s.setResize p r).memWf ↔ s.memWf := Iff.rfl
@[simp] theorem State.bringBack_memWf (p v c b) : (s.bringBack p v c b).memWf ↔ s.memWf := by
  simp [State.bringBack]
@[simp] theorem State.restoreMoved_memWf (p m) : (s.restoreMoved p m).memWf ↔ s.memWf := by
  unfold State.restoreMoved
  dsimp only
  split <;> simp
@[simp] theorem State.restoreOld_memWf (p) : (s.restoreOld p).memWf ↔ s.memWf :=
  State.foldl_memWf (fun u v => by split <;> simp) _ s
@[simp] theorem State.takeCluster_memWf (p k) : (s.takeCluster p k).memWf ↔ s.memWf := Iff.rfl
@[simp] theorem State.abortResize_memWf (p r) : (s.abortResize p r).memWf ↔ s.memWf := by
  simp [State.abortResize]

/-- What leaves a partition is scrubbed, slices first. -/
theorem State.scrubs_memWf (h : s.memWf) (ks cs : List Nat) (c : Cond) :
    (cs.foldl (fun s k => s.scrubCluster k c) (ks.foldl (fun s k => s.scrubSlice k c) s)).memWf :=
  foldl_keeps State.memWf _ _ _ (foldl_keeps State.memWf _ _ _ h fun _ _ _ hu => State.scrubSlice_memWf hu ..)
    fun _ _ _ hu => State.scrubCluster_memWf hu ..

theorem State.endAbort_memWf (h : s.memWf) (p r) : (s.endAbort p r).memWf := by
  have ho := (State.restoreOld_memWf p).mpr h
  refine State.ite_memWf ho ?_
  simp only [State.after_memWf, State.tell_memWf, State.updPart_memWf_iff]
  refine foldl_keeps State.memWf _ _ _ (foldl_keeps State.memWf _ _ _ ho ?_) ?_
  · exact fun _ _ _ hu => State.scrubCluster_memWf hu ..
  · exact fun _ _ _ hu => State.scrubSlice_memWf hu ..

@[simp] theorem State.departCluster_memWf (p cl) : (s.departCluster p cl).memWf ↔ s.memWf := by
  unfold State.departCluster
  dsimp only
  split <;> simp
@[simp] theorem State.departEmpty_memWf (p r) : (s.departEmpty p r).memWf ↔ s.memWf := by
  simp [State.departEmpty]
@[simp] theorem State.switchMap_memWf (p r) : (s.switchMap p r).memWf ↔ s.memWf := by
  simp [State.switchMap]
@[simp] theorem State.dropLock_memWf (l) : (s.dropLock l).memWf ↔ s.memWf := Iff.rfl
@[simp] theorem State.keepLocks_memWf (l) : (s.keepLocks l).memWf ↔ s.memWf := by
  induction l generalizing s with
  | nil => rfl
  | cons n l ih => simp [State.keepLocks, ih]

/-- A set that moves leaves its stale lines behind (R280, R300). -/
theorem State.moveSet_memWf (h : s.memWf) (p r) : (s.moveSet p r).memWf :=
  (State.keepLocks_memWf _).mpr (Store.filter_wf _ _ _ h)

@[simp] theorem State.walkOn_memWf (p n) : (s.walkOn p n).memWf ↔ s.memWf := by simp [State.walkOn]
@[simp] theorem State.startCommit_memWf (p r) : (s.startCommit p r).memWf ↔ s.memWf := by
  unfold State.startCommit
  dsimp only
  split <;> simp

theorem State.scrubLeaving_memWf (h : s.memWf) (p r) : (s.scrubLeaving p r).memWf := State.scrubs_memWf h _ _ _

theorem State.endPart_memWf (h : s.memWf) (p r) : (s.endPart p r).memWf := by
  simp [State.endPart, State.wipeSpace_memWf, State.scrubLeaving_memWf, h]

theorem State.endResize_memWf (h : s.memWf) (p r) : (s.endResize p r).memWf := by
  simp [State.endResize, State.renewTrust_memWf, State.scrubLeaving_memWf, h]

/-! ### Scalar and vector accesses -/

@[simp] theorem State.setDiv_memWf (d v) : (s.setDiv d v).memWf ↔ s.memWf := by simp [State.setDiv]

theorem State.loadScalar_memWf (h : s.memWf) (d ea lg sg aq) : (s.loadScalar d ea lg sg aq).memWf := by
  refine State.ite_memWf h ?_
  split
  next t e => exact State.badRoute_memWf h e
  next => simp [State.logMine_memWf, h]

theorem State.storeScalar_memWf (h : s.memWf) (d ea lg o) : (s.storeScalar d ea lg o).memWf := by
  refine State.ite_memWf h ?_
  split
  next t e => exact State.badRoute_memWf h e
  next => simp [State.logMine_memWf, State.writeAt_memWf, h]

theorem State.atomic_memWf (h : s.memWf) (d ea dw o sys f) : (s.atomic d ea dw o sys f).memWf := by
  unfold State.atomic
  generalize (if dw = true then 3 else 2) = lg, (if o = .acq ∨ o = .acqrel then sysStage sys else 0) = order
  refine State.ite_memWf h (State.ite_memWf h ?_)
  dsimp only
  split
  next t e => exact State.badRoute_memWf h e
  next =>
    simp only [State.track_memWf, State.updMe_memWf]
    refine State.ite_memWf (s.logMine_memWf _ h) ?_
    split
    · exact s.writeAt_memWf _ _ h
    · exact h

@[simp] theorem State.select_memWf (k) : (s.select k).memWf ↔ s.memWf := by
  unfold State.select
  split
  · rfl
  · split <;> rfl
@[simp] theorem State.unselect_memWf (k) : (s.unselect k).memWf ↔ s.memWf := Iff.rfl

theorem State.logRefusals_memWf (h : s.memWf) (l) : (s.logRefusals l).memWf :=
  foldl_keeps State.memWf _ _ _ h fun u _ _ hu => State.ite_memWf (u.logMine_memWf _ hu) hu

theorem State.lineRoutes_memWf (h : s.memWf) {l w t} (e : (s.lineRoutes l w).1 = some t) : t.memWf := by
  unfold State.lineRoutes at e
  dsimp only at e
  split at e
  · refine Option.some.inj e ▸ foldl_keeps State.memWf _ _ _ h fun u x _ hu => State.ite_memWf ?_ hu
    cases hb : u.badRoute x.2.2 x.2.1 none with
    | none => exact hu
    | some v => exact State.badRoute_memWf hu hb
  · obtain ⟨x, -, hx⟩ := List.exists_of_findSome?_eq_some e
    exact State.badRoute_memWf h hx

theorem State.storeLine_memWf (h : s.memWf) (r p x) : (s.storeLine r p x).memWf :=
  State.ite_memWf (s.writeAt_memWf _ _ h) <|
    foldl_keeps State.memWf _ _ _ h fun u _ _ hu => State.ite_memWf (u.writeAt_memWf _ _ hu) hu

@[simp] theorem State.markDone_memWf (i) : (s.markDone i).memWf ↔ s.memWf := Iff.rfl

theorem State.elemAt_memWf {f : Route → State → State} (h : s.memWf) (lg w i a)
    (hf : ∀ r u, u.memWf → (f r u).memWf) : (s.elemAt lg w i a f).memWf := by
  refine State.ite_memWf (State.ite_memWf h h) (State.ite_memWf h ?_)
  split
  next t e => exact State.badRoute_memWf h e
  next => exact hf _ _ (State.ite_memWf (s.logMine_memWf _ h) h)

theorem State.elemLoad_memWf (h : s.memWf) (v l b st f) : (s.elemLoad v l b st f).memWf :=
  (State.track_memWf ..).mpr <| foldl_keeps State.memWf _ _ _ h fun _ _ _ hu =>
    State.elemAt_memWf hu _ _ _ _ fun _ _ hw => hw

theorem State.elemStore_memWf (h : s.memWf) (v l b f) : (s.elemStore v l b f).memWf :=
  (State.track_memWf ..).mpr <| foldl_keeps State.memWf _ _ _ h fun _ _ _ hu =>
    State.elemAt_memWf hu _ _ _ _ fun _ w hw => w.writeAt_memWf _ _ hw

end Sys2Proof.Machine
end

section
/-!
SUPPORT. Every instruction and event keeps memory canonical (O59): a lemma per definition whose branches differ, then
`exec_memWf` by cases on the instruction.
-/
namespace Sys2Proof.Machine

open Sys2Proof

variable {s : State}

/-! ### Outcomes -/

/-- The next state, where there is one, holds canonical memory (log 5). -/
def Out.memWf : Out → Prop
  | .next t => t.memWf
  | _ => True

@[simp] theorem Out.memWf_next (t : State) : Out.memWf (.next t) ↔ t.memWf := Iff.rfl

/-! ### Instructions of the control and vector slots, and the terms unit -/

theorem execBrkl_memWf (h : s.memWf) (n) : Out.memWf (execBrkl n s) := by
  unfold execBrkl
  dsimp only
  split
  · simp [h]
  · split <;> simp [h]

theorem execTermsUnitAnswer_memWf (h : s.memWf) (c sl) : Out.memWf (execTermsUnitAnswer c sl s) := by
  unfold execTermsUnitAnswer
  split
  · exact h
  · dsimp only
    split <;> simp [h]

theorem execNvStoreWriteComplete_memWf (h : s.memWf) (k) : Out.memWf (execNvStoreWriteComplete k s) := by
  unfold execNvStoreWriteComplete
  split <;> simp [h]

theorem execVcvt_memWf (h : s.memWf) (d a ty r l) : Out.memWf (execVcvt d a ty r l s) := by
  refine State.withVt_memWf h fun t => ?_
  split
  · simp [h]
  · simp [h]

theorem execViota_memWf (h : s.memWf) (d l) : Out.memWf (execViota d l s) :=
  State.withVt_memWf h fun t => by
    split <;> simp [h]

theorem execVld_memWf (h : s.memWf) (v x off l) : Out.memWf (execVld v x off l s) := by
  refine State.ite_memWf (by simp [h]) ?_
  dsimp only
  split
  next t e => exact State.lineRoutes_memWf h e
  next => simp [State.logRefusals_memWf, h]

theorem execVst_memWf (h : s.memWf) (v x off l) : Out.memWf (execVst v x off l s) := by
  refine State.ite_memWf (by simp [h]) ?_
  dsimp only
  split
  next t e => exact State.lineRoutes_memWf h e
  next =>
    refine (State.track_memWf ..).mpr (foldl_keeps State.memWf _ _ _ (State.logRefusals_memWf h _) ?_)
    exact fun u _ _ hu => State.storeLine_memWf hu ..

theorem execVlds_memWf (h : s.memWf) (v x b l) : Out.memWf (execVlds v x b l s) :=
  State.withVt_memWf h fun _ => State.elemLoad_memWf h ..

theorem execVsts_memWf (h : s.memWf) (v x b l) : Out.memWf (execVsts v x b l s) :=
  State.withVt_memWf h fun _ => State.elemStore_memWf h ..

theorem execStrl_memWf (h : s.memWf) (sz d a) : Out.memWf (execStrl sz d a s) :=
  State.ite_memWf h (State.storeScalar_memWf h ..)

theorem execTrpop_memWf (h : s.memWf) (d l) : Out.memWf (execTrpop d l s) := by
  unfold execTrpop
  split
  · simp [h]
  · simp [h]

theorem execTimeSliceExpiry_memWf (h : s.memWf) (k) : Out.memWf (execTimeSliceExpiry k s) := by
  unfold execTimeSliceExpiry
  dsimp only
  split <;> simp [h]

/-! ### Instructions and events of the matrix engine -/

theorem execMxepi_memWf (h : s.memWf) (acc vs vz) : Out.memWf (execMxepi acc vs vz s) := by
  refine State.withEngine_memWf h _ (State.withAcc_memWf h _ (State.unlessBad_memWf h _ ?_))
  exact (State.holds_memWf ..).mpr h

theorem execMxst_memWf (h : s.memWf) (acc th ty r) : Out.memWf (execMxst acc th ty r s) := by
  refine State.withEngine_memWf h _ (State.ite_memWf h (State.withAcc_memWf h _ ?_))
  split
  · simp [h]
  · split
    · simp [h]
    · simp [h]

theorem execMxOccupancyEnd_memWf (h : s.memWf) (k) : Out.memWf (execMxOccupancyEnd k s) := by
  unfold execMxOccupancyEnd
  dsimp only
  split
  · exact h
  · refine State.ite_memWf h ?_
    refine foldl_keeps State.memWf _ _ _ h fun u x _ hu => ?_
    split
    · exact hu
    · simp [hu]

theorem execMxstTileWriteDone_memWf (h : s.memWf) (c th) : Out.memWf (execMxstTileWriteDone c th s) := by
  unfold execMxstTileWriteDone
  split
  · exact h
  · refine State.ite_memWf h (State.ite_memWf h ?_)
    exact foldl_keeps State.memWf _ _ _ h fun u x _ hu => u.recall_memWf _ _ hu

/-! ### Instructions of the DM slot -/

theorem execTmap_memWf (h : s.memWf) (th a) : Out.memWf (execTmap th a s) := by
  refine State.ite_memWf (by simp [h]) (State.ite_memWf (by simp [h]) (State.dmRead_memWf h _ _ fun l u hu => ?_))
  dsimp only
  split <;> simp [hu]

theorem execProbe_memWf (h : s.memWf) (w a b) : Out.memWf (execProbe w a b s) := by
  refine State.ite_memWf (by simp [h]) (State.ite_memWf (by simp [h]) ?_)
  dsimp only
  split
  · simp [h]
  · split
    · simp [h]
    · refine (State.blocks_memWf ..).mpr ((State.foldl_memWf (fun u _ => ?_) _ s).mpr h)
      simp

theorem execUnprobe_memWf (h : s.memWf) (a b) : Out.memWf (execUnprobe a b s) := by
  refine State.ite_memWf (by simp [h]) ?_
  split <;> simp [h]

theorem execCpycv_memWf (h : s.memWf) (d a b) : Out.memWf (execCpycv d a b s) := by
  unfold execCpycv
  split <;> simp [h]

theorem execCpygo_memWf (h : s.memWf) (kp ka kb kc ring) : Out.memWf (execCpygo kp ka kb kc ring s) := by
  unfold execCpygo
  dsimp only
  split
  · simp [h]
  · split <;> simp [h]

theorem execGath_memWf (h : s.memWf) (a b k ring) : Out.memWf (execGath a b k ring s) := by
  refine State.ite_memWf (by simp [h]) (State.ite_memWf (by simp [h]) (State.ite_memWf (by simp [h]) ?_))
  split
  · simp [h]
  · split <;> simp [h]

theorem execSctld_memWf (h : s.memWf) (a) : Out.memWf (execSctld a s) :=
  State.ite_memWf (by simp [h]) (State.dmRead_memWf h _ _ fun l u hu => by simp [hu])

/-! ### Events of the engines -/

theorem execFillComplete_memWf (h : s.memWf) (k id) : Out.memWf (execFillComplete k id s) := by
  unfold execFillComplete
  split
  · exact h
  · split
    · split
      · simp [h]
      · refine State.ite_memWf h (State.ite_memWf (by simp [h]) ?_)
        refine (State.foldl_memWf (fun u x => ?_) _ _).mpr ?_
        · simp
        · simp [State.logFill_memWf, h]
    · exact h

theorem execFillFail_memWf (h : s.memWf) (k id) : Out.memWf (execFillFail k id s) := by
  unfold execFillFail
  split
  · exact h
  · split
    · split
      · simp [h]
      · split
        · exact h
        · refine State.ite_memWf h (State.ite_memWf (by simp [h]) ?_)
          refine (State.foldl_memWf (fun u x => ?_) _ _).mpr ?_ <;> simp [h]
    · exact h

theorem execWriteBackComplete_memWf (h : s.memWf) (k id) : Out.memWf (execWriteBackComplete k id s) := by
  unfold execWriteBackComplete
  split
  · exact h
  · split
    · refine State.ite_memWf h (State.ite_memWf (by simp [h]) ?_)
      split
      · simp [h]
      · refine State.ite_memWf (by simp [h]) (State.ite_memWf (by simp [h]) ?_)
        split <;> simp [State.flush_memWf, h]
    · exact h

theorem execUnmapComplete_memWf (h : s.memWf) (k id) : Out.memWf (execUnmapComplete k id s) := by
  unfold execUnmapComplete
  split
  · exact h
  · split
    · refine State.ite_memWf h (State.ite_memWf (by simp [h]) ?_)
      split
      · simp [h]
      · refine State.ite_memWf (by simp [h]) (State.ite_memWf (by simp [h]) ?_)
        split <;> simp [State.flush_memWf, h]
    · exact h

theorem execCopyComplete_memWf (h : s.memWf) (k id) : Out.memWf (execCopyComplete k id s) := by
  unfold execCopyComplete
  split
  · exact h
  · refine State.ite_memWf h (State.ite_memWf (by simp [h]) ?_)
    dsimp only
    split
    · simp [State.logReads_memWf, h]
    · simp [State.copyRuns_memWf, State.logReads_memWf, h]
    · exact h

theorem execCopyFail_memWf (h : s.memWf) (k id) : Out.memWf (execCopyFail k id s) := by
  unfold execCopyFail
  split
  · exact h
  · split
    · exact h
    · refine State.ite_memWf h (State.ite_memWf (by simp [h]) ?_)
      dsimp only
      split
      · simp [State.logReads_memWf, h]
      · refine (State.failCmd_memWf ..).mpr (foldl_keeps State.memWf _ _ _ (State.logReads_memWf h _ _) ?_)
        exact fun u _ _ hu => State.bulkSome_memWf hu ..
      · exact h

theorem execRingSlotWriteStart_memWf (h : s.memWf) (k id) : Out.memWf (execRingSlotWriteStart k id s) := by
  unfold execRingSlotWriteStart
  split
  · exact h
  · split
    · exact h
    · split
      · exact h
      · simp [h]

theorem execDmCommandStart_memWf (h : s.memWf) (k id) : Out.memWf (execDmCommandStart k id s) := by
  unfold execDmCommandStart
  split
  · exact h
  · refine State.ite_memWf (by simp [h]) (State.ite_memWf h (State.ite_memWf (by simp [h]) ?_))
    dsimp only
    split
    · split <;> simp [h]
    all_goals simp [h]

theorem execAccessCompletion_memWf (h : s.memWf) (c id) : Out.memWf (execAccessCompletion c id s) := by
  unfold execAccessCompletion
  split <;> simp [h]

theorem execForeignLineWrite_memWf (h : s.memWf) (ag a v) : Out.memWf (execForeignLineWrite ag a v s) := by
  simp [execForeignLineWrite, State.logAgent_memWf, State.wrLine_memWf, h]

theorem execForeignLineRead_memWf (h : s.memWf) (ag a) : Out.memWf (execForeignLineRead ag a s) := by
  simp [execForeignLineRead, State.logAgent_memWf, h]

/-! ### The frontier and queues -/

theorem execCapadv_memWf (h : s.memWf) (n) : Out.memWf (execCapadv n s) :=
  State.withPort_memWf h _ fun p => by
    split
    · simp [h]
    · simp [h]

theorem execCapdrop_memWf (h : s.memWf) (n) : Out.memWf (execCapdrop n s) :=
  State.withPort_memWf h _ fun p => by
    split <;> simp [h]

theorem execEnq_memWf (h : s.memWf) (n a k) : Out.memWf (execEnq n a k s) := by
  refine State.withPort_memWf h _ fun p => ?_
  simp [h]

theorem execEnqAppend_memWf (h : s.memWf) (k id) : Out.memWf (execEnqAppend k id s) := by
  unfold execEnqAppend
  split
  · exact h
  · split
    · refine State.ite_memWf h ?_
      dsimp only
      split
      · simp [h]
      · simp [State.append_memWf, State.logRun_memWf, h]
    · exact h

theorem execDeq_memWf (h : s.memWf) (n a) : Out.memWf (execDeq n a s) := by
  refine State.withPort_memWf h _ fun p => ?_
  refine State.ite_memWf (by simp [h]) (State.ite_memWf (by simp [h]) (State.ite_memWf (by simp [h]) ?_))
  split
  · simp [h]
  · refine State.ite_memWf (by simp [h]) ?_
    dsimp only
    split
    next e => exact State.badRoute_memWf h e
    next => simp [State.logMine_memWf, State.writeAt_memWf, h]

theorem execIncrementArrival_memWf (h : s.memWf) (c sl) : Out.memWf (execIncrementArrival c sl s) := by
  unfold execIncrementArrival
  split <;> simp [h]

theorem execRoundCompute_memWf (h : s.memWf) (p) : Out.memWf (execRoundCompute p s) := by
  unfold execRoundCompute
  dsimp only
  split
  · exact h
  · refine State.ite_memWf (by simp [h]) ?_
    split <;> simp [h]

/-! ### Contexts and device registers -/

theorem execExit_memWf (h : s.memWf) : Out.memWf (execExit s) := by
  refine State.ite_memWf (by simp [h]) ?_
  split
  next t e => exact State.raiseFailed_memWf h e
  next => exact State.ite_memWf (by simp [h]) (State.endContext_memWf h ..)

theorem execCtxKill_memWf (h : s.memWf) (c) : Out.memWf (execCtxKill c s) :=
  State.gecko_memWf h _ _ _ fun u hu => by simp [State.endContext_memWf, hu]

theorem execContextStop_memWf (h : s.memWf) (c) : Out.memWf (execContextStop c s) := by
  unfold execContextStop
  split <;> simp [State.save_memWf, h]

theorem execCtxSave_memWf (h : s.memWf) (c) : Out.memWf (execCtxSave c s) :=
  State.gecko_memWf h _ _ _ fun u hu => by simp [hu]

theorem execCtxRestore_memWf (h : s.memWf) (c) : Out.memWf (execCtxRestore c s) := by
  refine State.geckoOn_memWf h _ _ fun u hu => ?_
  dsimp only
  split
  · simp [hu]
  · split
    · simp [hu]
    · refine State.ite_memWf (by simp [hu]) ?_
      split <;> simp [hu]

theorem execTrapRecordAppend_memWf (h : s.memWf) (cl) : Out.memWf (execTrapRecordAppend cl s) := by
  unfold execTrapRecordAppend
  dsimp only
  split
  · exact h
  · simp [State.wrMem_memWf, h]

theorem execCtxResume_memWf (h : s.memWf) (c) : Out.memWf (execCtxResume c s) :=
  State.gecko_memWf h _ _ _ fun u hu => by simp [hu]

theorem execRegisterWrite_memWf (h : s.memWf) (r v) : Out.memWf (execRegisterWrite r v s) := by
  unfold execRegisterWrite
  split <;> simp [h]

/-! ### Pages -/

theorem execPageEviction_memWf (h : s.memWf) (p vp v) : Out.memWf (execPageEviction p vp v s) := by
  simp [execPageEviction, State.wrBytes_memWf, h]

theorem execPageRequestReply_memWf (h : s.memWf) (c vp r) : Out.memWf (execPageRequestReply c vp r s) := by
  unfold execPageRequestReply
  dsimp only
  split
  · exact h
  · split
    · split
      · simp [State.pageBack_memWf, h]
      · simp [h]
    · exact h

theorem execPageWalkComplete_memWf (h : s.memWf) (p vp m) : Out.memWf (execPageWalkComplete p vp m s) := by
  refine State.ite_memWf h ?_
  dsimp only
  split <;> simp [State.pageBack_memWf, h]

/-! ### The mailbox -/

theorem execBindRegion_memWf (h : s.memWf) (fn k b c) : Out.memWf (execBindRegion fn k b c s) := by
  refine State.command_memWf h _ _ ?_
  dsimp only
  split
  · simp [h]
  · split
    · simp [h]
    · simp [h]
    · refine State.checked_memWf h _ _ ?_
      split <;> simp [State.clearTiles_memWf, h]

theorem execRemoveTerms_memWf (h : s.memWf) (fn k d) : Out.memWf (execRemoveTerms fn k d s) := by
  refine State.command_memWf h _ _ ?_
  dsimp only
  split
  · simp [h]
  · simp [State.makeStatement_memWf, h]

theorem execStatement_memWf (h : s.memWf) (fn k d) : Out.memWf (execStatement fn k d s) := by
  refine State.command_memWf h _ _ ?_
  dsimp only
  split
  · simp [h]
  · simp [State.makeStatement_memWf, h]

theorem execPortSet_memWf (h : s.memWf) (fn n kd b l) : Out.memWf (execPortSet fn n kd b l s) := by
  refine State.anyCommand_memWf h _ _ fun p => State.checked_memWf h _ _ ?_
  simp [h]

theorem execQueuePush_memWf (h : s.memWf) (fn n l t) : Out.memWf (execQueuePush fn n l t s) := by
  refine State.anyCommand_memWf h _ _ fun p => State.checked_memWf h _ _ ?_
  simp [State.append_memWf, h]

theorem execFrontierReset_memWf (h : s.memWf) (fn) : Out.memWf (execFrontierReset fn s) := by
  refine State.anyCommand_memWf h _ _ fun p => State.checked_memWf h _ _ ?_
  simp [h]

theorem execEngineLease_memWf (h : s.memWf) (fn n ms) : Out.memWf (execEngineLease fn n ms s) := by
  refine State.physCommand_memWf h _ _ ?_
  split <;> simp [h]

theorem execAttach_memWf (h : s.memWf) (fn k) : Out.memWf (execAttach fn k s) := by
  refine State.command_memWf h _ _ ?_
  dsimp only
  cases Store.get none s.host.token fn <;> cases s.fnPart fn <;> simp [h]

theorem execLoadImage_memWf (h : s.memWf) (fn a) : Out.memWf (execLoadImage fn a s) := by
  refine State.anyCommand_memWf h _ _ fun p => State.checked_memWf h _ _ ?_
  split
  · simp [h]
  · exact State.checked_memWf h _ _ (State.ite_memWf (by simp [h]) (State.bindImage_memWf h ..))

/-! ### Collectives -/

theorem execCollDescriptorRead_memWf (h : s.memWf) (k id) : Out.memWf (execCollDescriptorRead k id s) := by
  unfold execCollDescriptorRead
  split
  · exact h
  · split
    · refine State.ite_memWf h (State.ite_memWf (by simp [h]) ?_)
      split
      · simp [h]
      · exact State.ite_memWf (State.endMember_memWf (State.logRun_memWf h ..) ..)
          (State.joinGroup_memWf (State.logRun_memWf h ..) _)
    · exact h

theorem execCollectiveComplete_memWf (h : s.memWf) (g) : Out.memWf (execCollectiveComplete g s) := by
  unfold execCollectiveComplete
  split
  · exact h
  · split
    · exact h
    · refine State.ite_memWf h (State.ite_memWf ?_ (State.ite_memWf (by simp [h]) ?_))
      · refine foldl_keeps State.memWf _ _ _ h fun u m _ hu => ?_
        split
        · exact State.failMember_memWf hu ..
        · exact State.endMember_memWf hu ..
      · exact foldl_keeps State.memWf _ _ _ h fun u m _ hu => State.deliver_memWf hu ..

theorem execCollectiveTimeout_memWf (h : s.memWf) (g) : Out.memWf (execCollectiveTimeout g s) := by
  unfold execCollectiveTimeout
  split <;> simp [State.failGroup_memWf, h]

/-! ### Launches and the host -/

theorem execLaunchRecordArrival_memWf (h : s.memWf) (p sys r) : Out.memWf (execLaunchRecordArrival p sys r s) := by
  simp [execLaunchRecordArrival, State.dropLaunch_memWf, State.addLaunch_memWf, h]

theorem execGangPlacement_memWf (h : s.memWf) (p) : Out.memWf (execGangPlacement p s) := by
  unfold execGangPlacement
  split
  · exact h
  next e _ _ =>
    split
    next u hu => simp [State.tryEntry_memWf h hu]
    next =>
      refine State.passing_memWf ?_ _ _
      cases (inOrder ((s.headWaits p e).part p).waiting).head? <;> simp [h]

theorem execVictimSaveTimeout_memWf (h : s.memWf) (p c) : Out.memWf (execVictimSaveTimeout p c s) := by
  unfold execVictimSaveTimeout
  split <;> simp [h]

theorem execHostMemoryAccess_memWf (h : s.memWf) (fn a w n) : Out.memWf (execHostMemoryAccess fn a w n s) := by
  unfold execHostMemoryAccess
  refine State.ite_memWf h ?_
  have h1 : (if w.isNone = true then { s with host := { s.host with answer := [] } } else s : State).memWf :=
    State.ite_memWf h h
  dsimp only
  split
  · simp [h]
  · refine State.ite_memWf (by simp [h]) ?_
    split
    · exact foldl_keeps State.memWf _ _ _ h1 fun u c _ hu => State.hostLine_memWf hu ..
    · exact foldl_keeps State.memWf _ _ _ h1 fun u c _ hu => State.hostRead_memWf hu ..

theorem execLinkPortDown_memWf (h : s.memWf) (n) : Out.memWf (execLinkPortDown n s) := by
  simp [execLinkPortDown, State.portDown_memWf, h]

theorem execFlitRetry_memWf (h : s.memWf) (n) : Out.memWf (execFlitRetry n s) := by
  simp [execFlitRetry, State.portDown_memWf, h]

theorem execPowerLoss_memWf (h : s.memWf) : Out.memWf (execPowerLoss s) := State.wipe_memWf h

theorem execDeviceReset_memWf (h : s.memWf) : Out.memWf (execDeviceReset s) := by
  simp [execDeviceReset, State.wipe_memWf, h]

theorem execLifeCycleChange_memWf (h : s.memWf) : Out.memWf (execLifeCycleChange s) := by
  simp [execLifeCycleChange, State.wipe_memWf, h]

/-! ### Partitions and their resizing -/

theorem execPartCreate_memWf (h : s.memWf) (fn b) : Out.memWf (execPartCreate fn b s) :=
  State.physCommand_memWf h _ _ (State.checked_memWf h _ _ (State.createPart_memWf h ..))

theorem execPartDestroy_memWf (h : s.memWf) (fn b) : Out.memWf (execPartDestroy fn b s) := by
  refine State.physCommand_memWf h _ _ (State.checked_memWf h _ _ ?_)
  simp [h]

theorem execPartResize_memWf (h : s.memWf) (fn b) : Out.memWf (execPartResize fn b s) :=
  State.physCommand_memWf h _ _ (State.checked_memWf h _ _ (State.prepare_memWf h ..))

theorem execMoultQuiesce_memWf (h : s.memWf) (p) : Out.memWf (execMoultQuiesce p s) := by
  unfold execMoultQuiesce
  split <;> simp [h]

theorem execQuiesceTimeout_memWf (h : s.memWf) (p) : Out.memWf (execQuiesceTimeout p s) := by
  unfold execQuiesceTimeout
  split <;> simp [State.endAbort_memWf, h]

theorem execMoultMove_memWf (h : s.memWf) (p) : Out.memWf (execMoultMove p s) := by
  unfold execMoultMove
  split
  · exact h
  · simp [h]

theorem execMoultRehash_memWf (h : s.memWf) (p) : Out.memWf (execMoultRehash p s) := by
  unfold execMoultRehash
  split
  · exact h
  · simp [h]

theorem execRehashSetMigrate_memWf (h : s.memWf) (p) : Out.memWf (execRehashSetMigrate p s) := by
  unfold execRehashSetMigrate
  split
  · exact h
  · refine State.ite_memWf h (State.ite_memWf (by simp [h]) ?_)
    split <;> simp [State.moveSet_memWf, h]

theorem execMoultCommit_memWf (h : s.memWf) (p) : Out.memWf (execMoultCommit p s) := by
  unfold execMoultCommit
  split
  · exact h
  · simp [State.endPart_memWf, State.endResize_memWf, h]

/-! ### One instruction or event -/

/-- Every instruction and event keeps memory canonical. -/
theorem exec_memWf (h : s.memWf) (i : Instr) : Out.memWf (exec i s) := by
  cases i with
  | emptyBundle | br | jmpr | call | callr | fmtset | fmtsets | trap | vsel | vswp | vlog3 | plog | pxfer |
  cpybs | fmtDelayExpiry | sfResultLatch | sfResultWrite | transposeBlockReady | resultLanding | incrementAck |
  powerLimitReached | nopCtl | nopSa | nopSb | nopVa | nopVb | nopMx | nopXu | nopDm | ret | yield | trclr |
  orderlyShutdown =>
    exact h
  | mfs | add | sub | and | or | xor | andn | shl | shr | sra | mul | mulh | mulhu | min | max | minu | maxu |
  slt | sltu | seq | sne | clz | ctz | popc | addi | andi | ori | xori | shli | shri | srai | slti | sltiu | lui
  | sel | adds | fadd | fsub | fmul | fmin | fmax | fcmplt | fcmple | fcmpeq | fcvtif | fcvtfi | fdiv | fsqrt |
  fma =>
    exact (State.setS_memWf ..).mpr h
  | div | divu | rem | remu =>
    exact (State.setDiv_memWf ..).mpr h
  | vadd | vsub | vmul | vmin | vmax | vshl | vshr | vsra =>
    exact State.vbin_memWf h ..
  | vfma | vfms =>
    exact State.vtern_memWf h ..
  | vabs | vneg | vclass =>
    exact State.vun_memWf h ..
  | xexp2 | xlog2 | xrcp | xrsqrt | xsqrt | xtanh | xsigm =>
    exact State.sfun_memWf h ..
  | mma | mmaq | mmal =>
    exact State.mmaRun_memWf h ..
  | ldb | ldbu | ldh | ldhu | ldw | ldwu | ldd | ldaq =>
    exact State.loadScalar_memWf h ..
  | stb | sth | stw | std =>
    exact State.storeScalar_memWf h ..
  | amo | cas =>
    exact State.atomic_memWf h ..
  | vgath =>
    exact State.elemLoad_memWf h ..
  | vscat =>
    exact State.elemStore_memWf h ..
  | brc | brp | loop | loopi | waitk | waitks | fence | drain | mts | useopen | useclose | useq =>
    simp [exec, execBrc, execBrp, execLoop, execLoopi, execWaitk, execWaitks, execFence, execDrain, execMts,
      execUseopen, execUseclose, execUseq, h]
  | vcmp | vbcast | vget | vperm | vred | vacr | vacw | trpush =>
    simp [exec, execVcmp, execVbcast, execVget, execVperm, execVred, execVacr, execVacw, execTrpush, h]
  | mxz | mxcb | mxrs | mxsa =>
    simp [exec, execMxz, execMxcb, execMxrs, execMxsa, h]
  | tunmap | tfill | twb | tinv | tsetf | cpylv | rbinit | rbwait | rbrel | coll | l2lock | l2unlk =>
    simp [exec, execTunmap, execTfill, execTwb, execTinv, execTsetf, execCpylv, execRbinit, execRbwait,
      execRbrel, execColl, execL2lock, execL2unlk, h]
  | caphold | awaitf | testf | chorusRoundStart | announcementApply | trtailWrite =>
    simp [exec, execCaphold, execAwaitf, execTestf, execChorusRoundStart, execAnnouncementApply,
      execTrtailWrite, h]
  | mailboxBadCommand | installTerms | timeUpdate | portDeclare | engineLeaseExpiry | dispatchAging |
  reservationLapse | atsInvalidation | hostLinkDown | hostLinkRetrained | ageingMonitorRead | powerUpRecovery |
  bringUpComplete | partStatus =>
    simp [exec, execMailboxBadCommand, execInstallTerms, execTimeUpdate, execPortDeclare,
      execEngineLeaseExpiry, execDispatchAging, execReservationLapse, execAtsInvalidation, execHostLinkDown,
      execHostLinkRetrained, execAgeingMonitorRead, execPowerUpRecovery, execBringUpComplete,
      execPartStatus, h]
  | selectorSwitch => exact (State.select_memWf _).mpr h
  | brkl => exact execBrkl_memWf h ..
  | termsUnitAnswer => exact execTermsUnitAnswer_memWf h ..
  | nvStoreWriteComplete => exact execNvStoreWriteComplete_memWf h ..
  | vcvt => exact execVcvt_memWf h ..
  | viota => exact execViota_memWf h ..
  | mxepi => exact execMxepi_memWf h ..
  | mxst => exact execMxst_memWf h ..
  | mxOccupancyEnd => exact execMxOccupancyEnd_memWf h ..
  | mxstTileWriteDone => exact execMxstTileWriteDone_memWf h ..
  | tmap => exact execTmap_memWf h ..
  | probe => exact execProbe_memWf h ..
  | unprobe => exact execUnprobe_memWf h ..
  | cpycv => exact execCpycv_memWf h ..
  | cpygo => exact execCpygo_memWf h ..
  | gath => exact execGath_memWf h ..
  | sctld => exact execSctld_memWf h ..
  | fillComplete => exact execFillComplete_memWf h ..
  | fillFail => exact execFillFail_memWf h ..
  | writeBackComplete => exact execWriteBackComplete_memWf h ..
  | unmapComplete => exact execUnmapComplete_memWf h ..
  | copyComplete => exact execCopyComplete_memWf h ..
  | copyFail => exact execCopyFail_memWf h ..
  | ringSlotWriteStart => exact execRingSlotWriteStart_memWf h ..
  | dmCommandStart => exact execDmCommandStart_memWf h ..
  | accessCompletion => exact execAccessCompletion_memWf h ..
  | foreignLineWrite => exact execForeignLineWrite_memWf h ..
  | foreignLineRead => exact execForeignLineRead_memWf h ..
  | capadv => exact execCapadv_memWf h ..
  | capdrop => exact execCapdrop_memWf h ..
  | enq => exact execEnq_memWf h ..
  | enqAppend => exact execEnqAppend_memWf h ..
  | deq => exact execDeq_memWf h ..
  | incrementArrival => exact execIncrementArrival_memWf h ..
  | roundCompute => exact execRoundCompute_memWf h ..
  | exit => exact execExit_memWf h
  | ctxKill => exact execCtxKill_memWf h ..
  | contextStop => exact execContextStop_memWf h ..
  | ctxSave => exact execCtxSave_memWf h ..
  | ctxRestore => exact execCtxRestore_memWf h ..
  | trapRecordAppend => exact execTrapRecordAppend_memWf h ..
  | ctxResume => exact execCtxResume_memWf h ..
  | registerWrite => exact execRegisterWrite_memWf h ..
  | pageEviction => exact execPageEviction_memWf h ..
  | pageRequestReply => exact execPageRequestReply_memWf h ..
  | pageWalkComplete => exact execPageWalkComplete_memWf h ..
  | bindRegion => exact execBindRegion_memWf h ..
  | removeTerms => exact execRemoveTerms_memWf h ..
  | statement => exact execStatement_memWf h ..
  | portSet => exact execPortSet_memWf h ..
  | queuePush => exact execQueuePush_memWf h ..
  | frontierReset => exact execFrontierReset_memWf h ..
  | engineLease => exact execEngineLease_memWf h ..
  | attach => exact execAttach_memWf h ..
  | collDescriptorRead => exact execCollDescriptorRead_memWf h ..
  | collectiveComplete => exact execCollectiveComplete_memWf h ..
  | collectiveTimeout => exact execCollectiveTimeout_memWf h ..
  | loadImage => exact execLoadImage_memWf h ..
  | launchRecordArrival => exact execLaunchRecordArrival_memWf h ..
  | gangPlacement => exact execGangPlacement_memWf h ..
  | victimSaveTimeout => exact execVictimSaveTimeout_memWf h ..
  | hostMemoryAccess => exact execHostMemoryAccess_memWf h ..
  | linkPortDown => exact execLinkPortDown_memWf h ..
  | flitRetry => exact execFlitRetry_memWf h ..
  | powerLoss => exact execPowerLoss_memWf h
  | deviceReset => exact execDeviceReset_memWf h
  | lifeCycleChange => exact execLifeCycleChange_memWf h
  | partCreate => exact execPartCreate_memWf h ..
  | partDestroy => exact execPartDestroy_memWf h ..
  | partResize => exact execPartResize_memWf h ..
  | moultQuiesce => exact execMoultQuiesce_memWf h ..
  | quiesceTimeout => exact execQuiesceTimeout_memWf h ..
  | moultMove => exact execMoultMove_memWf h ..
  | moultRehash => exact execMoultRehash_memWf h ..
  | rehashSetMigrate => exact execRehashSetMigrate_memWf h ..
  | moultCommit => exact execMoultCommit_memWf h ..
  | strl => exact execStrl_memWf h ..
  | timeSliceExpiry => exact execTimeSliceExpiry_memWf h ..
  | trpop => exact execTrpop_memWf h ..
  | vld => exact execVld_memWf h ..
  | vst => exact execVst_memWf h ..
  | vlds => exact execVlds_memWf h ..
  | vsts => exact execVsts_memWf h ..

end Sys2Proof.Machine
end

section
/-!
PROOFS. An attempt to issue, the turn of a core and a step keep memory canonical (O59).
-/
namespace Sys2Proof.Machine

open Sys2Proof

variable {s : State}

theorem Out.next_memWf {o : Out} {t : State} (ho : o.memWf) (e : o = .next t) : t.memWf := by
  simpa [e] using ho

/-! ### Running the slots of a bundle -/

@[simp] theorem State.performed_memWf (sl) : (s.performed sl).memWf ↔ s.memWf := by simp [State.performed]
@[simp] theorem State.mendRegs_memWf (p) : (s.mendRegs p).memWf ↔ s.memWf := by simp [State.mendRegs]

theorem State.runSlot_memWf (h : s.memWf) (p) : Out.memWf (s.runSlot p) := by
  have hx := exec_memWf (s := { s with slot := p.1 }) h p.2
  unfold State.runSlot
  dsimp only
  split
  · simp [h]
  · split
    next t e => simp [Out.next_memWf hx e]
    next => exact hx

theorem State.runSlots_memWf (l) : ∀ {s : State}, s.memWf → Out.memWf (s.runSlots l) := by
  induction l with
  | nil => exact fun h => h
  | cons p l ih =>
    intro s h
    have hp := State.runSlot_memWf h p
    unfold State.runSlots
    split
    next u e => exact ih (Out.next_memWf hp e)
    next => exact hp

theorem State.runLate_memWf (l) : ∀ {s : State}, s.memWf → Out.memWf (s.runLate l) := by
  induction l with
  | nil => exact fun h => h
  | cons p l ih =>
    intro s h
    have hp := State.runSlot_memWf h p
    unfold State.runLate
    split
    next u e =>
      dsimp only
      split
      · exact h
      · exact ih (Out.next_memWf hp e)
    next => exact hp

theorem State.runAlone_memWf (h : s.memWf) (p) : Out.memWf (s.runAlone p) := by
  have hp := State.runSlot_memWf h p
  unfold State.runAlone
  split
  next t e =>
    split
    · exact h
    · exact Out.next_memWf hp e
  next => exact hp

theorem State.runEarly_memWf (l) : ∀ {s : State}, s.memWf → Out.memWf (s.runEarly l) := by
  induction l with
  | nil => exact fun h => h
  | cons p l ih =>
    intro s h
    have hp := State.runAlone_memWf h p
    unfold State.runEarly
    split
    next u e => exact ih (Out.next_memWf hp e)
    next => exact hp

/-! ### What an attempt leaves in the state -/

@[simp] theorem State.markBusy_memWf (x b) : (s.markBusy x b).memWf ↔ s.memWf := by simp [State.markBusy]

@[simp] theorem State.applyHold_memWf (c) : (s.applyHold c).memWf ↔ s.memWf := by
  unfold State.applyHold
  split
  · rfl
  · dsimp only
    rw [State.schedule_memWf, State.foldl_memWf fun _ _ => by simp, State.foldl_memWf fun _ _ => by simp]
    simp

@[simp] theorem State.addInc_memWf (c sl n t b) : (s.addInc c sl n t b).memWf ↔ s.memWf := by simp [State.addInc]
@[simp] theorem State.addAsk_memWf (c sl ub k hd) : (s.addAsk c sl ub k hd).memWf ↔ s.memWf := by
  simp [State.addAsk]
@[simp] theorem State.addPage_memWf (c vp) : (s.addPage c vp).memWf ↔ s.memWf := by simp [State.addPage]

@[simp] theorem State.setGoing_memWf (c b l) : (s.setGoing c b l).memWf ↔ s.memWf := by
  unfold State.setGoing
  split <;> simp

@[simp] theorem State.setAllGoing_memWf (c b l) : (s.setAllGoing c b l).memWf ↔ s.memWf :=
  State.foldl_memWf (fun _ _ => by simp) _ s

@[simp] theorem State.finish_memWf (c b) : (s.finish c b).memWf ↔ s.memWf := by simp [State.finish]
@[simp] theorem State.keptBack_memWf (c) : (s.keptBack c).memWf ↔ s.memWf := by simp [State.keptBack]
@[simp] theorem State.waiting_memWf (c b) : (s.waiting c b).memWf ↔ s.memWf := by simp [State.waiting]
@[simp] theorem State.acting_memWf (c) : (s.acting c).memWf ↔ s.memWf := Iff.rfl

theorem State.freeze_memWf (h : s.memWf) (c) : (s.freeze c).memWf :=
  State.takeTrap_memWf (by simpa using h) c

theorem State.refuse_memWf (h : s.memWf) (c b sl k op) : (s.refuse c b sl k op).memWf :=
  State.bundleFault_memWf (by simpa using h) ..

/-! ### An attempt to issue -/

/-- Whatever comes of an attempt, the state that it leaves, where there is one, holds canonical memory. -/
def Attempt.memWf : Attempt → Prop
  | .issued t _ | .blocked t | .stalled t | .held t => t.memWf
  | .stop o => o.memWf

@[simp] theorem Attempt.memWf_issued (t i) : Attempt.memWf (.issued t i) ↔ t.memWf := Iff.rfl
@[simp] theorem Attempt.memWf_blocked (t) : Attempt.memWf (.blocked t) ↔ t.memWf := Iff.rfl
@[simp] theorem Attempt.memWf_stalled (t) : Attempt.memWf (.stalled t) ↔ t.memWf := Iff.rfl
@[simp] theorem Attempt.memWf_held (t) : Attempt.memWf (.held t) ↔ t.memWf := Iff.rfl
@[simp] theorem Attempt.memWf_stop (o) : Attempt.memWf (.stop o) ↔ o.memWf := Iff.rfl

theorem Attempt.ite_memWf {c : Prop} [Decidable c] {a b : Attempt} (ha : a.memWf) (hb : b.memWf) :
    (if c then a else b).memWf := by
  split <;> assumption

theorem Attempt.blocked_of_memWf {r : Attempt} {t : State} (hr : r.memWf) (e : r = .blocked t) : t.memWf := by
  simpa [e] using hr

section
variable {old : State}

theorem State.endWithExit_memWf (h : s.memWf) (ho : old.memWf) (c sl) : (s.endWithExit old c sl).memWf := by
  have hx := exec_memWf (s := { s with slot := sl }) h .exit
  unfold State.endWithExit
  split
  next u e =>
    have hu := Out.next_memWf hx e
    refine Attempt.ite_memWf hu (Attempt.ite_memWf (Attempt.ite_memWf ?_ ?_) (State.freeze_memWf hu c))
    · simp [ho]
    · simp [h]
  next => exact hx

theorem State.close_memWf (h : s.memWf) (ho : old.memWf) (c l) : (s.close old c l).memWf := by
  refine Attempt.ite_memWf (State.freeze_memWf h c) ?_
  split
  · exact State.endWithExit_memWf h ho ..
  · simp [h]

theorem State.settle_memWf (h : s.memWf) (ho : old.memWf) (c l) : (s.settle old c l).memWf := by
  have hl := State.runLate_memWf (lateSlots l) h
  have hg b k : (old.setAllGoing c b k).memWf := by simp [ho]
  refine Attempt.ite_memWf (hg ..) (Attempt.ite_memWf (hg ..) ?_)
  split
  next u e =>
    have hu : (u.applyHold c).memWf := by simp [Out.next_memWf hl e]
    refine Attempt.ite_memWf (hg ..) (Attempt.ite_memWf ?_ (State.close_memWf hu ho ..))
    exact State.ite_memWf (hg ..) (by simpa using hu)
  next => exact hl

theorem State.run_memWf (h : s.memWf) (ho : old.memWf) (c hdr l) : (s.run old c hdr l).memWf := by
  refine Attempt.ite_memWf ?_ ?_
  · have he := State.runEarly_memWf
      (((if l = [] then [(Slot.ctl, emptyOf hdr)] else runOrder l) ++ lateSlots l).filter
        fun p => !(s.ctx c).barred p) h
    split
    next t e => exact State.freeze_memWf (by simp [Out.next_memWf he e]) c
    next => exact he
  · have hs := State.runSlots_memWf (if l = [] then [(Slot.ctl, emptyOf hdr)] else runOrder l) h
    split
    next t e => exact State.settle_memWf (Out.next_memWf hs e) ho ..
    next => exact hs

end

theorem State.tick_memWf (h : s.memWf) (c) : Out.memWf (s.tick c) := by
  have h1 := exec_memWf h (.fmtDelayExpiry c)
  unfold State.tick
  split
  next t e =>
    have h2 := exec_memWf (Out.next_memWf h1 e) (.sfResultWrite c)
    split
    next u e => exact exec_memWf (Out.next_memWf h2 e) _
    next => exact h2
  next => exact h1

theorem State.issueNew_memWf (h : s.memWf) (c) : (s.issueNew c).memWf := by
  have ht := State.tick_memWf (s := s.acting c) h c
  have hw b : ((s.acting c).waiting c b).memWf := by simp [h]
  unfold State.issueNew
  dsimp only
  split
  next t e =>
    have hn := Out.next_memWf ht e
    split
    · exact Attempt.ite_memWf (hw _) (Attempt.ite_memWf (hw _) (State.refuse_memWf hn ..))
    next b _ =>
      have hg l : ((t.updCtx c fun x => { x with iss := x.loadIssue b }).run ((s.acting c).waiting c b) c b.hdr
          l).memWf := State.run_memWf (by simpa using hn) (hw b) ..
      have hc (r : Attempt) (hr : r.memWf) : (match (t.ctx c).bundleCheck b with
          | some cause => Attempt.issued (t.refuse c b 15 cause none) .trapped
          | none => r).memWf := by
        split
        · exact State.refuse_memWf hn ..
        · exact hr
      refine Attempt.ite_memWf (hc _ (hg _)) (Attempt.ite_memWf (hw b) (Attempt.ite_memWf ?_ ?_))
      · split
        next u e => exact Attempt.blocked_of_memWf (hg _) e
        next => exact hc _ (hw b)
      · split
        next u e => exact Attempt.blocked_of_memWf (hg _) e
        next => exact hc _ (hg _)
  next => exact ht

theorem State.issueAgain_memWf (h : s.memWf) (c) : (s.issueAgain c).memWf := by
  have hr f hdr l : (((s.acting c).updCtx c f).run (s.acting c) c hdr l).memWf :=
    State.run_memWf (by simpa using h) (by simpa using h) ..
  refine Attempt.ite_memWf h (Attempt.ite_memWf ?_ (hr ..))
  split
  next u e => exact Attempt.blocked_of_memWf (hr ..) e
  next => exact h

theorem State.tryBundle_memWf (h : s.memWf) (c) : (s.tryBundle c).memWf :=
  have ht : (s.withText c).memWf := by simpa using h
  Attempt.ite_memWf (State.issueAgain_memWf ht c) (State.issueNew_memWf ht c)

/-! ### The turn of a core -/

theorem Out.ite_memWf {c : Prop} [Decidable c] {a b : Out} (ha : a.memWf) (hb : b.memWf) :
    (if c then a else b).memWf := by
  split <;> assumption

@[simp] theorem State.setBlocked_memWf (c b) : (s.setBlocked c b).memWf ↔ s.memWf := by simp [State.setBlocked]

theorem State.look_memWf (h : s.memWf) (c) : (s.look c).memWf := by
  have ht := State.tryBundle_memWf h c
  refine State.ite_memWf h ?_
  split
  next t e =>
    have hb := Attempt.blocked_of_memWf ht e
    simpa using hb
  next => simpa using h

theorem State.lookAll_memWf (h : s.memWf) (k) : (s.lookAll k).memWf :=
  foldl_keeps State.memWf _ _ _ h fun _ _ _ hu => State.ite_memWf hu (State.look_memWf hu _)

theorem State.chooseAnew_memWf (h : s.memWf) (k) : Out.memWf (s.chooseAnew k) :=
  exec_memWf (State.lookAll_memWf (by simpa using h) k) _

theorem State.atSafePoint_memWf (h : s.memWf) (k c) : Out.memWf (s.atSafePoint k c) := by
  have hl := State.lookAll_memWf h k
  refine Out.ite_memWf (State.chooseAnew_memWf h k) (Out.ite_memWf ?_ (exec_memWf hl _))
  exact exec_memWf (by simpa using hl) _

theorem State.afterIssue_memWf (h : s.memWf) (k c i b) : Out.memWf (s.afterIssue k c i b) :=
  Out.ite_memWf (State.chooseAnew_memWf h k)
    (Out.ite_memWf (State.atSafePoint_memWf h k c) (Out.ite_memWf (by simpa using h) h))

theorem State.pairTurn_memWf (h : s.memWf) (k c m g) : Out.memWf (s.pairTurn k c m g) := by
  have ht := State.tryBundle_memWf h c
  refine Out.ite_memWf h ?_
  split
  next t i e => exact State.afterIssue_memWf (by simpa [e] using ht) ..
  next o e => simpa [e] using ht
  next => exact h

theorem State.firstTurn_memWf (h : s.memWf) (k c) : Out.memWf (s.firstTurn k c) := by
  have ht := State.tryBundle_memWf h c
  unfold State.firstTurn
  split
  next t i e => exact State.afterIssue_memWf (by simpa [e] using ht) ..
  next t e => simpa [e] using ht
  next t e => exact State.chooseAnew_memWf (by simpa [e] using ht) k
  next t e => exact State.chooseAnew_memWf (by simpa [e] using ht) k
  next o e => simpa [e] using ht

@[simp] theorem State.throttled_memWf : s.throttled.2.memWf ↔ s.memWf := by
  unfold State.throttled
  split <;> simp

theorem State.coreTurn_memWf (h : s.memWf) (k) : Out.memWf (s.coreTurn k) := by
  have hs : (s.updCore k fun r => { r with pair := none }).memWf := by simpa using h
  unfold State.coreTurn
  dsimp only
  split
  · exact State.pairTurn_memWf hs ..
  · refine Out.ite_memWf hs (Out.ite_memWf (by simpa using hs) ?_)
    split
    · exact State.chooseAnew_memWf (by simpa using hs) k
    · exact Out.ite_memWf (State.chooseAnew_memWf (by simpa using hs) k) (State.firstTurn_memWf (by simpa using hs) ..)

/-! ### A step -/

theorem State.nextCycle_memWf (h : s.memWf) : s.nextCycle.memWf :=
  State.finishEnds_memWf <| State.collsEnd_memWf <| State.peersArrive_memWf <|
    State.errorsStrike_memWf (s := { s with cycle := s.cycle + 1 }) h

theorem State.turn_memWf (h : s.memWf) : Out.memWf s.turn := by
  unfold State.turn
  split
  next k _ _ =>
    have hk := State.coreTurn_memWf h k
    split
    next t e =>
      have ht := Out.next_memWf hk e
      exact ht
    next => exact hk
  · exact Out.ite_memWf trivial (State.nextCycle_memWf h)

theorem step_memWf (h : s.memWf) : Out.memWf (step s) := by
  unfold step
  split
  next e r _ => exact Out.ite_memWf (exec_memWf (s := { s with agenda := r }) h _) (State.turn_memWf h)
  · exact State.turn_memWf h

/-- Settles O59, by the reasoning rules above: every operation of the model that writes memory keeps it canonical, so
each instruction and event does, so an attempt to issue and the turn of a core do, and with them a step. -/
theorem everyStepKeepsMemoryCanonical : Obligations.EveryStepKeepsMemoryCanonical := by
  unfold Obligations.EveryStepKeepsMemoryCanonical
  exact fun _ _ h e => Out.next_memWf (step_memWf h) e

end Sys2Proof.Machine
end

section
/-!
PROOFS. The choice of the selector (R81, R82), and writes of device registers (R5, R210, R289), for O48.
-/
namespace Sys2Proof.Machine

open Sys2Proof

variable {s : State} {k : Nat}

/-! ### The choice of R81 -/

theorem lowest_eq_none_iff {l : List Nat} : lowest l = none ↔ l = [] := by
  cases l with
  | nil => simp [lowest]
  | cons x l =>
    unfold lowest
    split <;> simp

theorem lowest_eq_some_imp {l : List Nat} {m : Nat} (h : lowest l = some m) : m ∈ l ∧ ∀ x ∈ l, m ≤ x := by
  induction l generalizing m with
  | nil => simp [lowest] at h
  | cons a l ih =>
    unfold lowest at h
    split at h
    next y hy =>
      obtain ⟨hy, hle⟩ := ih hy
      split at h <;> obtain rfl := Option.some.inj h
      next hya =>
        exact ⟨.tail _ hy, List.forall_mem_cons.mpr ⟨Nat.le_of_lt hya, hle⟩⟩
      next hya =>
        have hay := Nat.not_lt.mp hya
        exact ⟨.head _, List.forall_mem_cons.mpr ⟨Nat.le_refl _, fun x hx => Nat.le_trans hay (hle x hx)⟩⟩
    next hn =>
      obtain rfl := lowest_eq_none_iff.mp hn
      obtain rfl := Option.some.inj h
      simp

theorem State.mem_readyOn {c : Nat} : c ∈ s.readyOn k ↔ c / 4 = k ∧ (s.ctx c).ready = true := by
  simp only [State.readyOn, List.mem_filter, List.mem_map, List.mem_range, and_congr_left_iff]
  exact fun _ => ⟨fun ⟨i, hi, e⟩ => by omega, fun e => ⟨c % 4, by omega, by omega⟩⟩

/-- The places that a context stands behind the next one round (R81). -/
def turnAfter (last d : Nat) : Nat := (d + 3 * (last + 1)) % 4

theorem turnAfter_robin (k last : Nat) {i : Nat} (hi : i < 4) : turnAfter last (4 * k + (last + 1 + i) % 4) = i := by
  unfold turnAfter
  omega

theorem robin_turnAfter {last d : Nat} (hd : d / 4 = k) : 4 * k + (last + 1 + turnAfter last d) % 4 = d := by
  unfold turnAfter
  omega

/-- A search in round-robin order finds the candidate whose turn comes first. -/
theorem find?_robin_eq_some_imp {last c : Nat} {p : Nat → Bool}
    (h : ((robin last).map fun i => 4 * k + i).find? p = some c) :
    p c = true ∧ ∀ d, d / 4 = k → p d = true → turnAfter last c ≤ turnAfter last d := by
  simp only [robin, List.map_map, List.find?_map, Option.map_eq_some_iff, List.find?_range_eq_some,
    List.mem_range, Function.comp_apply] at h
  obtain ⟨i, ⟨hp, hi, hlt⟩, rfl⟩ := h
  refine ⟨hp, fun d hd hpd => ?_⟩
  rw [turnAfter_robin k last hi]
  refine Nat.le_of_not_gt fun hlt' => ?_
  simpa [robin_turnAfter hd, hpd] using hlt _ hlt'

theorem find?_robin_isSome {last d : Nat} {p : Nat → Bool} (hd : d / 4 = k) (hp : p d = true) :
    (((robin last).map fun i => 4 * k + i).find? p).isSome := by
  refine List.find?_isSome.mpr ⟨d, ?_, hp⟩
  simp only [robin, List.map_map, List.mem_map, List.mem_range, Function.comp_apply]
  exact ⟨turnAfter last d, Nat.mod_lt _ (by decide), robin_turnAfter hd⟩

/-- A ready context that no ready context of the core precedes in priority. -/
def State.Takes (s : State) (k c : Nat) : Prop :=
  c ∈ s.readyOn k ∧ ∀ d ∈ s.readyOn k, (s.ctx c).pri.toNat ≤ (s.ctx d).pri.toNat

theorem State.choose_eq_some_imp {c : Nat} (h : s.choose k = some c) :
    s.Takes k c ∧ ∀ d ∈ s.readyOn k, (s.ctx d).pri.toNat = (s.ctx c).pri.toNat →
      turnAfter ((s.core k).lastAt (s.ctx c).pri.toNat) c ≤ turnAfter ((s.core k).lastAt (s.ctx c).pri.toNat) d := by
  unfold State.choose at h
  dsimp only at h
  split at h
  · simp at h
  next p hl =>
    obtain ⟨hc, hturn⟩ := find?_robin_eq_some_imp h
    simp only [Bool.and_eq_true, decide_eq_true_eq] at hc hturn
    obtain ⟨hready, rfl⟩ := hc
    obtain ⟨-, hle⟩ := lowest_eq_some_imp hl
    refine ⟨⟨hready, fun d hd => hle _ (List.mem_map_of_mem hd)⟩, fun d hd hpri => ?_⟩
    exact hturn d (State.mem_readyOn.mp hd).1 ⟨hd, hpri⟩

theorem State.choose_eq_none_iff : s.choose k = none ↔ s.readyOn k = [] := by
  unfold State.choose
  dsimp only
  split
  next hl => simpa using lowest_eq_none_iff.mp hl
  next p hl =>
    obtain ⟨d, hd, hp⟩ := List.mem_map.mp (lowest_eq_some_imp hl).1
    refine iff_of_false (Option.isSome_iff_ne_none.mp ?_) (List.ne_nil_of_mem hd)
    exact find?_robin_isSome (State.mem_readyOn.mp hd).1 (by simp [hd, hp])

/-! ### The switch and the time slice -/

/-- A core as it is once context `c` has been chosen. -/
def State.chosen (s : State) (k c : Nat) : Core :=
  { s.core k with
    running := some c
    last := Store.set 3 (s.core k).last (s.ctx c).pri.toNat (c % 4)
    waitTo := s.cycle + 2
    selAt := s.cycle + 2 }

theorem State.select_of_running (h : (s.core k).running ≠ none) : s.select k = s :=
  if_pos (Option.isSome_iff_ne_none.mpr h)

theorem State.select_of_none (h : s.readyOn k = []) : s.select k = s := by
  unfold State.select
  rw [State.choose_eq_none_iff.mpr h, ite_self]

theorem State.select_of_choose {c : Nat} (hr : (s.core k).running = none) (hc : s.choose k = some c) :
    s.select k = s.updCore k fun _ => s.chosen k c := by
  simp [State.select, hr, hc, State.updCore, State.chosen]

theorem State.select_of_ready (hr : (s.core k).running = none) (h : s.readyOn k ≠ []) :
    ∃ c, s.choose k = some c ∧ s.onlyCore (s.select k) k (s.chosen k c) := by
  obtain ⟨c, hc⟩ := Option.ne_none_iff_exists'.mp (mt State.choose_eq_none_iff.mp h)
  exact ⟨c, hc, by simpa only [State.select_of_choose hr hc] using s.onlyCore_updCore k _⟩

/-- The whole time slice of context `c` has passed, at a safe point, and a ready context of its priority or a higher
one waits (R82). -/
def State.SliceOut (s : State) (k c : Nat) : Prop :=
  (s.ctx c).afterSafe = true ∧ (s.core k).selAt + 8192 ≤ s.cycle ∧
    ∃ d ∈ s.readyOn k, d ≠ c ∧ (s.ctx d).pri.toNat ≤ (s.ctx c).pri.toNat

theorem State.timeSliceExpiry_of_not {c : Nat} (hr : (s.core k).running = some c) (h : ¬ s.SliceOut k c) :
    ChangesNothing s (.timeSliceExpiry k) := by
  have hs : execTimeSliceExpiry k s = .next s := by
    unfold execTimeSliceExpiry
    simp only [hr]
    rw [if_neg]
    simpa [State.SliceOut, sliceCycles] using h
  exact hs

/-- The running context has given way, and counts as the one selected last of its priority. -/
def State.gaveWay (s : State) (k c : Nat) : State :=
  (s.updCore k fun r => { r with last := Store.set 3 r.last (s.ctx c).pri.toNat (c % 4) }).unselect k

theorem State.timeSliceExpiry_of_sliceOut {c : Nat} (hr : (s.core k).running = some c) (h : s.SliceOut k c) :
    exec (.timeSliceExpiry k) s = .next ((s.gaveWay k c).select k) := by
  have hs : execTimeSliceExpiry k s = .next ((s.gaveWay k c).select k) := by
    unfold execTimeSliceExpiry
    simp only [hr]
    rw [if_pos]
    · rfl
    · simpa [State.SliceOut, sliceCycles] using h
  exact hs

/-- After a whole slice another context is chosen: the one that gives way comes last in turn of its priority. -/
theorem State.choose_gaveWay_ne {c e : Nat} (h : s.SliceOut k c) (he : (s.gaveWay k c).choose k = some e) :
    e ≠ c := by
  rintro rfl
  obtain ⟨-, -, d, hd, hne, hpri⟩ := h
  obtain ⟨⟨hready, hle⟩, hturn⟩ := State.choose_eq_some_imp he
  have hlast : ((s.gaveWay k e).core k).lastAt (s.ctx e).pri.toNat = e % 4 := by
    simp [State.gaveWay, State.unselect, Core.lastAt]
  have hd4 := (State.mem_readyOn.mp hd).1
  have he4 := (State.mem_readyOn.mp hready).1
  have hlt := hturn d hd (Nat.le_antisymm hpri (hle d hd))
  have hturn' := hlast ▸ hlt
  unfold turnAfter at hturn'
  omega

/-! ### Device registers -/

/-- What a write of a register of a Gecko comes to, where the Gecko takes it. -/
def State.geckoTakes (s : State) (cl : Nat) (v : DWord) : GeckoReg → State
  | .trbase => s.updCluster cl fun k => { k with trbase := v &&& 0xffffffffffffc000 }
  | .trhead => s
  | .trtail => s.setTail cl (v.setWidth 32)
  | .ctxsave => s.updCluster cl fun k => { k with ctxsave := v &&& 0xfffffffffffff000 }
  | .ctxcmd => s.writeCtxCmd cl v

theorem exec_registerWrite_gecko (s : State) (cl : Nat) (r : GeckoReg) (v : DWord) :
    exec (.registerWrite (.gecko cl r) v) s = .next (s.geckoWrite cl (s.geckoTakes cl v r)) := by
  cases r <;> rfl

theorem State.geckoWrite_of_transit {cl : Nat} (h : (s.cluster cl).cond = .transit) (f : State) :
    s.geckoWrite cl f = s.logDevRefused (cl * 2 ^ 16) 0 := if_pos h

theorem State.geckoWrite_of_not_transit {cl : Nat} (h : (s.cluster cl).cond ≠ .transit) (f : State) :
    s.geckoWrite cl f = f := if_neg h

theorem State.writeCtxCmd_of_busy {cl : Nat} (h : (s.cluster cl).busy = true) (v : DWord) :
    s.writeCtxCmd cl v = s := if_pos h

theorem State.writeCtxCmd_of_kill {cl : Nat} {v : DWord} (h : (s.cluster cl).busy = false)
    (hv : v.toNat / 2 ^ 24 % 16 = 2) :
    s.writeCtxCmd cl v = s.schedule 0 (.ctxKill (cl * 32 + v.toNat / 2 ^ 16 % 32)) := by
  have hop : (v.extractLsb' 24 4).toNat = 2 := by
    rw [BitVec.extractLsb'_toNat, Nat.shiftRight_eq_div_pow]
    exact hv
  have hctx : (v.extractLsb' 16 5).toNat = v.toNat / 2 ^ 16 % 32 := by
    rw [BitVec.extractLsb'_toNat, Nat.shiftRight_eq_div_pow]
  unfold State.writeCtxCmd
  simp only [hop, hctx, h, Bool.false_eq_true, if_false]

/-- A whole write of a mailbox register leaves the mailbox `m` and nothing else changed. -/
theorem State.setMail_sets (s : State) (fn : Nat) (m : Mailbox) :
    (s.setMail fn m).mail fn = m ∧
      { s.setMail fn m with host := { (s.setMail fn m).host with mail := s.host.mail } } = s :=
  ⟨s.setMail_mail_self fn m, rfl⟩

theorem exec_mbdoor_of_not (fn : Nat) (v : DWord) (h : v.getLsbD 0 = false ∨ (s.mail fn).door = true) :
    ChangesNothing s (.registerWrite (.mail fn .mbdoor) v) := by
  refine congrArg Host.Outcome.next (if_neg fun ⟨hv, hd⟩ => ?_)
  rw [hv, hd] at h
  simp at h

theorem exec_mbdoor_rings (fn : Nat) {v : DWord} (hv : v.getLsbD 0 = true) (hd : (s.mail fn).door = false) :
    exec (.registerWrite (.mail fn .mbdoor) v) s = .next (s.ringDoor fn) :=
  congrArg Host.Outcome.next (if_pos ⟨hv, hd⟩)

theorem State.ringDoor_mail (s : State) (fn : Nat) : (s.ringDoor fn).mail fn = { s.mail fn with door := true } :=
  s.setMail_mail_self fn _

theorem State.mailCommand_mem_ringDoor (s : State) (fn : Nat) :
    (s.cycle + s.nextDelay, s.mailCommand fn) ∈ (s.ringDoor fn).agenda :=
  (mem_insertEv ..).mpr (.inl rfl)

/-! ### The statement -/

/-- Settles O48, by the search in round-robin order: it finds the ready context of the highest priority whose turn comes
first, and the context that gives way after its slice is the last in turn. A register write is unfolded once. -/
theorem theSelectorGoesByPriorityAndTurn : Obligations.TheSelectorGoesByPriorityAndTurn := by
  unfold Obligations.TheSelectorGoesByPriorityAndTurn
  refine ⟨fun s k => ?selector, fun s cl fn v => ?registers⟩
  case selector =>
    refine ⟨fun c => State.mem_readyOn, fun hr => congrArg _ (State.select_of_running hr),
      fun hn => congrArg _ (State.select_of_none hn), fun hr hn => ?_, fun c hc => ⟨?_, fun hs => ?_⟩⟩
    · obtain ⟨c, hc, honly⟩ := State.select_of_ready hr hn
      obtain ⟨htakes, hturn⟩ := State.choose_eq_some_imp hc
      exact ⟨_, c, rfl, htakes, hturn, honly⟩
    · exact State.timeSliceExpiry_of_not hc
    · obtain ⟨-, -, d, hd, -⟩ := id hs
      obtain ⟨e, he, hcore, -, hrest⟩ := State.select_of_ready (s := s.gaveWay k c) (k := k)
        (by simp [State.gaveWay, State.unselect]) (List.ne_nil_of_mem hd)
      refine ⟨_, e, State.timeSliceExpiry_of_sliceOut hc hs, by rw [hcore]; rfl, (State.choose_eq_some_imp he).1,
        State.choose_gaveWay_ne hs he, by rw [hcore]; rfl, ?_⟩
      have hctxs := congrArg State.ctxs hrest
      exact hctxs
  case registers =>
    refine ⟨fun ht r _ => ?_, fun ht => ?_, ⟨_, rfl, s.setMail_sets ..⟩, ⟨_, rfl, s.setMail_sets ..⟩,
      ⟨_, rfl, s.setMail_sets ..⟩, rfl, exec_mbdoor_of_not fn v, fun hv hd => ?_⟩
    · rw [exec_registerWrite_gecko, State.geckoWrite_of_transit ht]
    · have hw r : exec (.registerWrite (.gecko cl r) v) s = .next (s.geckoTakes cl v r) := by
        rw [exec_registerWrite_gecko, State.geckoWrite_of_not_transit ht]
      refine ⟨⟨_, hw _, s.updCluster_cluster_self .., rfl⟩, ⟨_, hw _, s.updCluster_cluster_self .., rfl⟩,
        hw _, fun hb => (hw _).trans ?_, fun hb hv => (hw _).trans ?_⟩
      · exact congrArg _ (State.writeCtxCmd_of_busy hb v)
      · exact congrArg _ (State.writeCtxCmd_of_kill hb hv)
    · exact ⟨_, _, exec_mbdoor_rings fn hv hd, s.ringDoor_mail fn, by omega, s.mailCommand_mem_ringDoor fn⟩

end Sys2Proof.Machine
end

section
/-!
PROOFS. The starts of DM commands (R48, R160, R166, R169), for O38.
-/
namespace Sys2Proof.Machine

open Sys2Proof

variable {s u : State} {k id : Nat} {q : Cmd}

/-! ### Events that are set going -/

/-- `u` has the agenda of `s` and these events besides, which come together, none before now. -/
def State.SetsGoing (s u : State) (ends : List Instr) : Prop :=
  ∃ w, s.cycle ≤ w ∧ ∀ e, e ∈ u.agenda ↔ e ∈ s.agenda ∨ ∃ i ∈ ends, e = (w, i)

theorem State.SetsGoing.one {w : Nat} {i : Instr} (hw : s.cycle ≤ w) (h : u.agenda = insertEv w i s.agenda) :
    s.SetsGoing u [i] := by
  refine ⟨w, hw, fun e => ?_⟩
  simp only [h, mem_insertEv, List.mem_singleton, exists_eq_left]
  exact or_comm

theorem State.SetsGoing.two {w : Nat} {i j : Instr} (hw : s.cycle ≤ w)
    (h : u.agenda = insertEv w j (insertEv w i s.agenda)) : s.SetsGoing u [i, j] := by
  refine ⟨w, hw, fun e => ?_⟩
  simp only [h, mem_insertEv, List.mem_cons, List.not_mem_nil, or_false, exists_eq_or_imp, exists_eq_left]
  rw [← or_assoc, or_comm, or_comm (a := e = (w, j))]

theorem State.setsGoing_schedule (s : State) (d : Nat) (i : Instr) : s.SetsGoing (s.schedule d i) [i] :=
  .one (Nat.le_add_right ..) rfl

theorem State.setsGoing_after (s : State) (d : Nat) (i : Instr) : s.SetsGoing (s.after d i) [i] :=
  .one (Nat.le_add_right_of_le (Nat.le_add_right ..)) rfl

theorem State.setsGoing_copyEnds (s : State) (k id : Nat) :
    s.SetsGoing (s.copyEnds k id) [.copyComplete k id, .copyFail k id] :=
  .two (Nat.le_add_right ..) rfl

theorem State.setsGoing_beginFill (s : State) (k id o th : Nat) (t : Tile) :
    s.SetsGoing (s.beginFill k id o th t) [.fillComplete k id, .fillFail k id] :=
  .two (Nat.le_add_right ..) rfl

theorem State.setsGoing_beginFlush (s : State) (k id o th : Nat) (t : Tile) (i : Instr) :
    s.SetsGoing (s.beginFlush k id o th t i) [i] := by
  refine .one (w := s.cycle + 0 + s.nextDelay) (by omega) ?_
  unfold State.beginFlush
  split <;> rfl

/-! ### Commands in their journal -/

theorem State.id_of_cmd (h : s.cmd k id = some q) : q.id = id := by
  simpa using List.find?_some h

/-- The journal of core `k` with `f` applied to command `id`. -/
def State.journalWith (s : State) (k id : Nat) (f : Cmd → Cmd) : List Cmd :=
  (s.core k).journal.map fun r => if r.id = id then f r else r

theorem State.onlyCore_updCmd (s : State) (k id : Nat) (f : Cmd → Cmd) :
    s.onlyCore (s.updCmd k id f) k { s.core k with journal := s.journalWith k id f } :=
  s.onlyCore_updCore k _

/-- A command that ends leaves its journal, and nothing else changes (R166). -/
theorem State.endCmd_spec (s : State) (k id : Nat) :
    cmdGone (s.endCmd k id) k id ∧
      s.onlyCore (s.endCmd k id) k { s.core k with journal := ((s.endCmd k id).core k).journal } := by
  have honly := s.onlyCore_updCore k fun c => { c with journal := c.journal.filter fun q => decide (q.id ≠ id) }
  have hcore : (s.endCmd k id).core k = _ := honly.1
  refine ⟨fun r hr => ?_, ?_⟩
  · rw [hcore] at hr
    simpa using (List.mem_filter.mp hr).2
  · rw [hcore]
    exact honly

theorem State.beginFill_core (s : State) (k id o th : Nat) (t : Tile) :
    ((s.beginFill k id o th t).core k).journal = s.journalWith k id fun r => { r with started := true } :=
  congrArg Core.journal ((s.setTile o th _).onlyCore_updCmd k id _).1

theorem State.beginFill_tile (s : State) (k id o th : Nat) (t : Tile) :
    (s.beginFill k id o th t).tile o th = some { t with st := .filling, busy := [.fill] } :=
  (s.setTile_tile o th _ o th).trans (if_pos ⟨rfl, rfl⟩)

theorem State.beginFlush_core (s : State) (k id o th : Nat) (t : Tile) (i : Instr) :
    ((s.beginFlush k id o th t i).core k).journal = s.journalWith k id fun r => { r with started := true } := by
  refine Eq.trans ?_ (congrArg Core.journal (s.onlyCore_updCmd k id _).1)
  unfold State.beginFlush
  split <;> rfl

theorem State.beginFlush_tile {o th : Nat} {t : Tile} (h : s.tile o th = some t) (i : Instr) :
    (s.beginFlush k id o th t i).tile o th = some (if t.st = .dirty then { t with busy := [.wb] } else t) := by
  unfold State.beginFlush
  split
  · exact (State.setTile_tile _ o th _ o th).trans (if_pos ⟨rfl, rfl⟩)
  · exact h

/-! ### When a command starts (R48, R166) -/

theorem exec_dmCommandStart_of_started (hq : s.cmd k id = some q) (he : q.entry ≠ 65) (hs : q.started = true) :
    exec (.dmCommandStart k id) s = .next s := by
  show execDmCommandStart k id s = _
  unfold execDmCommandStart
  simp [hq, he, hs]

theorem exec_dmCommandStart_of_waits (hq : s.cmd k id = some q) (hf : q.failed = none) (he : q.entry ≠ 65)
    (hs : q.started = false) (hw : q.waits.any s.cmdOpen = true ∨ s.bundleOpen q = true) :
    exec (.dmCommandStart k id) s = .next (s.schedule 1 (.dmCommandStart k id)) := by
  show execDmCommandStart k id s = _
  unfold execDmCommandStart
  simp only [hq, if_neg he]
  rw [if_neg (by simp [hs, hf]), if_pos hw]

/-- Command `q` can start: it has its entry in the journal, and nothing that it waits for is open. -/
structure State.Startable (s : State) (k id : Nat) (q : Cmd) : Prop where
  cmd : s.cmd k id = some q
  failed : q.failed = none
  entry : q.entry ≠ 65
  started : q.started = false
  waits : ¬ (q.waits.any s.cmdOpen = true ∨ s.bundleOpen q = true)

/-- What a command of each kind does as it starts. -/
def State.startOf (s : State) (k : Nat) (q : Cmd) : State :=
  match q.kind with
  | .fill o th =>
    match s.tile o th with
    | none => s.endCmd k q.id
    | some t => s.startFillCmd k q o th t
  | .wb o th => s.startFlush k q o th (.writeBackComplete k q.id)
  | .unmap o key => s.startFlush k q o key (.unmapComplete k q.id)
  | .copy _ _ | .gath _ _ _ _ => s.startCopy k q
  | .enq _ _ _ =>
    (s.updCmd k q.id fun x => { x with started := true, after := (s.ctx q.ctx).outst.map Access.id }).after 0
      (.enqAppend k q.id)
  | .coll _ => (s.updCmd k q.id fun x => { x with started := true }).after 0 (.collDescriptorRead k q.id)

theorem State.Startable.exec_eq (h : s.Startable k id q) :
    exec (.dmCommandStart k id) s = .next (s.startOf k q) := by
  obtain ⟨hq, hf, he, hs, hw⟩ := h
  obtain rfl := State.id_of_cmd hq
  show execDmCommandStart k q.id s = _
  unfold execDmCommandStart
  simp only [hq, if_neg he]
  rw [if_neg (by simp [hs, hf]), if_neg hw]
  rfl

/-! ### How commands start, by kind -/

/-- The journal of core `k` becomes `j`, and `ends` are to come. -/
def State.Goes (s u : State) (k : Nat) (ends : List Instr) (j : List Cmd) : Prop :=
  s.SetsGoing u ends ∧ s.onlyCore { u with agenda := s.agenda, delays := s.delays } k { s.core k with journal := j }

theorem State.goes_copyEnds (s : State) (k id : Nat) (f : Cmd → Cmd) :
    s.Goes ((s.updCmd k id f).copyEnds k id) k [.copyComplete k id, .copyFail k id] (s.journalWith k id f) :=
  ⟨(s.updCmd k id f).setsGoing_copyEnds k id, s.onlyCore_updCmd k id f⟩

theorem State.goes_schedule (s : State) (k id d : Nat) (i : Instr) (f : Cmd → Cmd) :
    s.Goes ((s.updCmd k id f).schedule d i) k [i] (s.journalWith k id f) :=
  ⟨(s.updCmd k id f).setsGoing_schedule d i, s.onlyCore_updCmd k id f⟩

theorem State.goes_after (s : State) (k id d : Nat) (i : Instr) (f : Cmd → Cmd) :
    s.Goes ((s.updCmd k id f).after d i) k [i] (s.journalWith k id f) :=
  ⟨(s.updCmd k id f).setsGoing_after d i, s.onlyCore_updCmd k id f⟩

/-- A copy to memory that moves nothing is done at once; another starts, and either of its ends is to come (R169). -/
theorem State.startCopy_toMemory {e : Prop} [Decidable e] (hm : q.kind.toMemory.isSome = true)
    (he : q.kind.movesNothing = true ↔ e) (hx : exec (.dmCommandStart k q.id) s = .next (s.startCopy k q)) :
    if e then ∃ u, exec (.dmCommandStart k q.id) s = .next u ∧ cmdGone u k q.id ∧
        s.onlyCore u k { s.core k with journal := (u.core k).journal }
    else ∃ u, exec (.dmCommandStart k q.id) s = .next u ∧ s.Goes u k [.copyComplete k q.id, .copyFail k q.id]
      (s.journalWith k q.id fun r =>
        { r with started := true, tok := if r.kind.movesNothing then 31 else r.tok }) := by
  unfold State.startCopy at hx
  rw [if_pos hm] at hx
  split
  next h => exact ⟨_, by rw [hx, if_pos (he.mpr h)], s.endCmd_spec k q.id⟩
  next h => exact ⟨_, by rw [hx, if_neg (mt he.mp h)], s.goes_copyEnds k q.id _⟩

/-- A copy to a ring starts, and the write of its tile is to come (R161). -/
theorem State.startCopy_toRing (hm : q.kind.toMemory.isSome = false) :
    s.Goes (s.startCopy k q) k [.ringSlotWriteStart k q.id] (s.journalWith k q.id fun r =>
      { r with started := true, tok := if r.kind.movesNothing then 31 else r.tok }) := by
  unfold State.startCopy
  rw [if_neg (by simp [hm])]
  exact s.goes_schedule k q.id 0 _ _

theorem State.startFillCmd_begins {o th : Nat} {t : Tile} (ht : t.st = .empty ∨ t.st = .faulted)
    (hscr : t.scr = false) (hbusy : t.busy = []) : s.startFillCmd k q o th t = s.beginFill k q.id o th t := by
  unfold State.startFillCmd
  rcases ht with ht | ht <;> simp [ht, hbusy, hscr]

theorem State.startFlush_waits {o th : Nat} {t : Tile} {done : Instr} (h : s.tile o th = some t)
    (hw : t.busy ≠ [] ∨ t.st = .filling) :
    s.startFlush k q o th done = s.schedule 1 (.dmCommandStart k q.id) := by
  unfold State.startFlush
  rw [h]
  exact if_pos hw

theorem State.startFlush_begins {o th : Nat} {t : Tile} {done : Instr} (h : s.tile o th = some t)
    (hbusy : t.busy = []) (hst : t.st ≠ .filling) :
    s.startFlush k q o th done = s.beginFlush k q.id o th t done := by
  unfold State.startFlush
  rw [h]
  exact if_neg (by simp [hbusy, hst])

/-! ### The write of a ring slot (R161) -/

theorem exec_ringSlotWriteStart {th : Nat} {t : Tile} (hq : s.cmd k id = some q) (hf : q.failed = none)
    (hs : q.started = true) (hr : q.kind.ringTile = some th) (ht : s.tile q.ctx th = some t) :
    exec (.ringSlotWriteStart k id) s = .next (if t.st = .empty ∧ t.busy = [] then
      (s.setTile q.ctx th (some { t with busy := [.copy] })).copyEnds k id
      else s.schedule 1 (.ringSlotWriteStart k id)) := by
  show execRingSlotWriteStart k id s = _
  unfold execRingSlotWriteStart
  simp only [hq, hr, ht]
  rw [if_neg (by simp [hs, hf])]

theorem State.ringSlotWrite_spec (s : State) (k id c th : Nat) (v : Option Tile) :
    ((s.setTile c th v).copyEnds k id).tile c th = v ∧ ((s.setTile c th v).copyEnds k id).cores = s.cores ∧
      s.SetsGoing ((s.setTile c th v).copyEnds k id) [.copyComplete k id, .copyFail k id] :=
  ⟨(s.setTile_tile c th v c th).trans (if_pos ⟨rfl, rfl⟩), rfl, (s.setTile c th v).setsGoing_copyEnds k id⟩

/-! ### The statement -/

/-- Settles O38, by the kinds of command: what each sets going as it starts, and what its journal becomes. -/
theorem commandsStartWhenTheirTokensHaveSignalled : Obligations.CommandsStartWhenTheirTokensHaveSignalled := by
  unfold Obligations.CommandsStartWhenTheirTokensHaveSignalled
  intro s k id q hq hf he
  obtain rfl := State.id_of_cmd hq
  refine ⟨exec_dmCommandStart_of_started hq he, exec_dmCommandStart_of_waits hq hf he, fun hs hw => ?start, ?ring⟩
  case ring =>
    intro th t hr ht hs
    have hx := exec_ringSlotWriteStart hq hf hs hr ht
    exact ⟨fun hst hbusy => ⟨_, hx.trans (congrArg _ (if_pos ⟨hst, hbusy⟩)), s.ringSlotWrite_spec k q.id q.ctx th _⟩,
      fun hn => hx.trans (congrArg _ (if_neg hn))⟩
  case start =>
    have hstart := State.Startable.exec_eq ⟨hq, hf, he, hs, hw⟩
    unfold State.startOf at hstart
    refine ⟨fun g hk => ?_, fun g l n hk => ?_, fun g r hk => ?_, fun g l n r hk => ?_, fun p a t hk => ?_,
      fun d hk => ?_, fun o th t ht => ⟨fun hk hst hscr hbusy => ?_, fun hk hn => ?_, fun i hi hbusy hst => ?_⟩⟩
    · exact State.startCopy_toMemory (by rw [hk]; rfl) (by rw [hk]; rfl) (hstart.trans (by rw [hk]))
    · exact State.startCopy_toMemory (by rw [hk]; rfl) (by simp [hk, CmdKind.movesNothing])
        (hstart.trans (by rw [hk]))
    · exact ⟨_, hstart.trans (by rw [hk]), State.startCopy_toRing (by rw [hk]; rfl)⟩
    · exact ⟨_, hstart.trans (by rw [hk]), State.startCopy_toRing (by rw [hk]; rfl)⟩
    · exact ⟨_, hstart.trans (by rw [hk]), s.goes_after k q.id 0 _ _⟩
    · exact ⟨_, hstart.trans (by rw [hk]), s.goes_after k q.id 0 _ _⟩
    · refine ⟨s.beginFill k q.id o th t, ?_, s.beginFill_tile k q.id o th t, s.beginFill_core k q.id o th t,
        s.setsGoing_beginFill k q.id o th t⟩
      rw [hstart, hk]
      simp only [ht, State.startFillCmd_begins hst hscr hbusy]
    · rcases hk with hk | hk <;>
      · simp only [hk, State.startFlush_waits ht hn] at hstart
        exact hstart
    · refine ⟨s.beginFlush k q.id o th t i, ?_, s.beginFlush_core k q.id o th t i,
        s.setsGoing_beginFlush k q.id o th t i, State.beginFlush_tile ht i⟩
      rcases hi with ⟨hk, rfl⟩ | ⟨hk, rfl⟩ <;>
      · simp only [hk, State.startFlush_begins ht hbusy hst] at hstart
        exact hstart

end Sys2Proof.Machine
end

section
/-!
PROOFS. Results that land, accesses that complete (R40, R128, R151), and lines that another agent writes or reads
(R56, R160, R301), for O40.
-/
namespace Sys2Proof.Machine

open Sys2Proof

variable {s : State} {c id : Nat}

/-! ### Fences and drains (R40, R106) -/

/-- What fences still wait for once they wait for outstanding accesses alone. -/
theorem Ctx.mem_dropHolds_fences (x : Ctx) (h : FenceHold) :
    h ∈ x.dropHolds.fences ↔ h.ids ≠ [] ∧
      ∃ f ∈ x.fences, h = { f with ids := f.ids.filter fun i => x.outst.any fun a => decide (a.id = i) } := by
  simp only [Ctx.dropHolds, List.mem_filter, List.mem_map, decide_eq_true_eq, and_comm (a := ∃ f, _)]
  simp only [eq_comm (b := h)]

/-- What drains still wait for, likewise. -/
theorem Ctx.mem_dropHolds_drain (x : Ctx) (h : DrainHold) :
    h ∈ x.dropHolds.drain ↔ h.ids ≠ [] ∧
      ∃ f ∈ x.drain, h = { f with ids := f.ids.filter fun i => x.outst.any fun a => decide (a.id = i) } := by
  simp only [Ctx.dropHolds, List.mem_filter, List.mem_map, decide_eq_true_eq, and_comm (a := ∃ f, _)]
  simp only [eq_comm (b := h)]

/-- Access `i` is outstanding still once access `id` has gone. -/
theorem any_id_filter_ne (l : List Access) (id i : Nat) :
    ((l.filter fun q => decide (q.id ≠ id)).any fun b => decide (b.id = i)) =
      (decide (i ≠ id) && l.any fun b => decide (b.id = i)) := by
  rw [Bool.eq_iff_iff]
  simp only [Bool.and_eq_true, List.any_eq_true, List.mem_filter, decide_eq_true_eq]
  constructor
  · rintro ⟨b, ⟨hb, hne⟩, rfl⟩
    exact ⟨hne, b, hb, rfl⟩
  · rintro ⟨hne, b, hb, rfl⟩
    exact ⟨b, ⟨hb, hne⟩, rfl⟩

/-- A context of which access `id` has passed its next completion point. -/
def Ctx.passed (x : Ctx) (id : Nat) : Ctx :=
  { x with outst := x.outst.map fun q => if q.id = id then { q with stage := q.stage + 1 } else q }

/-- A context of which access `id` has completed. -/
def Ctx.completed (x : Ctx) (id : Nat) : Ctx :=
  { x with outst := x.outst.filter fun q => decide (q.id ≠ id) }.dropHolds

/-! ### Completions of accesses (R40) -/

theorem exec_accessCompletion_of_none (h : ∀ b ∈ (s.ctx c).outst, b.id ≠ id) :
    ChangesNothing s (.accessCompletion c id) := by
  have hn : (s.ctx c).outst.find? (fun a => decide (a.id = id)) = none := by simpa using h
  show execAccessCompletion c id s = _
  unfold execAccessCompletion
  rw [hn]

theorem exec_accessCompletion_of_some {b : Access}
    (h : (s.ctx c).outst.find? (fun b => decide (b.id = id)) = some b) :
    exec (.accessCompletion c id) s = .next (if b.remote = true ∧ b.stage < 2 then
      (s.updCtx c fun x => x.passed id).after 0 (.accessCompletion c id)
      else s.updCtx c fun x => x.completed id) := by
  show execAccessCompletion c id s = _
  unfold execAccessCompletion
  rw [h]
  rfl

/-! ### Lines of other agents (R56, R160, R301) -/

variable {who p a : Nat} {data : BitVec 1024}

theorem State.foreignRefused_iff {w : Bool} :
    s.foreignRefused p a w = true ↔ p < 16 ∧ s.refuses p a w = true := by
  simp [State.foreignRefused]

theorem exec_foreignLineWrite_of_outside (h : a % 128 ≠ 0 ∨ 16 < p) :
    ChangesNothing s (.foreignLineWrite ⟨who, p⟩ a data) :=
  congrArg Host.Outcome.next (if_pos h)

theorem exec_foreignLineWrite (ha : a % 128 = 0) (hp : p ≤ 16) :
    exec (.foreignLineWrite ⟨who, p⟩ a data) s = .next (
      if s.foreignRefused p a true = true then s.logAgent who a
      else if s.lineBusy (keyOf p a / 128) none true = true then s.schedule 1 (.foreignLineWrite ⟨who, p⟩ a data)
      else s.wrLine (keyOf p a) (leBytes 128 data.toNat)) :=
  congrArg Host.Outcome.next (if_neg fun h => h.elim (absurd ha) (Nat.not_lt.mpr hp))

theorem exec_foreignLineRead_of_outside (h : 16 < p) : ChangesNothing s (.foreignLineRead ⟨who, p⟩ a) :=
  congrArg Host.Outcome.next (if_pos h)

theorem exec_foreignLineRead (hp : p ≤ 16) :
    exec (.foreignLineRead ⟨who, p⟩ a) s = .next (
      if s.foreignRefused p a false = true then s.logAgent who a
      else if s.lineBusy (keyOf p a / 128) none false = true then s.schedule 1 (.foreignLineRead ⟨who, p⟩ a)
      else s) :=
  congrArg Host.Outcome.next (if_neg (Nat.not_lt.mpr hp))

/-- A write within one line is one store. -/
theorem State.storedAt_wrLine (s : State) (k : Nat) (l : List Byte) : s.storedAt (s.wrLine k l) k l := by
  obtain ⟨honly, htiles, hbytes, hread⟩ := s.wrLine_spec k l
  exact ⟨hread, honly, htiles, hbytes⟩

/-! ### The statement -/

/-- Settles O40, by the outcomes of a completion point and of another agent's access in turn. That a fence waits for
an access that has completed no longer is what the filter of its numbers says. -/
theorem resultsLandAndForeignLinesAreWritten : Obligations.ResultsLandAndForeignLinesAreWritten := by
  unfold Obligations.ResultsLandAndForeignLinesAreWritten
  intro s c id who p a data
  refine ⟨⟨_, rfl, s.onlyCtx_updCtx c _⟩, exec_accessCompletion_of_none,
    fun b hb => ⟨fun hr hst => ?passes, fun hn => ?completes⟩, exec_foreignLineWrite_of_outside,
    exec_foreignLineRead_of_outside, fun ha hp => ?write, fun hp => ?read⟩
  case passes =>
    refine ⟨_, s.cycle + 0 + s.nextDelay, (exec_accessCompletion_of_some hb).trans (congrArg _ (if_pos ⟨hr, hst⟩)),
      s.onlyCtx_updCtx c fun x => x.passed id, by omega, fun e => ?_⟩
    exact (mem_insertEv ..).trans or_comm
  case completes =>
    have hctx : (s.updCtx c fun x => x.completed id).ctx c = (s.ctx c).completed id := s.updCtx_ctx_self c _
    refine ⟨_, (exec_accessCompletion_of_some hb).trans (congrArg _ (if_neg hn)), ?_, fun h => ?_, fun h => ?_⟩
    · rw [hctx]
      exact s.onlyCtx_updCtx c fun x => x.completed id
    · rw [hctx, Ctx.completed, Ctx.mem_dropHolds_fences]
      simp only [any_id_filter_ne]
    · rw [hctx, Ctx.completed, Ctx.mem_dropHolds_drain]
      simp only [any_id_filter_ne]
  case write =>
    have hx := exec_foreignLineWrite (s := s) (who := who) (data := data) ha hp
    simp only [State.foreignRefused_iff] at hx
    refine ⟨fun hr => hx.trans (congrArg _ (if_pos hr)), fun hr hb => ?_, fun hr hb => ⟨_, ?_, s.storedAt_wrLine ..⟩⟩
    · exact hx.trans (congrArg _ ((if_neg hr).trans (if_pos hb)))
    · exact hx.trans (congrArg _ ((if_neg hr).trans (if_neg hb)))
  case read =>
    have hx := exec_foreignLineRead (s := s) (who := who) (a := a) hp
    simp only [State.foreignRefused_iff] at hx
    refine ⟨fun hr => hx.trans (congrArg _ (if_pos hr)), fun hr hb => ?_, fun hr hb => ?_⟩
    · exact hx.trans (congrArg _ ((if_neg hr).trans (if_pos hb)))
    · exact hx.trans (congrArg _ ((if_neg hr).trans (if_neg hb)))

end Sys2Proof.Machine
end

section
/-!
PROOFS. An append to a queue whose storage is no storage of R259: a record of the partition's log overwrites the line,
for O42.
-/
namespace Sys2Proof.Machine

open Sys2Proof

variable {s : State}

/-! ### Bytes of memory -/

theorem State.getElem?_rdMem (s : State) {k n i : Nat} (h : i < n) : (s.rdMem k n)[i]? = some (s.byte (k + i)) := by
  induction n generalizing k i with
  | zero => omega
  | succ n ih =>
    cases i with
    | zero => rfl
    | succ i =>
      rw [State.rdMem, List.getElem?_cons_succ, ih (by omega), Nat.add_assoc, Nat.add_comm 1]

/-- Bytes do not depend on what a partition keeps beside its slices and its resize. -/
theorem State.byte_updPart (s : State) (p : Nat) (f : Part → Part)
    (h : ∀ a, (f (s.part p)).home a = (s.part p).home a) (k : Nat) : (s.updPart p f).byte k = s.byte k := by
  have hhome : ∀ q a, ((s.updPart p f).part q).home a = (s.part q).home a := fun q a => by
    by_cases hq : q = p
    · subst hq
      rw [State.updPart_part_self, h]
    · rw [State.updPart_part_ne _ _ _ _ hq]
  have hcurrent : (s.updPart p f).current (k / 128) = s.current (k / 128) := by
    refine State.current_congr _ ?_ rfl
    simp only [State.genOf, hhome]
    rfl
  unfold State.byte
  rw [hcurrent]
  rfl

/-! ### The record of a refused access (R301, R304) -/

/-- A record of a partition's log stands in its place of the redacted ring. -/
theorem State.byte_putLog (s : State) (p seq kind cause count addr req detail : Nat) {i : Nat} (hi : i < 64) :
    (s.putLog p seq kind cause count addr req detail).byte
        (keyOf p ((s.part p).ownedFrom + 64 * (seq % 256)) + i) =
      (logRecord seq kind cause count addr s.tclockWord.toNat req detail true).getD i 0 := by
  have hseq := Nat.mod_lt seq (show 256 > 0 by decide)
  unfold State.putLog
  rw [State.byte_wrMem, if_neg (by simp only [keyOf]; omega), State.byte_wrMem, if_pos, Nat.add_sub_cancel_left]
  rw [logRecord_length]
  omega

/-- A refusal with which no earlier one merges has a record of its own. -/
theorem State.byte_logRefused {p : Nat} (hlive : (s.part p).live = true) (hnew : (s.part p).refusals = [])
    (who addr k : Nat) :
    (s.logRefused p who addr).byte k = (s.putLog p (s.part p).logSeq 4 0 1 addr who 0).byte k := by
  unfold State.logRefused
  simp only [hlive, if_true, hnew, List.find?_nil]
  rw [State.byte_updPart _ _ _ fun _ => rfl]
  unfold State.addLog
  rw [if_pos hlive, State.byte_updPart _ _ _ fun _ => rfl]

/-! ### A DIRTY tile that shares a line it may not write (R119, R160) -/

/-- A DIRTY tile whose one recorded line is line `l` of memory. -/
def dirtyAt (l : Nat) : Tile :=
  { gva := 0, rstride := 0, ty := 0, unit := 0, bankY := false, scr := false, sealed := false, bv := false, ub := 0,
    st := .dirty, busy := [], data := [], pend := [], poison := [], ro := [], phys := [(0, l + 1)], bad := 0 }

/-- A recall of the line logs the refusal of its write. -/
theorem State.byte_recall_dirtyAt (s : State) {l c th p a : Nat} (hs : s.sharers l = [(c, th, 0)])
    (ht : s.tile c th = some (dirtyAt l)) (hl : linePlace l = (p, a)) (hp : p < hostSpace)
    (hr : s.refuses p a true = true) (k : Nat) :
    (s.recall l none).byte k = (s.logRefused p (reqOfCtx (s.ctx c).part c) a).byte k := by
  have hhome : s.writeBack (reqOfCtx (s.ctx c).part c) (dirtyAt l) =
      s.logRefused p (reqOfCtx (s.ctx c).part c) a := by
    show s.writeBackLine _ (dirtyAt l) 0 l = _
    unfold State.writeBackLine
    rw [hl]
    exact if_pos ⟨hp, hr⟩
  have hrecall : s.recall l none = s.recallTile c th := by
    unfold State.recall
    rw [hs]
    rfl
  rw [hrecall, ← hhome]
  unfold State.recallTile
  rw [ht]
  rfl

theorem State.refuses_wrMem (s : State) (k : Nat) (l : List Byte) (p a : Nat) (w : Bool) :
    (s.wrMem k l).refuses p a w = s.refuses p a w := rfl

theorem State.sharers_wrMem (s : State) (k : Nat) (l : List Byte) (line : Nat) :
    (s.wrMem k l).sharers line = s.sharers line := rfl

theorem State.tile_wrMem (s : State) (k : Nat) (l : List Byte) (c th : Nat) :
    (s.wrMem k l).tile c th = s.tile c th := rfl

/-! ### Appending (R259, R260) -/

/-- An ENQ whose queue has room and for which nothing has to wait appends its line and its time. -/
theorem exec_enqAppend_of_room {k id : Nat} {q : Cmd} {port : BitVec 6} {src : DWord} {t : LTime}
    (h : underWay s k id q (.enq port src t))
    (hgone : s.queueGone q.part ((s.part q.part).port port) ((s.part q.part).port port).tail = false)
    (hfail : s.runFail q.part src 128 false = none)
    (hroom : ¬ (((s.part q.part).port port).cap ≤ ((s.part q.part).port port).count ∨ s.enqBefore q port = true ∨
      (s.ctx q.ctx).openOf q.after 2 = true ∨ s.runBusy q.part src 128 false = true ∨
      s.queueBusy q.part ((s.part q.part).port port) ((s.part q.part).port port).tail true = true)) :
    exec (.enqAppend k id) s = .next (((s.logRun q.part (reqOfCtx q.part q.ctx) src 128 false).append q.part
      (reqOfCtx q.part q.ctx) port (s.bulkRead q.part src 128) t).endCmd k id) := by
  obtain ⟨hq, hs, hf, hk⟩ := h
  show execEnqAppend k id s = _
  unfold execEnqAppend
  simp only [hq, hk]
  rw [if_neg (by simp [hs, hf])]
  simp only [hgone, hfail, Bool.false_eq_true, if_false]
  rw [if_neg hroom]

theorem State.sealedBy_wrLine (s : State) (k : Nat) (l : List Byte) (p a : Nat) :
    (s.wrLine k l).sealedBy p a = s.sealedBy p a := by
  obtain ⟨⟨-, -, hrest⟩, -⟩ := s.wrLine_spec k l
  have hterms : (s.wrLine k l).terms = s.terms := by
    have := congrArg State.terms hrest
    exact this
  unfold State.sealedBy
  rw [hterms]

theorem State.queueWrite_of_unsealed {p a : Nat} (h : s.sealedBy p a = none) (who : Nat) (l : List Byte) :
    s.queueWrite p who a l = s.wrLine (keyOf p a) l :=
  if_neg (by simp [h])

/-- An append writes the line and then the time, where no region seals their places (R228, R259). -/
theorem State.byte_append {p a b : Nat} {port : BitVec 6}
    (hplaces : ((s.part p).port port).places ((s.part p).port port).tail = [a, b])
    (ha : s.sealedBy p a = none) (hb : s.sealedBy p b = none) (who : Nat) (line : List Byte) (t : LTime) (k : Nat) :
    (s.append p who port line t).byte k =
      ((s.wrLine (keyOf p a) line).wrLine (keyOf p b) (leBytes 16 t.toNat)).byte k := by
  obtain ⟨rfl, rfl⟩ : _ = a ∧ _ = b := by simpa [Port.places] using hplaces
  unfold State.append
  rw [State.byte_updPart _ _ _ fun _ => rfl, State.queueWrite_of_unsealed ha,
    State.queueWrite_of_unsealed (by rw [State.sealedBy_wrLine]; exact hb)]

/-! ### The counterexample -/

/-- An ENQ of the line at 0x8000 to port 0, under way. -/
def enqUnderLog : Cmd :=
  { id := 1, entry := 0, ctx := 0, part := 0, kind := .enq 0 0x8000 .zero, tok := 31, waits := [], after := [],
    started := true, failed := none, killed := false }

/-- A partition of 128 KiB whose port 0 is a queue of two lines with its storage at 0x10000, where the device keeps the
partition's logs. A DIRTY tile shares line 0x202, which holds the time of entry 0. No PORT_SET makes such a queue
(`Part.storageOk`, R259), and nothing in O42 keeps it out. -/
def queueUnderLog : State :=
  { State.reset with
    ctxs := [(0, { Ctx.free with portN := 1, ports := [(0, 0)], tiles := [(0, some (dirtyAt 0x202))] })]
    cores := [(0, { Core.reset with journal := [enqUnderLog] })]
    parts := [(0, { Part.reset with live := true, M := 0x20000, ports := [(0, ⟨true, 0x10000, 2, 0, []⟩)] })] }

theorem queueUnderLog_underWay : underWay queueUnderLog 0 1 enqUnderLog (.enq 0 0x8000 .zero) := by
  refine ⟨?_, ?_, ?_, ?_⟩ <;> decide +kernel

/-- Once the line is written, the write of its time recalls the DIRTY tile, whose line the checks refuse. The record of
that refusal is the first of the partition's log, and its sequence number stands on bytes 64 to 71 of the line. -/
theorem queueUnderLog_byte (line : List Byte) (time : List Byte) :
    ((queueUnderLog.wrLine (keyOf 0 0x10000) line).wrLine (keyOf 0 0x10100) time).byte 0x10040 = 1 := by
  have hfirst : queueUnderLog.wrLine (keyOf 0 0x10000) line = queueUnderLog.wrMem (keyOf 0 0x10000) line := by
    have hshared : queueUnderLog.recall (keyOf 0 0x10000 / 128) none = queueUnderLog := by decide +kernel
    rw [State.wrLine, hshared]
  have hrecall := (queueUnderLog.wrMem (keyOf 0 0x10000) line).byte_recall_dirtyAt (l := 0x202) (c := 0) (th := 0)
    (p := 0) (a := 0x10100) (by rw [State.sharers_wrMem]; decide +kernel) (by rw [State.tile_wrMem]; decide +kernel)
    (by decide +kernel) (by decide) (by rw [State.refuses_wrMem]; decide +kernel)
  have hpart := queueUnderLog.wrMem_part (keyOf 0 0x10000) line 0
  generalize queueUnderLog.wrMem (keyOf 0 0x10000) line = t at hfirst hrecall hpart
  have howned : (t.part 0).ownedFrom = 0x10000 := by rw [hpart]; decide +kernel
  have hseq : (t.part 0).logSeq = 1 := by rw [hpart]; decide +kernel
  have hrecord := fun who => t.byte_putLog 0 1 4 0 1 0x10100 who 0 (i := 0) (by decide)
  rw [hfirst, State.wrLine, State.byte_wrMem, if_neg (fun h => absurd h.1 (by decide))]
  show (t.recall 0x202 none).byte 0x10040 = 1
  rw [hrecall, State.byte_logRefused (by rw [hpart]; decide +kernel) (by rw [hpart]; decide +kernel), hseq]
  rw [howned] at hrecord
  exact hrecord _

/-- What the append leaves in memory where the line should stand. -/
theorem queueUnderLog_append : ∃ u, exec (.enqAppend 0 1) queueUnderLog = .next u ∧ u.byte 0x10040 = 1 := by
  refine ⟨_, exec_enqAppend_of_room queueUnderLog_underWay (by decide +kernel) (by decide +kernel)
    (by decide +kernel), ?_⟩
  have hlogged : queueUnderLog.logRun enqUnderLog.part (reqOfCtx enqUnderLog.part enqUnderLog.ctx) 0x8000 128 false =
      queueUnderLog := by decide +kernel
  rw [hlogged, State.endCmd, State.updCore_byte, State.byte_append (a := 0x10000) (b := 0x10100) (by decide +kernel)
    (by decide +kernel) (by decide +kernel)]
  exact queueUnderLog_byte _ _

/-! ### The statement -/

/-- Refutes O42, in its last clause: an ENQ appends its line to a queue whose storage stands in the device-owned top of
its partition. The write of the line's time recalls a DIRTY tile, memory refuses that tile's line, and the record of the
refusal overwrites the line just appended. -/
theorem not_queuesCarryLinesWithTheirTimes : ¬ Obligations.QueuesCarryLinesWithTheirTimes := by
  unfold Obligations.QueuesCarryLinesWithTheirTimes
  intro h
  have hready : portReady queueUnderLog 0 0 := ⟨by decide +kernel, by decide +kernel⟩
  obtain ⟨-, -, -, -, -, happend⟩ := h queueUnderLog 0 0 0 0 0 0 hready
  obtain ⟨-, hline⟩ := happend 0 1 enqUnderLog 0x8000 .zero queueUnderLog_underWay (by decide +kernel)
    (by decide +kernel) (by decide +kernel) (by decide +kernel)
  obtain ⟨u, hu, -, -, hread, -⟩ := hline (by decide +kernel)
  obtain ⟨v, hv, hbyte⟩ := queueUnderLog_append
  obtain rfl : u = v := Host.Outcome.next.inj (hu.symm.trans hv)
  have hentry : (u.rdMem (keyOf 0 0x10000) 128)[64]? = some 1 :=
    (u.getElem?_rdMem (by decide)).trans (congrArg some hbyte)
  have hsource : (queueUnderLog.bulkRead 0 0x8000 128)[64]? = some 0 := by decide +kernel
  rw [show u.rdMem (keyOf 0 0x10000) 128 = queueUnderLog.bulkRead 0 0x8000 128 from hread, hsource] at hentry
  exact absurd hentry (by decide)

end Sys2Proof.Machine
end

section
/-!
PROOFS. Branches, jumps, calls and returns (R96 to R98), for O9.
-/
namespace Sys2Proof.Machine

open Sys2Proof

variable {s : State} {i : Instr} {t : DWord}

/-! ### Targets and links -/

/-- R96: a target stands four times the signed offset from the bundle's own address. -/
theorem branchTarget_eq {n : Nat} (h : DWord) (off : BitVec n) :
    branchTarget h off = h + BitVec.ofInt 64 (4 * off.toInt) := by
  have hshift : off.signExtend 64 <<< 2 = BitVec.ofInt 64 (4 * off.toInt) := by
    rw [BitVec.shiftLeft_eq_mul_twoPow, BitVec.mul_comm, BitVec.ofInt_mul]
    rfl
  rw [branchTarget, hshift]

theorem goesTo_of_exec (h : exec i s = .next (s.goto t)) : GoesTo s i t := ⟨_, h, s.onlyMe_updIss _⟩

/-- A result that is there at once is no pending one (R128). -/
theorem State.setS_one (s : State) {d : BitVec 6} (h : d ≠ 0) (v : DWord) :
    s.setS d v 1 = s.updMe fun c => { c with s := Store.set 0 c.s d.toNat v } := by
  rw [State.setS, if_neg h]
  simp only [Ctx.wrS_of_ne _ d v h]
  rfl

/-- R98: the link is written, and control goes to `t`. -/
theorem makes_call (h : exec i s = .next ((s.setS 62 s.link 1).goto t)) :
    Makes s i { s.me with s := Store.set 0 s.me.s 62 s.link, iss := { s.me.iss with target := some t } } := by
  refine ⟨_, h, ?_⟩
  rw [s.setS_one (by decide)]
  refine ⟨?_, fun d hd => ?_, rfl⟩
  · rw [State.goto, State.updIss_me, State.updMe_me]
    rfl
  · rw [State.goto, State.updIss, State.updMe_ctx_ne _ _ d (by exact hd), State.updMe_ctx_ne _ _ d hd]

/-! ### Conditions of BRC, on a signed value -/

theorem BrCond.holds_eqz (x : DWord) : BrCond.holds .eqz x = decide (x.toInt = 0) :=
  decide_eq_decide.mpr BitVec.toInt_inj.symm

theorem BrCond.holds_nez (x : DWord) : BrCond.holds .nez x = decide (x.toInt ≠ 0) :=
  decide_eq_decide.mpr (not_congr BitVec.toInt_inj.symm)

theorem BrCond.holds_ltz (x : DWord) : BrCond.holds .ltz x = decide (x.toInt < 0) := rfl

theorem BrCond.holds_gez (x : DWord) : BrCond.holds .gez x = decide (0 ≤ x.toInt) := by
  rw [decide_eq_decide.mpr Int.not_lt.symm, decide_not]
  rfl

theorem BrCond.holds_gtz (x : DWord) : BrCond.holds .gtz x = decide (0 < x.toInt) := rfl

theorem BrCond.holds_lez (x : DWord) : BrCond.holds .lez x = decide (x.toInt ≤ 0) := by
  rw [decide_eq_decide.mpr Int.not_lt.symm, decide_not]
  rfl

/-! ### Modes of BRP, over all 128 bits -/

theorem PWord.eq_zero_iff (p : PWord) : p = 0 ↔ ∀ n : Fin 128, p.getLsbD n = false := by
  refine ⟨fun h n => by simp [h], fun h => BitVec.eq_of_getLsbD_eq fun n hn => ?_⟩
  simpa using h ⟨n, hn⟩

theorem PWord.eq_allOnes_iff (p : PWord) : p = BitVec.allOnes 128 ↔ ∀ n : Fin 128, p.getLsbD n = true := by
  refine ⟨fun h n => ?_, fun h => BitVec.eq_of_getLsbD_eq fun n hn => ?_⟩
  · rw [h, BitVec.getLsbD_allOnes, decide_eq_true n.isLt]
  · rw [BitVec.getLsbD_allOnes, decide_eq_true hn]
    exact h ⟨n, hn⟩

theorem PredMode.holds_any (p : PWord) : PredMode.holds .any p = decide (∃ n : Fin 128, p.getLsbD n = true) := by
  refine decide_eq_decide.mpr ((not_congr (PWord.eq_zero_iff p)).trans ?_)
  simp

theorem PredMode.holds_all (p : PWord) : PredMode.holds .all p = decide (∀ n : Fin 128, p.getLsbD n = true) :=
  decide_eq_decide.mpr (PWord.eq_allOnes_iff p)

theorem PredMode.holds_none (p : PWord) : PredMode.holds .none p = decide (∀ n : Fin 128, p.getLsbD n = false) :=
  decide_eq_decide.mpr (PWord.eq_zero_iff p)

/-! ### Conditional branches -/

theorem goesTo_brc {cc : BrCond} {a : BitVec 6} {off : BitVec 17} (h : BrCond.holds cc (s.opS a) = true) :
    GoesTo s (.brc cc a off) (branchTarget s.iss.addr off) :=
  goesTo_of_exec (congrArg Host.Outcome.next (if_pos h))

theorem changesNothing_brc {cc : BrCond} {a : BitVec 6} {off : BitVec 17} (h : BrCond.holds cc (s.opS a) = false) :
    ChangesNothing s (.brc cc a off) :=
  congrArg Host.Outcome.next (if_neg (by simp [h]))

theorem goesTo_brp {m : PredMode} {p : BitVec 4} {off : BitVec 20} (h : PredMode.holds m (s.opP p) = true) :
    GoesTo s (.brp m p off) (branchTarget s.iss.addr off) :=
  goesTo_of_exec (congrArg Host.Outcome.next (if_pos h))

theorem changesNothing_brp {m : PredMode} {p : BitVec 4} {off : BitVec 20} (h : PredMode.holds m (s.opP p) = false) :
    ChangesNothing s (.brp m p off) :=
  congrArg Host.Outcome.next (if_neg (by simp [h]))

/-! ### The statement -/

/-- Settles O9: each condition and mode is what the statement says of the signed value and of the bits. -/
theorem branchesChooseTheNextBundle : Obligations.BranchesChooseTheNextBundle := by
  unfold Obligations.BranchesChooseTheNextBundle
  intro s o26 o17 o20 a p cc m here next x bits c q linked
  have hc : BrCond.holds cc (s.opS a) = c := by
    cases cc with
    | eqz => exact BrCond.holds_eqz _
    | nez => exact BrCond.holds_nez _
    | ltz => exact BrCond.holds_ltz _
    | gez => exact BrCond.holds_gez _
    | gtz => exact BrCond.holds_gtz _
    | lez => exact BrCond.holds_lez _
  have hq : PredMode.holds m (s.opP p) = q := by
    cases m with
    | any => exact PredMode.holds_any _
    | all => exact PredMode.holds_all _
    | none => exact PredMode.holds_none _
  simp only [here, ← branchTarget_eq]
  exact ⟨goesTo_of_exec rfl, fun h => goesTo_brc (hc.trans h), fun h => changesNothing_brc (hc.trans h),
    fun h => goesTo_brp (hq.trans h), fun h => changesNothing_brp (hq.trans h), goesTo_of_exec rfl, goesTo_of_exec rfl,
    makes_call rfl, makes_call rfl⟩

end Sys2Proof.Machine
end

section
/-!
PROOFS. WAITK and WAITKS (R104, R168), for O12.
-/
namespace Sys2Proof.Machine

open Sys2Proof

variable {s : State} {i : Instr} {ks : List Nat}

/-! ### Commands of a token -/

theorem State.tokenRuns_iff (s : State) (c k : Nat) :
    s.tokenRuns c k = true ↔ s.producers c k ≠ [] ∧ ∀ q ∈ s.producers c k, q.failed = none := by
  simp [State.tokenRuns]

theorem worstFailure_eq_none (l : List Cmd) : worstFailure l = none ↔ ∀ q ∈ l, q.failed = none := by
  induction l with
  | nil => simp [worstFailure]
  | cons q l ih =>
    cases hq : q.failed with
    | none => simp [worstFailure, hq, ih]
    | some e =>
      obtain ⟨f, a⟩ := e
      simp only [worstFailure, hq, List.forall_mem_cons, reduceCtorEq, false_and, iff_false]
      split
      · split <;> simp
      · simp

/-- The failure that is reported: one of the failed commands, none of which comes before it (R168). -/
theorem worstFailure_eq_some {l : List Cmd} {q : Cmd} {f : FailKind} {a : DWord}
    (h : worstFailure l = some (q, f, a)) : q ∈ l ∧ q.failed = some (f, a) ∧
      ∀ r ∈ l, ∀ g y, r.failed = some (g, y) → f.rank ≤ g.rank := by
  induction l generalizing q f a with
  | nil => cases h
  | cons p l ih =>
    cases hp : p.failed with
    | none =>
      simp only [worstFailure, hp] at h
      obtain ⟨hmem, hfail, hleast⟩ := ih h
      exact ⟨.tail _ hmem, hfail, List.forall_mem_cons.mpr ⟨by simp [hp], hleast⟩⟩
    | some e =>
      have hown : ∀ n, n ≤ e.1.rank → ∀ g y, p.failed = some (g, y) → n ≤ g.rank := by
        intro n hn g y hg
        cases hp.symm.trans hg
        exact hn
      simp only [worstFailure, hp] at h
      cases hw : worstFailure l with
      | none =>
        have hnone := (worstFailure_eq_none l).mp hw
        rw [hw] at h
        cases h
        exact ⟨.head _, hp, List.forall_mem_cons.mpr ⟨hown _ (Nat.le_refl _), fun r hr => by simp [hnone r hr]⟩⟩
      | some w =>
        obtain ⟨hmem, hfail, hleast⟩ := ih hw
        simp only [hw] at h
        split at h
        next hlt =>
          cases h
          exact ⟨.tail _ hmem, hfail, List.forall_mem_cons.mpr ⟨hown _ (Nat.le_of_lt hlt), hleast⟩⟩
        next hge =>
          cases h
          exact ⟨.head _, hp, List.forall_mem_cons.mpr ⟨hown _ (Nat.le_refl _), fun r hr g y hg =>
            Nat.le_trans (Nat.le_of_not_lt hge) (hleast r hr g y hg)⟩⟩

/-! ### Marks of failed links -/

/-- The bits of the tokens that a wait names. -/
def tokenMask (ks : List Nat) : BitVec 31 := ks.foldl (fun m k => m ||| (1 : BitVec 31) <<< k) 0

theorem getLsbD_foldl_token (m : BitVec 31) {k : Nat} (hk : k < 31) :
    (ks.foldl (fun m k => m ||| (1 : BitVec 31) <<< k) m).getLsbD k = (m.getLsbD k || decide (k ∈ ks)) := by
  induction ks generalizing m with
  | nil => simp
  | cons j ks ih =>
    have hone : ((1 : BitVec 31) <<< j).getLsbD k = decide (k = j) := by
      show ((1#31) <<< j).getLsbD k = decide (k = j)
      rw [← BitVec.twoPow_eq, BitVec.getLsbD_twoPow, Bool.eq_iff_iff]
      simp only [Bool.and_eq_true, decide_eq_true_eq]
      omega
    simp only [List.foldl_cons, ih, BitVec.getLsbD_or, hone, List.mem_cons, Bool.decide_or, Bool.or_assoc]

theorem getLsbD_tokenMask (ks : List Nat) {k : Nat} (hk : k < 31) : (tokenMask ks).getLsbD k = decide (k ∈ ks) := by
  rw [tokenMask, getLsbD_foldl_token 0 hk]
  simp

/-- The marks of failed links under the tokens of a list. -/
theorem getLsbD_and_tokenMask (x : BitVec 31) (ks : List Nat) (k : Nat) :
    (x &&& tokenMask ks).getLsbD k = (decide (k ∈ ks) && x.getLsbD k) := by
  rw [BitVec.getLsbD_and]
  by_cases hk : k < 31
  · rw [getLsbD_tokenMask ks hk, Bool.and_comm]
  · simp [BitVec.getLsbD_of_ge x k (by omega)]

theorem and_tokenMask_eq_zero (x : BitVec 31) (ks : List Nat) :
    x &&& tokenMask ks = 0 ↔ ∀ k ∈ ks, x.getLsbD k = false := by
  constructor
  · intro h k hk
    have hbit := getLsbD_and_tokenMask x ks k
    rw [h] at hbit
    simpa [hk] using hbit.symm
  · refine fun h => BitVec.eq_of_getLsbD_eq fun k _ => ?_
    rw [getLsbD_and_tokenMask]
    by_cases hk : k ∈ ks
    · simp [h k hk]
    · simp [hk]

/-! ### A wait on a set of tokens -/

/-- A command of one of the tokens runs, none of which has failed. -/
def State.someTokenRuns (s : State) (ks : List Nat) : Prop :=
  ∃ k ∈ ks, s.producers s.cur k ≠ [] ∧ ∀ q ∈ s.producers s.cur k, q.failed = none

/-- The commands of a set of tokens. -/
def State.cmdsOf (s : State) (ks : List Nat) : List Cmd := ks.flatMap fun k => s.producers s.cur k

theorem State.any_tokenRuns : (ks.any fun k => s.tokenRuns s.cur k) = true ↔ s.someTokenRuns ks := by
  simp only [List.any_eq_true, State.tokenRuns_iff, State.someTokenRuns]

theorem State.waitTokens_of_runs (h : s.someTokenRuns ks) : s.waitTokens ks = s.blocks :=
  if_pos (State.any_tokenRuns.mpr h)

theorem State.waitTokens_of_failed (hr : ¬ s.someTokenRuns ks) (hf : ∃ q ∈ s.cmdsOf ks, q.failed ≠ none) :
    ∃ q f x, worstFailure (s.cmdsOf ks) = some (q, f, x) ∧ s.waitTokens ks =
      s.raise (FailKind.cause f) (some x) (some (BitVec.ofNat 64 (q.entry % 64 + 64))) := by
  obtain ⟨q, hq, hne⟩ := hf
  have hsome : worstFailure (s.cmdsOf ks) ≠ none := fun h => hne ((worstFailure_eq_none _).mp h q hq)
  obtain ⟨⟨q, f, x⟩, hw⟩ := Option.ne_none_iff_exists'.mp hsome
  have hraise : s.raiseFailed (ks.flatMap fun k => s.producers s.cur k) =
      some (s.raise (FailKind.cause f) (some x) (some (BitVec.ofNat 64 (q.entry % 64 + 64)))) :=
    congrArg (Option.map _) hw
  refine ⟨q, f, x, hw, ?_⟩
  rw [State.waitTokens, if_neg (fun h => hr (State.any_tokenRuns.mp h)), hraise]

theorem State.waitTokens_of_not_failed (hr : ¬ s.someTokenRuns ks) (hf : ¬ ∃ q ∈ s.cmdsOf ks, q.failed ≠ none) :
    s.waitTokens ks = if s.me.linkFail &&& tokenMask ks = 0 then s else
      (s.raise .linkFailed (some ((s.me.linkFail &&& tokenMask ks).setWidth 64)) none).updMe fun c =>
        { c with linkFail := c.linkFail &&& ~~~ tokenMask ks } := by
  have hnone : worstFailure (s.cmdsOf ks) = none := (worstFailure_eq_none _).mpr (by simpa using hf)
  have hraise : s.raiseFailed (ks.flatMap fun k => s.producers s.cur k) = none := congrArg (Option.map _) hnone
  rw [State.waitTokens, if_neg (fun h => hr (State.any_tokenRuns.mp h)), hraise]
  rfl

/-! ### Instructions that wait -/

theorem blocks_of_runs (hi : exec i s = .next (s.waitTokens ks)) (h : s.someTokenRuns ks) : Blocks s i :=
  ⟨_, hi.trans (congrArg _ (State.waitTokens_of_runs h)), s.onlyMe_updIss _⟩

theorem faults_of_failed (hi : exec i s = .next (s.waitTokens ks)) (hr : ¬ s.someTokenRuns ks)
    (hf : ∃ q ∈ s.cmdsOf ks, q.failed ≠ none) : ∃ q f x, q ∈ s.cmdsOf ks ∧ q.failed = some (f, x) ∧
      (∀ r ∈ s.cmdsOf ks, ∀ g y, r.failed = some (g, y) → f.rank ≤ g.rank) ∧
      Faults s i (FailKind.cause f) (some x) (some (BitVec.ofNat 64 (q.entry % 64 + 64))) := by
  obtain ⟨q, f, x, hw, hwait⟩ := State.waitTokens_of_failed hr hf
  obtain ⟨hmem, hfail, hleast⟩ := worstFailure_eq_some hw
  exact ⟨q, f, x, hmem, hfail, hleast, _, hi.trans (congrArg _ hwait), s.onlyMe_raise ..⟩

theorem changesNothing_of_no_mark (hi : exec i s = .next (s.waitTokens ks)) (hr : ¬ s.someTokenRuns ks)
    (hf : ¬ ∃ q ∈ s.cmdsOf ks, q.failed ≠ none) (hl : ∀ k ∈ ks, s.me.linkFail.getLsbD k = false) :
    ChangesNothing s i := by
  rw [ChangesNothing, hi, State.waitTokens_of_not_failed hr hf, if_pos ((and_tokenMask_eq_zero _ _).mpr hl)]

/-- A failed link is reported with the marks under the named tokens, which are cleared. -/
theorem exec_of_mark (hi : exec i s = .next (s.waitTokens ks)) (hr : ¬ s.someTokenRuns ks)
    (hf : ¬ ∃ q ∈ s.cmdsOf ks, q.failed ≠ none) (hl : ∃ k ∈ ks, s.me.linkFail.getLsbD k = true) :
    ∃ t op, exec i s = .next t ∧
      t.iss.faults = s.iss.faults ++ [⟨s.slot.index, .linkFailed, some op, none, 0⟩] ∧
      (∀ k, k < 31 → t.me.linkFail.getLsbD k = (decide (k ∉ ks) && s.me.linkFail.getLsbD k)) ∧
      (∀ k, k < 64 → op.getLsbD k = (decide (k ∈ ks) && s.me.linkFail.getLsbD k)) := by
  have hbad : ¬ s.me.linkFail &&& tokenMask ks = 0 := by
    obtain ⟨k, hk, hset⟩ := hl
    rw [and_tokenMask_eq_zero]
    exact fun h => absurd hset (by simp [h k hk])
  have hwait := State.waitTokens_of_not_failed hr hf
  rw [if_neg hbad] at hwait
  refine ⟨_, (s.me.linkFail &&& tokenMask ks).setWidth 64, hi.trans (congrArg _ hwait), ?_, fun k hk => ?_,
    fun k hk => ?_⟩
  · rw [State.iss, State.updMe_me]
    exact congrArg Issue.faults (s.updIss_iss _)
  · rw [State.updMe_me, State.raise, State.raiseT, State.updIss_me]
    show (s.me.linkFail &&& ~~~ tokenMask ks).getLsbD k = _
    rw [BitVec.getLsbD_and, BitVec.getLsbD_not, getLsbD_tokenMask ks hk, decide_eq_true hk, Bool.true_and,
      Bool.and_comm, decide_not]
  · rw [BitVec.getLsbD_setWidth, getLsbD_and_tokenMask, decide_eq_true hk, Bool.true_and]

/-! ### The statement -/

/-- Settles O12: both instructions are one wait on a set of tokens, whose four outcomes are the lemmas above. -/
theorem tokenWaitsBlockReportOrPass : Obligations.TokenWaitsBlockReportOrPass := by
  unfold Obligations.TokenWaitsBlockReportOrPass
  intro s ka kb kc kd a waits
  have hwaits : ∀ i ks, exec i s = .next (s.waitTokens ks) → waits i ks := fun i ks hi =>
    ⟨blocks_of_runs hi, faults_of_failed hi, changesNothing_of_no_mark hi, exec_of_mark hi⟩
  exact ⟨hwaits _ _ rfl, hwaits _ _ rfl⟩

end Sys2Proof.Machine
end

section
/-!
PROOFS. CTL words of major opcode 0 (R95), and words written out from the spec, for O57.
-/
namespace Sys2Proof

/-- A CTL word of major opcode 0 is the NOP if every other bit is 0, and else no instruction (R95). -/
theorem decodeCtl_of_major_zero {w : Word} (h : w.toNat < 2 ^ 26) :
    decodeCtl w = if w = 0 then some .nopCtl else none := by
  have hmajor : (fld w 26 6).toNat = 0 := by
    rw [BitVec.extractLsb'_toNat, Nat.shiftRight_eq_div_pow]
    omega
  have hrest : fld w 0 26 = 0 ↔ w = 0 := by
    simp only [← BitVec.toNat_inj, BitVec.extractLsb'_toNat, Nat.shiftRight_zero, Nat.mod_eq_of_lt h]
    rfl
  simp only [decodeCtl, hmajor, zeros, hrest]

/-- The header of a bundle with its CTL slot alone lends no bit. -/
theorem headerOk_ctl_alone (w : Word) : headerOk 1 [(.ctl, w)] = true := by
  have hspix : hdrSpix 1 = 0 := rfl
  have hlent : ∀ sl, hdrLent 1 sl = 0 := fun sl => by cases sl <;> rfl
  simp only [headerOk, hspix, hlent]
  simp [Slot.all]

/-- R28: a bundle whose one CTL word is no instruction is refused for slot 0. -/
theorem decodeBundle_of_ctl_none (a : DWord) {w : Word} (h : decodeCtl w = none) :
    decodeBundle a 1 [w] = .error (.opcode (some .ctl)) := by
  have hpair : pairWords (hdrSlots 1) [w] = [(.ctl, w)] := rfl
  have hwords : decodeWords 1 [(.ctl, w)] = .error .ctl := by
    rw [decodeWords, decodeWord, h]
  simp only [decodeBundle, hpair, headerOk_ctl_alone, hwords, Bool.true_eq_false, if_false]

/-- Settles O57: the general words by the rule of major opcode 0, the fixed ones by decoding each. -/
theorem theSpecsWordsDecode : Obligations.TheSpecsWordsDecode := by
  unfold Obligations.TheSpecsWordsDecode
  refine ⟨fun a w lent hw => ⟨decodeCtl_of_major_zero hw, fun hne => ?_⟩, by decide +kernel⟩
  have hnone : decodeCtl w = none := (decodeCtl_of_major_zero hw).trans (if_neg hne)
  exact ⟨_, decodeBundle_of_ctl_none a hnone, rfl⟩

end Sys2Proof
end

section
/-!
PROOFS. Resets, life-cycle changes, losses of power and power-ups (R235, R309, R313), for O55.
-/
namespace Sys2Proof.Machine

open Sys2Proof

variable {s : State} {h : Nat} {x : Handle}

/-! ### Handles -/

/-- A map of the values that keeps the value of unlisted keys. -/
theorem Store.get_map {α : Type} {d : α} {f : α → α} (hf : f d = d) (m : Store α) (k : Nat) :
    Store.get d (m.map fun e => (e.1, f e.2)) k = f (Store.get d m k) := by
  induction m with
  | nil => exact hf.symm
  | cons e m ih =>
    simp only [List.map_cons, Store.get, ih]
    split <;> rfl

/-- An update of every installed handle. -/
theorem get_mapHandles (f : Handle → Handle) (m : Store (Option Handle)) (h : Nat) :
    Store.get none (m.map fun e => (e.1, e.2.map f)) h = (Store.get none m h).map f :=
  Store.get_map (f := Option.map f) rfl m h

theorem State.wipe_handle (s : State) (h : Nat) : s.wipe.handle h = (s.handle h).map Handle.kept :=
  get_mapHandles _ _ h

/-- R235: as the device comes up, a loss charges every handle. -/
theorem State.comeUp_handle (s : State) (h : Nat) :
    s.comeUp.handle h = if s.terms.loss = true then (s.handle h).map Handle.charged else s.handle h := by
  show Store.get none (if s.terms.loss = true then s.terms.handles.map fun e => (e.1, e.2.map Handle.charged)
    else s.terms.handles) h = _
  split
  · exact get_mapHandles _ _ h
  · rfl

/-! ### The state that a reset leaves -/

/-- R313: bring-up ends in an event that is still to come. -/
theorem State.bringUp_mem_comeUp (s : State) : ∃ w, (w, .bringUpComplete) ∈ s.comeUp.agenda :=
  ⟨_, (mem_insertEv _ _ _ _).mpr (.inl rfl)⟩

theorem State.wipe_loss (s : State) : s.wipe.terms.loss = true ↔ s.terms.loss = true ∨ s.terms.alive = true := by
  simp [State.wipe]

/-- The clock goes on from the value it had (R229). -/
theorem State.tclock_deviceReset (s : State) : s.wipe.comeUp.tclock = s.tclock := by
  show (s.tclock + (0 - 0) / usCycles) % 2 ^ 63 = s.tclock
  rw [Nat.zero_sub, Nat.zero_div, Nat.add_zero, State.tclock, Nat.mod_mod]

/-- R309: every byte of a partition's memory is zero. -/
theorem State.wipe_byte_part (s : State) {p a : Nat} (hp : p < 16) (ha : a < 2 ^ 64) : s.wipe.byte (keyOf p a) = 0 := by
  have hread : Store.get memDefault s.wipe.mem (keyOf p a) = memDefault := by
    refine Store.get_none _ _ _ fun e he heq => ?_
    have hhost := (List.mem_filter.mp he).2
    simp only [heq, keyOf, hostSpace, Bool.and_eq_true, decide_eq_true_eq] at hhost
    omega
  rw [State.byte, hread, ite_self]
  rfl

/-- A byte of host memory has no tag (R300). -/
theorem State.byte_host (t : State) (a : Nat) : t.byte (keyOf 16 a) = Store.get memDefault t.mem (keyOf 16 a) := by
  have hplace : hostSpace ≤ (linePlace (keyOf 16 a / 128)).1 := by
    simp only [linePlace, keyOf, hostSpace]
    omega
  exact if_pos (by simp [State.current, hplace])

/-- Host memory is not the device's and stays. DESIGN CHOICE of the model, log 5. -/
theorem State.wipe_byte_host (s : State) {a : Nat} (ha : a < 2 ^ 64) :
    s.wipe.byte (keyOf 16 a) = s.byte (keyOf 16 a) := by
  rw [State.byte_host, State.byte_host]
  refine Store.get_filter _ _ _ _ fun e he => ?_
  simp only [he, keyOf, hostSpace, Bool.and_eq_true, decide_eq_true_eq]
  omega

/-! ### Events -/

/-- R309: a life-cycle change that is not refused. -/
def State.lifeCycleChanged (s : State) : State :=
  State.comeUp { s.wipe with
    terms := { s.wipe.terms with clockBase := 0, synced := false, clockSaved := 0 }
    host := { s.wipe.host with enrolled := false } }

theorem changesNothing_lifeCycleChange (hn : ¬ ∀ e ∈ s.terms.handles, e.2 = none) :
    ChangesNothing s .lifeCycleChange :=
  congrArg Host.Outcome.next (if_pos (by simpa [Option.isSome_iff_ne_none] using hn))

theorem exec_lifeCycleChange (hn : ∀ e ∈ s.terms.handles, e.2 = none) :
    exec .lifeCycleChange s = .next s.lifeCycleChanged :=
  congrArg Host.Outcome.next (if_neg (by simpa using hn))

theorem changesNothing_powerUpRecovery (hp : s.host.powered = true) : ChangesNothing s .powerUpRecovery :=
  congrArg Host.Outcome.next (if_pos hp)

/-- R235: the device at a power-up, before it comes up. -/
def State.atPowerUp (s : State) : State :=
  { s with
    cycle := 0
    agenda := s.agenda.map fun e => (e.1 - s.cycle, e.2)
    terms := { s.terms with clockAt := 0 } }

theorem exec_powerUpRecovery (hp : s.host.powered = false) :
    exec .powerUpRecovery s = .next s.atPowerUp.comeUp :=
  congrArg Host.Outcome.next (if_neg (by simp [hp]))

/-- A handle after a device reset: what an orderly shutdown before it keeps, and what a loss charges (R235). -/
theorem State.deviceReset_handle (hx : s.handle h = some x) : s.wipe.comeUp.handle h =
    some (if s.terms.loss = true ∨ s.terms.alive = true then x.kept.charged else x.kept) := by
  rw [State.comeUp_handle, State.wipe_handle, hx]
  simp only [State.wipe_loss]
  split <;> rfl

/-! ### The statement -/

/-- Settles O55: of a wiped device only the agenda, the durations, the terms unit and the host side are set afterwards,
and what each event makes of those is read off it. -/
theorem resetsAndPowerLossLeaveWhatIsPersistent : Obligations.ResetsAndPowerLossLeaveWhatIsPersistent := by
  unfold Obligations.ResetsAndPowerLossLeaveWhatIsPersistent
  intro s h x cleared lost kept charged comes
  have hcleared : ∀ agenda delays terms host, terms.resv = [] → host.link = .down → host.ready = false →
      host.badClusters = s.host.agedClusters →
      cleared { s.wipe with agenda := agenda, delays := delays, terms := terms, host := host } :=
    fun _ _ _ _ hresv hlink hready hbad => ⟨rfl, fun _ => rfl, fun _ => rfl, fun _ => rfl, fun _ => rfl, hlink,
      fun _ => rfl, hresv, hready, rfl, rfl, fun _ _ => s.wipe_byte_part, fun _ => s.wipe_byte_host, hbad⟩
  refine ⟨?deviceReset, ?lifeCycleChange, ?powerLoss, changesNothing_powerUpRecovery, ?powerUpRecovery,
    ?orderlyShutdown, ?bringUpComplete⟩
  case deviceReset =>
    exact ⟨_, rfl, hcleared _ _ _ _ rfl rfl rfl rfl, rfl, State.bringUp_mem_comeUp _, s.tclock_deviceReset, rfl,
      State.deviceReset_handle⟩
  case lifeCycleChange =>
    by_cases hn : ∀ e ∈ s.terms.handles, e.2 = none
    · refine ⟨_, exec_lifeCycleChange hn, fun ⟨h, hh⟩ => ?_, fun _ => ⟨hcleared _ _ _ _ rfl rfl rfl rfl, rfl,
        State.bringUp_mem_comeUp _, rfl, rfl, rfl⟩⟩
      exact absurd (hn _ (Store.mem_of_get none _ h _ rfl hh)) hh
    · exact ⟨s, changesNothing_lifeCycleChange hn, fun _ => rfl, fun hnone => absurd hnone hn⟩
  case powerLoss =>
    exact ⟨_, rfl, hcleared _ _ _ _ rfl rfl rfl rfl, rfl, rfl, rfl, s.wipe_loss, fun hx =>
      (s.wipe_handle h).trans (congrArg (Option.map Handle.kept) hx)⟩
  case powerUpRecovery =>
    refine fun hp => ⟨_, exec_powerUpRecovery hp, rfl, rfl, State.bringUp_mem_comeUp _, rfl, fun hx hl => ?_⟩
    exact (s.atPowerUp.comeUp_handle h).trans ((if_pos hl).trans (congrArg (Option.map Handle.charged) hx))
  case orderlyShutdown =>
    exact ⟨_, rfl, rfl, rfl, rfl, fun hx => (get_mapHandles _ _ h).trans (congrArg (Option.map _) hx)⟩
  case bringUpComplete =>
    exact ⟨fun hv => congrArg Host.Outcome.next (if_neg hv), fun hv =>
      ⟨_, congrArg Host.Outcome.next (if_pos hv), rfl, rfl, rfl⟩⟩

end Sys2Proof.Machine
end

section
/-!
PROOFS. Integer instructions of the scalar slots (R113 to R117), for O1, O2 and O3. Each writes one register; what is
left is that the value it writes is the arithmetic that the statement names.
-/
namespace Sys2Proof.Machine

open Sys2Proof

variable {s : State} {i : Instr} {d : BitVec 6} {v w : DWord}

/-! ### Scalar results -/

/-- An instruction that answers with one scalar result. -/
theorem writesS_of_setS {lat : Nat} (h : exec i s = .next (s.setS d w lat)) (hv : w = v) : WritesS s i d v :=
  ⟨_, h, hv ▸ s.setS_spec d w lat⟩

/-- A quotient or remainder uses up an open duration and is a scalar result otherwise (R128). -/
theorem writesS_of_setDiv (h : exec i s = .next (s.setDiv d w)) (hv : w = v) : WritesS s i d v := by
  obtain ⟨hread, hframe⟩ := (s.spent true).setS_spec d w (4 + s.nextDelay % 63)
  exact ⟨_, h, hv ▸ hread, State.regsOnly_trans (s.filesKept_spent _ _ true).1 hframe⟩

/-! ### Two operands (R113) -/

theorem sub_eq_ofInt (x y : DWord) : x - y = BitVec.ofInt 64 (x.toInt - y.toInt) := by
  apply BitVec.eq_of_toInt_eq
  rw [BitVec.toInt_sub, BitVec.toInt_ofInt]

theorem mul_eq_ofInt (x y : DWord) : x * y = BitVec.ofInt 64 (x.toInt * y.toInt) := by
  rw [BitVec.ofInt_mul, BitVec.ofInt_toInt, BitVec.ofInt_toInt]

/-- The high half of a 128-bit number is its quotient by 2^64, rounded down. -/
theorem extractLsb'_ofInt_high (p : Int) : (BitVec.ofInt 128 p).extractLsb' 64 64 = BitVec.ofInt 64 (p / 2 ^ 64) := by
  apply BitVec.eq_of_toNat_eq
  rw [BitVec.extractLsb'_toNat, BitVec.toNat_ofInt, BitVec.toNat_ofInt, Nat.shiftRight_eq_div_pow]
  omega

theorem mulHigh_eq (x y : DWord) : mulHigh x y = BitVec.ofInt 64 (x.toInt * y.toInt / 2 ^ 64) := by
  rw [← extractLsb'_ofInt_high, BitVec.ofInt_mul]
  rfl

theorem mulHighU_eq (x y : DWord) : mulHighU x y = BitVec.ofNat 64 (x.toNat * y.toNat / 2 ^ 64) := by
  have hprod : x.setWidth 128 * y.setWidth 128 = BitVec.ofInt 128 ((x.toNat * y.toNat : Nat) : Int) := by
    rw [BitVec.ofInt_natCast, BitVec.ofNat_mul, BitVec.ofNat_toNat, BitVec.ofNat_toNat]
  rw [mulHighU, hprod, extractLsb'_ofInt_high, ← BitVec.ofInt_natCast]
  rfl

theorem shiftLeft_eq_ofNat (x : DWord) (n : Nat) : x <<< n = BitVec.ofNat 64 (x.toNat * 2 ^ n) := by
  rw [← Nat.shiftLeft_eq]
  rfl

theorem ushiftRight_eq_ofNat (x : DWord) (n : Nat) : x >>> n = BitVec.ofNat 64 (x.toNat / 2 ^ n) := by
  rw [← Nat.shiftRight_eq_div_pow, ← BitVec.toNat_ushiftRight, BitVec.ofNat_toNat, BitVec.setWidth_eq]

theorem sshiftRight_eq_ofInt (x : DWord) (n : Nat) : x.sshiftRight n = BitVec.ofInt 64 (x.toInt / 2 ^ n) := by
  rw [BitVec.sshiftRight_eq, Int.shiftRight_eq_div_pow]
  rfl

/-- Settles O1: one scalar result each, of the value that the lemma above gives. -/
theorem scalarArithmeticWritesItsResult : Obligations.ScalarArithmeticWritesItsResult := by
  unfold Obligations.ScalarArithmeticWritesItsResult
  intro s d a b x y n
  exact ⟨writesS_of_setS rfl (BitVec.add_def x y), writesS_of_setS rfl (sub_eq_ofInt x y),
    writesS_of_setS rfl (mul_eq_ofInt x y), writesS_of_setS rfl (mulHigh_eq x y),
    writesS_of_setS rfl (mulHighU_eq x y), writesS_of_setS rfl rfl, writesS_of_setS rfl rfl,
    writesS_of_setS rfl rfl, writesS_of_setS rfl rfl, writesS_of_setS rfl (shiftLeft_eq_ofNat x n),
    writesS_of_setS rfl (ushiftRight_eq_ofNat x n), writesS_of_setS rfl (sshiftRight_eq_ofInt x n)⟩

/-! ### Division (R114) -/

/-- R114: truncation towards zero, the overflow of the least number by -1 wrapping. -/
theorem divS_eq (x y : DWord) : divS x y =
    if y = 0 then BitVec.ofInt 64 (-1) else BitVec.ofInt 64 (x.toInt.tdiv y.toInt) := by
  have hq : x.sdiv y = BitVec.ofInt 64 (x.toInt.tdiv y.toInt) := by
    apply BitVec.eq_of_toInt_eq
    rw [BitVec.toInt_sdiv, BitVec.toInt_ofInt]
  rw [divS, hq]
  rfl

theorem divU_eq (x y : DWord) : divU x y =
    if y = 0 then BitVec.ofInt 64 (-1) else BitVec.ofNat 64 (x.toNat / y.toNat) := by
  rw [divU, ← BitVec.toNat_udiv, BitVec.ofNat_toNat, BitVec.setWidth_eq]
  rfl

theorem remS_eq (x y : DWord) : remS x y = if y = 0 then x else BitVec.ofInt 64 (x.toInt.tmod y.toInt) := by
  rw [remS, ← BitVec.toInt_srem, BitVec.ofInt_toInt]

theorem remU_eq (x y : DWord) : remU x y = if y = 0 then x else BitVec.ofNat 64 (x.toNat % y.toNat) := by
  rw [remU, ← BitVec.toNat_umod, BitVec.ofNat_toNat, BitVec.setWidth_eq]
  rfl

/-- Settles O2: one scalar result each, whatever the divisor. -/
theorem scalarDivisionNeverTraps : Obligations.ScalarDivisionNeverTraps := by
  unfold Obligations.ScalarDivisionNeverTraps
  intro s d a b x y
  exact ⟨writesS_of_setDiv rfl (divS_eq x y), writesS_of_setDiv rfl (divU_eq x y),
    writesS_of_setDiv rfl (remS_eq x y), writesS_of_setDiv rfl (remU_eq x y)⟩

/-! ### Compares and minima (R113) -/

theorem bit64_eq_ite (b : Bool) : bit64 b = if b = true then 1 else 0 := rfl

theorem bit64_slt (x y : DWord) : bit64 (x.slt y) = if x.toInt < y.toInt then 1 else 0 := by
  simp only [bit64_eq_ite, BitVec.slt_iff_toInt_lt]

theorem bit64_ult (x y : DWord) : bit64 (x.ult y) = if x.toNat < y.toNat then 1 else 0 := by
  simp only [bit64_eq_ite, BitVec.ult_iff_lt, BitVec.lt_def]

theorem bit64_eq (x y : DWord) : bit64 (decide (x = y)) = if x = y then 1 else 0 := by
  simp only [bit64_eq_ite, decide_eq_true_eq]

theorem bit64_ne (x y : DWord) : bit64 (decide (x ≠ y)) = if x = y then 0 else 1 := by
  simp only [bit64_eq_ite, decide_eq_true_eq, ite_not]

theorem ite_slt_min (x y : DWord) : (if x.slt y = true then x else y) = BitVec.ofInt 64 (min x.toInt y.toInt) := by
  rw [← BitVec.ofInt_toInt (x := ite ..), apply_ite BitVec.toInt]
  simp only [BitVec.slt_iff_toInt_lt]
  congr 1
  omega

theorem ite_slt_max (x y : DWord) : (if x.slt y = true then y else x) = BitVec.ofInt 64 (max x.toInt y.toInt) := by
  rw [← BitVec.ofInt_toInt (x := ite ..), apply_ite BitVec.toInt]
  simp only [BitVec.slt_iff_toInt_lt]
  congr 1
  omega

theorem ite_ult_min (x y : DWord) : (if x.ult y = true then x else y) = BitVec.ofNat 64 (min x.toNat y.toNat) := by
  apply BitVec.eq_of_toNat_eq
  rw [apply_ite BitVec.toNat, BitVec.toNat_ofNat]
  simp only [BitVec.ult_iff_lt, BitVec.lt_def]
  split <;> omega

theorem ite_ult_max (x y : DWord) : (if x.ult y = true then y else x) = BitVec.ofNat 64 (max x.toNat y.toNat) := by
  apply BitVec.eq_of_toNat_eq
  rw [apply_ite BitVec.toNat, BitVec.toNat_ofNat]
  simp only [BitVec.ult_iff_lt, BitVec.lt_def]
  split <;> omega

/-! ### Counts of bits (R113) -/

/-- The count stops at the first bit that is set, or behind the last. -/
theorem lowZeros_spec (f : Nat → Bool) (n k : Nat) : k ≤ lowZeros f n k ∧ lowZeros f n k ≤ k + n ∧
    (∀ j, k ≤ j → j < lowZeros f n k → f j = false) ∧ (lowZeros f n k < k + n → f (lowZeros f n k) = true) := by
  induction n generalizing k with
  | zero =>
    exact ⟨Nat.le_refl _, Nat.le_refl _, fun _ h1 h2 => absurd h2 (Nat.not_lt.mpr h1),
      fun h => absurd h (Nat.lt_irrefl _)⟩
  | succ n ih =>
    rw [lowZeros]
    split
    next hk => exact ⟨Nat.le_refl _, by omega, fun _ h1 h2 => absurd h2 (Nat.not_lt.mpr h1), fun _ => hk⟩
    next hk =>
      obtain ⟨hlow, hhigh, hzero, hone⟩ := ih (k + 1)
      refine ⟨by omega, by omega, fun j h1 h2 => ?_, fun h => hone (by omega)⟩
      rcases Nat.eq_or_lt_of_le h1 with rfl | h1
      · simpa using hk
      · exact hzero j h1 h2

theorem clz64_spec (x : DWord) : clz64 x ≤ 64 ∧ x.toNat < 2 ^ (64 - clz64 x) ∧
    (clz64 x < 64 → 2 ^ (63 - clz64 x) ≤ x.toNat) := by
  obtain ⟨-, hle, hzero, hone⟩ := lowZeros_spec (fun k => x.getLsbD (63 - k)) 64 0
  rw [Nat.zero_add] at hle hone
  refine ⟨hle, Nat.lt_pow_two_of_testBit _ fun j hj => ?_, fun h => Nat.ge_two_pow_of_testBit (hone h)⟩
  by_cases h : j < 64
  · have hbit := hzero (63 - j) (Nat.zero_le _) (show 63 - j < clz64 x by omega)
    rwa [show 63 - (63 - j) = j by omega] at hbit
  · exact x.getLsbD_of_ge j (by omega)

theorem ctz64_spec (x : DWord) : ctz64 x ≤ 64 ∧ x.toNat % 2 ^ ctz64 x = 0 ∧
    (ctz64 x < 64 → x.toNat / 2 ^ ctz64 x % 2 = 1) := by
  obtain ⟨-, hle, hzero, hone⟩ := lowZeros_spec (fun k => x.getLsbD k) 64 0
  rw [Nat.zero_add] at hle hone
  refine ⟨hle, Nat.eq_of_testBit_eq fun j => ?_, fun h => ?_⟩
  · rw [Nat.testBit_mod_two_pow, Nat.zero_testBit]
    by_cases h : j < ctz64 x
    · exact (Bool.and_eq_false_iff).mpr (.inr (hzero j (Nat.zero_le _) h))
    · simp [h]
  · exact of_decide_eq_true (Nat.testBit_eq_decide_div_mod_eq.symm.trans (hone h))

/-- As many bits of a list are set as their values add up to. -/
theorem countP_getLsbD (x : DWord) (l : List Nat) :
    (l.countP fun k => x.getLsbD k) = (l.map fun k => x.toNat / 2 ^ k % 2).sum := by
  induction l with
  | nil => rfl
  | cons k l ih =>
    have hbit : x.getLsbD k = decide (x.toNat / 2 ^ k % 2 = 1) := Nat.testBit_eq_decide_div_mod_eq
    rw [List.countP_cons, List.map_cons, List.sum_cons, ih, hbit]
    simp only [decide_eq_true_eq]
    have := Nat.mod_lt (x.toNat / 2 ^ k) Nat.two_pos
    split <;> omega

/-! ### Immediates and three operands (R115 to R117) -/

theorem zxImm_eq {n : Nat} (imm : BitVec n) : zxImm imm = BitVec.ofNat 64 imm.toNat := (BitVec.ofNat_toNat ..).symm

theorem add_sxImm {n : Nat} (x : DWord) (imm : BitVec n) : x + sxImm imm = BitVec.ofInt 64 (x.toInt + imm.toInt) := by
  rw [BitVec.ofInt_add, BitVec.ofInt_toInt]
  rfl

theorem toInt_sxImm (imm : BitVec 16) : (sxImm imm).toInt = imm.toInt := BitVec.toInt_signExtend_of_le (by decide)

theorem sxImm_shiftLeft_12 (imm : BitVec 22) : sxImm imm <<< 12 = BitVec.ofInt 64 (imm.toInt * 4096) := by
  rw [BitVec.shiftLeft_eq_mul_twoPow, BitVec.ofInt_mul]
  rfl

theorem add_shiftLeft (x y : DWord) (n : Nat) : x + y <<< n = BitVec.ofNat 64 (x.toNat + y.toNat * 2 ^ n) := by
  rw [shiftLeft_eq_ofNat, BitVec.ofNat_add, BitVec.ofNat_toNat, BitVec.setWidth_eq]

/-- Settles O3: one scalar result each; the counts by the first set bit from either end. -/
theorem scalarComparesCountsAndImmediates : Obligations.ScalarComparesCountsAndImmediates := by
  unfold Obligations.ScalarComparesCountsAndImmediates
  refine ⟨fun s d a b => ?twoOperands, fun s d a b c sh imm u => ?immediates⟩
  case twoOperands =>
    intro x y
    exact ⟨writesS_of_setS rfl (ite_slt_min x y), writesS_of_setS rfl (ite_slt_max x y),
      writesS_of_setS rfl (ite_ult_min x y), writesS_of_setS rfl (ite_ult_max x y), writesS_of_setS rfl (bit64_slt x y),
      writesS_of_setS rfl (bit64_ult x y), writesS_of_setS rfl (bit64_eq x y), writesS_of_setS rfl (bit64_ne x y),
      ⟨clz64 x, writesS_of_setS rfl rfl, clz64_spec x⟩, ⟨ctz64 x, writesS_of_setS rfl rfl, ctz64_spec x⟩,
      writesS_of_setS rfl (congrArg _ (countP_getLsbD x _))⟩
  case immediates =>
    intro x
    have hslti : bit64 (x.slt (sxImm imm)) = if x.toInt < imm.toInt then 1 else 0 := by
      rw [bit64_slt, toInt_sxImm]
    exact ⟨writesS_of_setS rfl (add_sxImm x imm), writesS_of_setS rfl (congrArg (x &&& ·) (zxImm_eq imm)),
      writesS_of_setS rfl (congrArg (x ||| ·) (zxImm_eq imm)), writesS_of_setS rfl (congrArg (x ^^^ ·) (zxImm_eq imm)),
      writesS_of_setS rfl (shiftLeft_eq_ofNat x _), writesS_of_setS rfl (ushiftRight_eq_ofNat x _),
      writesS_of_setS rfl (sshiftRight_eq_ofInt x _), writesS_of_setS rfl hslti,
      writesS_of_setS rfl (bit64_ult x (sxImm imm)), writesS_of_setS rfl (sxImm_shiftLeft_12 u),
      writesS_of_setS rfl (ite_not ..), writesS_of_setS rfl (add_shiftLeft x _ _)⟩

end Sys2Proof.Machine
end

section
/-!
PROOFS. FP32 instructions of the scalar slots (R126, R127), for O4.
-/
namespace Sys2Proof.Machine

open Sys2Proof

/-- Two numbers are equal where neither is the lesser. -/
theorem Ext.eq_iff (x y : Ext) : Ext.eq x y = true ↔ Ext.lt x y = some false ∧ Ext.lt y x = some false := by
  unfold Ext.eq
  split
  next h1 h2 => simp [h1, h2]
  next h => simpa using fun h1 h2 => h h1 h2

/-- Settles O4: one scalar result each, rounded once where the result is a number. -/
theorem scalarFloatWritesItsResult : Obligations.ScalarFloatWritesItsResult := by
  unfold Obligations.ScalarFloatWritesItsResult
  intro s d a b m x y z out
  have heq : (if Ext.eq x y = true then (1 : DWord) else 0) =
      if Ext.lt x y = some false ∧ Ext.lt y x = some false then 1 else 0 := by
    simp only [Ext.eq_iff]
  exact ⟨writesS_of_setS rfl rfl, writesS_of_setS rfl rfl, writesS_of_setS rfl rfl, writesS_of_setS rfl rfl,
    writesS_of_setS rfl rfl, writesS_of_setS rfl rfl, writesS_of_setS rfl rfl, writesS_of_setS rfl rfl,
    writesS_of_setS rfl rfl, writesS_of_setS rfl rfl, writesS_of_setS rfl heq, writesS_of_setS rfl rfl,
    writesS_of_setS rfl rfl⟩

end Sys2Proof.Machine
end

section
/-!
PROOFS. Loads, stores and atomics of the scalar slots (R118 to R125), for O6 and O7. An access whose address leads to
a place, or is refused, is one change of memory, if any, then a value in a register, if any, then the bookkeeping of
`State.track`; the lemmas about these three are put together for each kind of access.
-/
namespace Sys2Proof.Machine

open Sys2Proof

variable {s t : State} {i : Instr} {d : BitVec 6} {ea : DWord} {lg : Nat}

/-! ### Frames -/

theorem Grows.mono {α : Type} {p q : α → Prop} {l m : List α} (h : Grows p l m) (hpq : ∀ x, p x → q x) :
    Grows q l m := by
  obtain ⟨r, hr, hp⟩ := h
  exact ⟨r, hr, fun x hx => hpq x (hp x hx)⟩

theorem State.regsOnly_mono {W V : List RegId} {A : List AccKind} (hWV : ∀ r ∈ W, r ∈ V) (h : s.regsOnly W A t) :
    s.regsOnly V A t := by
  obtain ⟨⟨hs, hv, hp, hscore, houtst, hrest⟩, hothers⟩ := h
  exact ⟨⟨fun n hn => hs n (hn ∘ hWV _), fun n hn => hv n (hn ∘ hWV _), fun n hn => hp n (hn ∘ hWV _),
    hscore.mono fun _ => hWV _, houtst, hrest⟩, hothers⟩

theorem State.regsOnly_mem {W : List RegId} {A : List AccKind} (h : s.regsOnly W A t) : t.mem = s.mem := by
  obtain ⟨-, -, -, -, hrest⟩ := h
  exact (congrArg State.mem hrest :)

/-! ### A value in a register -/

@[simp] theorem Ctx.wrS_iss (x : Ctx) (d : BitVec 6) (v : DWord) : (x.wrS d v).iss = x.iss := by
  unfold Ctx.wrS
  split <;> rfl

/-- What a load and an atomic end with: the value in the register, pending, and the access outstanding. -/
def State.lands (s : State) (d : BitVec 6) (v : DWord) (kind : AccKind) (remote : Bool) (order least : Nat)
    (isOpen : Bool) : State :=
  (s.updMe fun c => c.wrS d v).track (scalarReg d) kind remote order least isOpen

theorem State.lands_spec (s : State) (d : BitVec 6) (v : DWord) (kind : AccKind) (remote : Bool) (order least : Nat)
    (isOpen : Bool) :
    let t := s.lands d v kind remote order least isOpen
    t.me.rdS d = (if d = 0 then 0 else v) ∧ s.regsOnly [.s d] [kind] t ∧ t.iss = s.iss := by
  obtain ⟨hframe, hs, -, hiss⟩ :=
    (s.updMe fun c => c.wrS d v).track_spec (scalarReg d) kind remote order least isOpen
  have hreg : ∀ r ∈ (scalarReg d).toList, r ∈ [RegId.s d] := by
    unfold scalarReg
    split <;> simp
  refine ⟨?_, State.regsOnly_trans (State.regsOnly_updMe _ _ s _ (Ctx.keepsBut_wrS _ _ _ d v (by simp)))
    (State.regsOnly_mono hreg hframe), ?_⟩
  · have hread : ∀ x : Ctx, x.s = (s.me.wrS d v).s → x.rdS d = (s.me.wrS d v).rdS d := fun x hx => by
      rw [Ctx.rdS, Ctx.rdS, hx]
    rw [State.updMe_me] at hs
    rw [State.lands, hread _ hs, Ctx.rdS_wrS_self]
  · rw [State.updMe_me, Ctx.wrS_iss] at hiss
    exact hiss

/-! ### Places and refusals -/

theorem Route.isPlace_stash (c th o : Nat) : (Route.stash c th o).isPlace := .inl ⟨c, th, o, rfl⟩

theorem Route.isPlace_mem (k : Nat) : (Route.mem k).isPlace := .inr ⟨k, rfl⟩

theorem Route.isPlace.ne_refused {r : Route} (h : r.isPlace) : r ≠ .refused := by
  rintro rfl
  obtain ⟨c, th, o, h⟩ | ⟨k, h⟩ := h <;> cases h

/-- A route to a place keeps no slot from acting. -/
theorem State.badRoute_of_isPlace {r : Route} (h : r.isPlace) (a : DWord) (det : Option DWord) :
    s.badRoute r a det = none := by
  obtain ⟨c, th, o, rfl⟩ | ⟨k, rfl⟩ := h <;> rfl

theorem State.logMine_spec (s : State) (a : DWord) : s.onlyLogs (s.logMine a) := s.logRefused_spec _ _ _

theorem State.logMine_iss (s : State) (a : DWord) : (s.logMine a).iss = s.iss := by
  obtain ⟨-, hrest, -⟩ := s.logMine_spec a
  have hcur : (s.logMine a).cur = s.cur := (congrArg State.cur hrest :)
  rw [State.iss, State.me, hcur, State.ctx_congr (State.onlyLogs_ctxs (s.logMine_spec a))]
  rfl

/-- A write within a tile is one store in it. -/
theorem State.stashedAt_writeAt {c th o : Nat} {tl : Tile} (h : s.tile c th = some tl) (l : List Byte) :
    s.stashedAt (s.writeAt (.stash c th o) l) c th o tl l := by
  obtain ⟨honly, htiles, hbytes, htile⟩ := s.writeAt_stash c th o l tl h
  exact ⟨htile, honly, htiles, hbytes⟩

/-! ### Loads (R118, R119, R122) -/

theorem sval_eq_toInt (n x : Nat) : sval n x = (BitVec.ofNat n x).toInt := by
  rw [BitVec.toInt_eq_toNat_cond, BitVec.toNat_ofNat]
  unfold sval
  norm_cast

theorem extendLoad_signed (lg v : Nat) :
    extendLoad lg true v = BitVec.ofInt 64 (BitVec.ofNat (8 * 2 ^ lg) v).toInt := by
  rw [← sval_eq_toInt]
  rfl

theorem extendLoad_unsigned (lg v : Nat) : extendLoad lg false v = BitVec.ofNat 64 v := rfl

section Load
variable {r : Route} {signed acquire : Bool} (ha : ea.toNat % 2 ^ lg = 0) (hr : s.route s.cur ea true false = r)
include ha hr

theorem State.loadScalar_of_isPlace (hp : r.isPlace) : s.loadScalar d ea lg signed acquire =
    s.lands d (extendLoad lg signed (s.readAt r (2 ^ lg))) .load r.isRemote (if acquire then 1 else 0) r.loadTime.1
      r.loadTime.2 := by
  unfold State.loadScalar
  rw [if_neg fun q => q ha]
  simp only [hr, State.badRoute_of_isPlace hp, if_neg hp.ne_refused]
  rfl

theorem State.loadScalar_of_refused (hp : r = .refused) : s.loadScalar d ea lg signed acquire =
    (s.logMine ea).lands d (extendLoad lg signed (2 ^ (8 * 2 ^ lg) - 1)) .load true (if acquire then 1 else 0) 4
      true := by
  subst hp
  unfold State.loadScalar
  rw [if_neg fun q => q ha]
  simp only [hr]
  rfl

end Load

/-- Every load is one of the model's scalar loads, extended by `f`. -/
theorem loadsS_of_loadScalar {signed acquire : Bool} {f : Nat → DWord}
    (h : exec i s = .next (s.loadScalar d ea lg signed acquire)) (hf : ∀ v, extendLoad lg signed v = f v) :
    LoadsS s i d ea lg f := by
  refine fun ha => ⟨fun hp => ?place, fun hr => ?refused⟩
  case place =>
    obtain ⟨hread, hframe, -⟩ := s.lands_spec d (extendLoad lg signed (s.readAt _ (2 ^ lg))) .load _ _ _ _
    rw [State.loadScalar_of_isPlace ha rfl hp] at h
    exact ⟨_, h, hf _ ▸ hread, hframe⟩
  case refused =>
    obtain ⟨hread, hframe, hiss⟩ := (s.logMine ea).lands_spec d (extendLoad lg signed _) .load true _ 4 true
    rw [State.loadScalar_of_refused ha hr rfl] at h
    exact ⟨_, h, hf _ ▸ hread, hiss.trans (s.logMine_iss ea), State.regsOnly_mem hframe⟩

/-! ### Stores (R118, R119, R122) -/

section Store
variable {r : Route} {ordered : Bool} (ha : ea.toNat % 2 ^ lg = 0) (hr : s.route s.cur ea false true = r)
include ha hr

theorem State.storeScalar_of_isPlace (hp : r.isPlace) : s.storeScalar d ea lg ordered =
    (s.writeAt r (leBytes (2 ^ lg) (s.opS d).toNat)).track none .store r.isRemote (if ordered then 2 else 0) 1
      r.isRemote := by
  unfold State.storeScalar
  rw [if_neg fun q => q ha]
  simp only [hr, State.badRoute_of_isPlace hp, if_neg hp.ne_refused]

theorem State.storeScalar_of_refused (hp : r = .refused) : s.storeScalar d ea lg ordered =
    (s.logMine ea).track none .store true (if ordered then 2 else 0) 1 true := by
  subst hp
  unfold State.storeScalar
  rw [if_neg fun q => q ha]
  simp only [hr]
  rfl

end Store

/-- Every store is one of the model's scalar stores. -/
theorem storesS_of_storeScalar {ordered : Bool} (h : exec i s = .next (s.storeScalar d ea lg ordered)) :
    StoresS s i ea lg (s.opS d).toNat := by
  refine fun ha => ⟨fun k hr => ?memory, fun c th o tl hr htl => ?tile, fun hr => ?refused⟩
  case memory =>
    rw [State.storeScalar_of_isPlace ha hr (Route.isPlace_mem k)] at h
    exact ⟨_, _, h, s.storedAt_wrLine k _, (State.track_spec _ none .store _ _ _ _).1⟩
  case tile =>
    rw [State.storeScalar_of_isPlace ha hr (Route.isPlace_stash c th o)] at h
    exact ⟨_, _, h, State.stashedAt_writeAt htl _, (State.track_spec _ none .store _ _ _ _).1⟩
  case refused =>
    rw [State.storeScalar_of_refused ha hr rfl] at h
    obtain ⟨hframe, -, -, hiss⟩ := (s.logMine ea).track_spec none .store true (if ordered then 2 else 0) 1 true
    exact ⟨_, h, hiss.trans (s.logMine_iss ea), State.regsOnly_mem hframe⟩

/-! ### Releases (R45, R122) -/

theorem State.openAt_iff (s : State) (n : Nat) : s.me.openAt n = true ↔ ¬ allPast s n := by
  simp [Ctx.openAt, allPast]

theorem stalls_of_exec (h : exec i s = .next s.stalls) : Stalls s i := ⟨_, h, s.onlyMe_updIss _⟩

theorem exec_strl_of_allPast {sz : Sys2Proof.Size} {a : BitVec 6} (h : allPast s 2) :
    exec (.strl sz d a) s = .next (s.storeScalar d (s.opS a) (Size.lg sz) true) :=
  congrArg Host.Outcome.next (if_neg fun q => (s.openAt_iff 2).mp q h)

theorem stalls_strl {sz : Sys2Proof.Size} {a : BitVec 6} (h : ¬ allPast s 2) : Stalls s (.strl sz d a) :=
  stalls_of_exec (congrArg Host.Outcome.next (if_pos ((s.openAt_iff 2).mpr h)))

/-- Settles O6: each load is a scalar load with its extension, and each store a scalar store. -/
theorem loadsAndStoresKeepToTheirPlace : Obligations.LoadsAndStoresKeepToTheirPlace := by
  unfold Obligations.LoadsAndStoresKeepToTheirPlace
  refine ⟨fun s d a imm sz => ?loads, fun s d a imm sz => ?stores⟩
  case loads =>
    exact ⟨loadsS_of_loadScalar rfl (extendLoad_signed 0), loadsS_of_loadScalar rfl (extendLoad_unsigned 0),
      loadsS_of_loadScalar rfl (extendLoad_signed 1), loadsS_of_loadScalar rfl (extendLoad_unsigned 1),
      loadsS_of_loadScalar rfl (extendLoad_signed 2), loadsS_of_loadScalar rfl (extendLoad_unsigned 2),
      loadsS_of_loadScalar rfl (extendLoad_unsigned 3), loadsS_of_loadScalar rfl (extendLoad_unsigned _)⟩
  case stores =>
    exact ⟨storesS_of_storeScalar rfl, storesS_of_storeScalar rfl, storesS_of_storeScalar rfl,
      storesS_of_storeScalar rfl, fun h => storesS_of_storeScalar (exec_strl_of_allPast h), stalls_strl⟩

/-! ### Atomics (R123 to R125) -/

/-- The write of an atomic at a place, where it makes one. -/
def State.swapAt (s : State) (r : Route) (n : Nat) : Option Nat → State
  | some v => s.writeAt r (leBytes n v)
  | none => s

/-- log2 of the bytes of an atomic. -/
abbrev atomLg (dword : Bool) : Nat := if dword then 3 else 2

/-- R45: an atomic with release order goes once every access that is outstanding has completed at its scope. -/
abbrev ReleaseGoes (s : State) (o : Order) (sys : Bool) : Prop :=
  (o = .rel ∨ o = .acqrel) → allPast s (sysStage sys)

section Atomic
variable {r : Route} {dword : Bool} {o : Order} {sys : Bool} {new : Nat → Option Nat}

theorem State.atomic_of_not_goes (h : ¬ ReleaseGoes s o sys) : s.atomic d ea dword o sys new = s.stalls := by
  obtain ⟨hrel, hopen⟩ := Classical.not_imp.mp h
  exact if_pos ⟨hrel, (s.openAt_iff _).mpr hopen⟩

variable (hgo : ReleaseGoes s o sys) (ha : ea.toNat % 2 ^ atomLg dword = 0) (hr : s.route s.cur ea true true = r)
include hgo ha hr

theorem State.atomic_of_isPlace (hp : r.isPlace) : ∃ order, s.atomic d ea dword o sys new =
    (s.swapAt r (2 ^ atomLg dword) (new (s.readAt r (2 ^ atomLg dword)))).lands d
      (extendLoad (atomLg dword) true (s.readAt r (2 ^ atomLg dword))) .atomic r.isRemote order 1 true := by
  refine ⟨if o = .acq ∨ o = .acqrel then sysStage sys else 0, ?_⟩
  unfold State.atomic
  rw [if_neg fun q => (s.openAt_iff _).mp q.2 (hgo q.1), if_neg fun q => q ha]
  simp only [hr, State.badRoute_of_isPlace hp, if_neg hp.ne_refused]
  cases new (s.readAt r (2 ^ atomLg dword)) <;> rfl

theorem State.atomic_of_refused (hp : r = .refused) : ∃ order, s.atomic d ea dword o sys new =
    (s.logMine ea).lands d (extendLoad (atomLg dword) true (2 ^ (8 * 2 ^ atomLg dword) - 1)) .atomic true order 1
      true := by
  subst hp
  refine ⟨if o = .acq ∨ o = .acqrel then sysStage sys else 0, ?_⟩
  unfold State.atomic
  rw [if_neg fun q => (s.openAt_iff _).mp q.2 (hgo q.1), if_neg fun q => q ha]
  simp only [hr]
  rfl

end Atomic

/-- Every atomic that goes reads and writes as `new` says, in one step. -/
theorem swapsS_of_atomic {dword : Bool} {o : Order} {sys : Bool} {new : Nat → Option Nat}
    (h : exec i s = .next (s.atomic d ea dword o sys new)) (hgo : ReleaseGoes s o sys) :
    SwapsS s i d ea (atomLg dword) new := by
  intro ha r old
  have hplace : r.isPlace → ∃ t, exec i s = .next t ∧
      t.me.rdS d = (if d = 0 then 0 else extendLoad (atomLg dword) true old) ∧
      (s.swapAt r (2 ^ atomLg dword) (new old)).regsOnly [.s d] [.atomic] t := by
    intro hp
    obtain ⟨order, he⟩ := State.atomic_of_isPlace (d := d) (new := new) hgo ha rfl hp
    obtain ⟨hread, hframe, -⟩ := State.lands_spec _ d (extendLoad _ true old) .atomic _ order 1 true
    exact ⟨_, h.trans (congrArg _ he), hread, hframe⟩
  refine ⟨fun k hr => ?memory, fun c th b tl hr htl => ?tile, fun hr => ?refused⟩
  case memory =>
    obtain ⟨t, ht, hread, hframe⟩ := hplace (hr ▸ Route.isPlace_mem k)
    refine ⟨s.swapAt r (2 ^ atomLg dword) (new old), t, ht, ?_, hread, hframe⟩
    cases new old with
    | none => rfl
    | some v =>
      rw [hr]
      exact s.storedAt_wrLine k _
  case tile =>
    obtain ⟨t, ht, hread, hframe⟩ := hplace (hr ▸ Route.isPlace_stash c th b)
    refine ⟨s.swapAt r (2 ^ atomLg dword) (new old), t, ht, ?_, hread, hframe⟩
    cases new old with
    | none => rfl
    | some v =>
      rw [hr]
      exact State.stashedAt_writeAt htl _
  case refused =>
    obtain ⟨order, he⟩ := State.atomic_of_refused (d := d) (new := new) hgo ha hr rfl
    obtain ⟨hread, hframe, hiss⟩ := (s.logMine ea).lands_spec d (extendLoad _ true _) .atomic true order 1 true
    exact ⟨_, h.trans (congrArg _ he), hiss.trans (s.logMine_iss ea), State.regsOnly_mem hframe, hread⟩

theorem stalls_of_atomic {dword : Bool} {o : Order} {sys : Bool} {new : Nat → Option Nat}
    (h : exec i s = .next (s.atomic d ea dword o sys new)) (hgo : ¬ ReleaseGoes s o sys) : Stalls s i :=
  stalls_of_exec (h.trans (congrArg _ (State.atomic_of_not_goes hgo)))

/-- R123: the operand is the low bits of the register, at the width of the atomic. -/
theorem atomOp_eq (dword : Bool) (x : DWord) : atomOp dword x = x.toNat % 2 ^ (if dword then 64 else 32) := by
  cases dword with
  | false => rfl
  | true => exact (Nat.mod_eq_of_lt x.isLt).symm

theorem ite_lt_eq_min (a b : Nat) : (if a < b then a else b) = min a b := by split <;> omega

theorem ite_lt_eq_max (a b : Nat) : (if a < b then b else a) = max a b := by split <;> omega

/-- Settles O7: AMO and CAS are the model's atomic with the operand and the new value that R123 and R124 name. -/
theorem atomicsReadAndWriteInOneStep : Obligations.AtomicsReadAndWriteInOneStep := by
  unfold Obligations.AtomicsReadAndWriteInOneStep
  intro s op dword o sys d a b lg n y sx f go
  have hnew : ∀ old, amoNew op n old y = f old := by
    intro old
    cases op with
    | add | swp | and | or | xor => rfl
    | min | max => simp only [amoNew, sval_eq_toInt, f, sx]
    | minu => exact ite_lt_eq_min old y
    | maxu => exact ite_lt_eq_max old y
  have hamo : exec (.amo op dword o sys d a b) s =
      .next (s.atomic d (s.opS a) dword o sys fun old => some (f old)) := by
    simp only [← hnew, y, ← atomOp_eq, n]
    rfl
  have hcas : exec (.cas dword o sys d a b) s = .next (s.atomic d (s.opS a) dword o sys fun old =>
      if old = (s.opS d).toNat % 2 ^ n then some y else none) := by
    simp only [y, n, ← atomOp_eq]
    rfl
  exact ⟨swapsS_of_atomic hamo, swapsS_of_atomic hcas, fun h => ⟨stalls_of_atomic hamo h, stalls_of_atomic hcas h⟩⟩

end Sys2Proof.Machine
end

section
/-!
PROOFS. The transposer of the shuffle slot (R186 to R188), for O24. What a push makes of the transposer is said for a
row within a block and for the last one; what a pop leaves is the rule of a vector result, over the state with its
column counted; the column itself is read back through the elements of the packed lane group.
-/
namespace Sys2Proof.Machine

open Sys2Proof

variable {s u : State} {d a : BitVec 6} {l : Lanes} {t : ETy}

theorem State.withVt_of_some {f : ETy → State} (h : s.vt = some t) : s.withVt f = f t := by
  simp only [State.withVt, h]

/-! ### Pushing a row (R187) -/

theorem Transposer.push_of_not_last (x : Transposer) {b : Nat} (row : BitVec 1024)
    (h : x.fill.length + 1 ≠ 1024 / b) : x.push b row = { x with fill := x.fill ++ [row], bits := b } := by
  rw [Transposer.push, if_neg (by simpa using h)]

theorem Transposer.push_of_last (x : Transposer) {b : Nat} (row : BitVec 1024)
    (h : x.fill.length + 1 = 1024 / b) :
    x.push b row = { x with fill := [], bits := 0, xfer := some (x.fill ++ [row], b, 8) } := by
  rw [Transposer.push, if_pos (by simpa using h)]

theorem faults_trpush (ht : s.vt = some t) (hfill : s.me.tr.fill ≠ []) (hbits : s.me.tr.bits ≠ t.bits) :
    Faults s (.trpush a l) .illegalFormat none none := by
  refine ⟨_, congrArg Host.Outcome.next (State.withVt_of_some ht), ?_⟩
  rw [if_pos ⟨hfill, hbits⟩]
  exact s.onlyMe_raise ..

theorem makes_trpush (ht : s.vt = some t) (h : s.me.tr.fill = [] ∨ s.me.tr.bits = t.bits) :
    Makes s (.trpush a l) { s.me with tr := s.me.tr.push t.bits (laneGroup (s.opV a) l.lg.toNat) } := by
  refine ⟨_, congrArg Host.Outcome.next (State.withVt_of_some ht), ?_⟩
  rw [if_neg fun hn => h.elim hn.1 hn.2]
  exact s.onlyMe_updMe _

/-! ### Popping a column (R186, R187) -/

theorem exec_trpop_of_none (h : s.me.tr.pop = none) :
    exec (.trpop d l) s = .next (s.raise .schedule none none) := by
  show execTrpop d l s = _
  simp only [execTrpop, h]

theorem exec_trpop_of_some {rows : List (BitVec 1024)} {b : Nat} (h : s.me.tr.pop = some (rows, b)) :
    exec (.trpop d l) s = .next (if rows.length ≤ s.me.tr.popped then s.raise .schedule none none
      else (s.updMe fun c => { c with tr := { c.tr with popped := c.tr.popped + 1 } }).setV d
        (splice (s.opV d) (laneBase l) 1024 (blockColumn rows b s.me.tr.popped)) 2) := by
  show execTrpop d l s = _
  simp only [execTrpop, h]

theorem faults_trpop
    (h : s.me.tr.pop = none ∨ ∃ rows b, s.me.tr.pop = some (rows, b) ∧ rows.length ≤ s.me.tr.popped) :
    Faults s (.trpop d l) .schedule none none := by
  obtain h | ⟨rows, b, h, hlen⟩ := h
  · exact ⟨_, exec_trpop_of_none h, s.onlyMe_raise ..⟩
  · exact ⟨_, (exec_trpop_of_some h).trans (by rw [if_pos hlen]), s.onlyMe_raise ..⟩

/-- Row `k` of a block gives element `k` of a column. -/
theorem testBit_blockColumn {rows : List (BitVec 1024)} {b c k i : Nat} {r : BitVec 1024} (hk : rows[k]? = some r)
    (hi : i < b) : (blockColumn rows b c).testBit (b * k + i) = (r.extractLsb' (b * c) b).getLsbD i := by
  have hb : 0 < b := by omega
  rw [blockColumn, testBit_packBits b hb, Nat.mul_add_div hb, Nat.div_eq_of_lt hi, Nat.add_zero, Nat.mul_add_mod,
    Nat.mod_eq_of_lt hi, List.getD_eq_getElem?_getD, List.getElem?_map, hk]
  exact BitVec.testBit_toNat _

theorem getLsbD_laneGroup_splice (v : VWord) (l : Lanes) (x : Nat) {j : Nat} (hj : j < 1024) :
    (laneGroup (splice v (laneBase l) 1024 x) l.lg.toNat).getLsbD j = x.testBit j := by
  have hlg := l.lg.isLt
  rw [laneGroup, BitVec.getLsbD_extractLsb', getLsbD_splice _ _ _ _ _ (by omega), laneBase, if_pos (by omega),
    Nat.add_sub_cancel_left, decide_eq_true hj, Bool.true_and]

theorem getLsbD_splice_of_other_group (v : VWord) (l : Lanes) (x : Nat) {j : Nat} (hj : j < 4096)
    (hg : j / 1024 ≠ l.lg.toNat) : (splice v (laneBase l) 1024 x).getLsbD j = v.getLsbD j := by
  rw [getLsbD_splice _ _ _ _ _ hj, laneBase, if_neg (by omega)]

/-- Each element of the lane group that a pop writes comes from one row of the block (R186). -/
theorem laneGroup_splice_blockColumn (v : VWord) (l : Lanes) {rows : List (BitVec 1024)} {b c k : Nat}
    {r : BitVec 1024} (hblock : b * rows.length = 1024) (hk : rows[k]? = some r) :
    (laneGroup (splice v (laneBase l) 1024 (blockColumn rows b c)) l.lg.toNat).extractLsb' (b * k) b =
      r.extractLsb' (b * c) b := by
  obtain ⟨hlen, -⟩ := List.getElem?_eq_some_iff.mp hk
  have hend : b * k + b ≤ 1024 := hblock ▸ Nat.mul_le_mul_left b (Nat.succ_le_of_lt hlen)
  refine BitVec.eq_of_getLsbD_eq fun i hi => ?_
  rw [BitVec.getLsbD_extractLsb', decide_eq_true hi, Bool.true_and, getLsbD_laneGroup_splice _ _ _ (by omega),
    testBit_blockColumn hk hi]

/-- What keeps the rest of a state in which the running context has been updated keeps the rest of the state before. -/
theorem State.othersKept_of_updMe {f : Ctx → Ctx} (h : (s.updMe f).othersKept u) : s.othersKept u := by
  obtain ⟨hctx, hbyte, hagenda, hrest⟩ := h
  exact ⟨fun d hd => (hctx d hd).trans (s.updMe_ctx_ne f d hd), hbyte, hagenda,
    (congrArg (fun q : State => { q with ctxs := s.ctxs }) hrest :)⟩

theorem Ctx.keepsBut_tr {W : List RegId} {A : List AccKind} {x y : Ctx} (h : x.keepsBut W A y) : y.tr = x.tr := by
  obtain ⟨-, -, -, -, -, hrest⟩ := h
  exact (congrArg Ctx.tr hrest :)

/-- The frame of a context whose transposer has changed besides, with the old transposer put back. -/
theorem Ctx.keepsBut_of_tr {W : List RegId} {A : List AccKind} {x y : Ctx} {r : Transposer}
    (h : { x with tr := r }.keepsBut W A y) : x.keepsBut W A { y with tr := x.tr } := by
  obtain ⟨hs, hv, hp, hscore, houtst, hrest⟩ := h
  exact ⟨hs, hv, hp, hscore, houtst, (congrArg (fun q : Ctx => { q with tr := x.tr }) hrest :)⟩

theorem exec_trpop {rows : List (BitVec 1024)} {b : Nat} (h : s.me.tr.pop = some (rows, b))
    (hleft : s.me.tr.popped < rows.length) :
    ∃ u, exec (.trpop d l) s = .next u ∧ u.me.tr = { s.me.tr with popped := s.me.tr.popped + 1 } ∧
      u.me.rdV d = splice (s.opV d) (laneBase l) 1024 (blockColumn rows b s.me.tr.popped) ∧
      s.me.keepsBut [.v d] [] { u.me with tr := s.me.tr } ∧ s.othersKept u := by
  refine ⟨_, (exec_trpop_of_some h).trans (by rw [if_neg (by omega)]), ?_⟩
  obtain ⟨hval, hme, hothers⟩ :=
    (s.updMe fun c => { c with tr := { c.tr with popped := c.tr.popped + 1 } }).setV_spec d
      (splice (s.opV d) (laneBase l) 1024 (blockColumn rows b s.me.tr.popped)) 2
  rw [State.updMe_me] at hme
  exact ⟨Ctx.keepsBut_tr hme, hval, Ctx.keepsBut_of_tr hme, State.othersKept_of_updMe hothers⟩

/-! ### The transfer stage (R188) -/

theorem State.onlyCtx_updCtx_of_eq {c : Nat} {f : Ctx → Ctx} {y : Ctx} (h : f (s.ctx c) = y) :
    s.onlyCtx (s.updCtx c f) c y :=
  h ▸ s.onlyCtx_updCtx c f

/-- No block in transfer, a block with bundles left before the last, and a block that is due. -/
theorem exec_transposeBlockReady (s : State) (c : Nat) : ∃ u, exec (.transposeBlockReady c) s = .next u ∧
    ((s.ctx c).tr.xfer = none → s.onlyCtx u c (s.ctx c)) ∧
    (∀ rows b n, (s.ctx c).tr.xfer = some (rows, b, n + 2) →
      s.onlyCtx u c { s.ctx c with tr := { (s.ctx c).tr with xfer := some (rows, b, n + 1) } }) ∧
    ∀ rows b, (s.ctx c).tr.xfer = some (rows, b, 1) →
      s.onlyCtx u c { s.ctx c with tr := { (s.ctx c).tr with xfer := none, pop := some (rows, b), popped := 0 } } := by
  refine ⟨_, rfl, fun h => ?_, fun rows b n h => ?_, fun rows b h => ?_⟩ <;> apply State.onlyCtx_updCtx_of_eq
  · simp only [h]
  · simp only [h]
    exact if_neg (by omega)
  · simp only [h]
    exact if_pos (Nat.le_refl 1)

/-! ### The statement -/

/-- Settles O24: the clauses on pushes, pops and the transfer stage are the lemmas above; TRCLR is one update of the
running context. -/
theorem transposerPushesAndPops : Obligations.TransposerPushesAndPops := by
  unfold Obligations.TransposerPushesAndPops
  intro s d a l t c x row
  refine ⟨faults_trpush, fun ht hsize hn => ?_, fun ht hsize hlast => ?_, faults_trpop,
    fun rows b hpop hleft _ hblock => ?_, ⟨_, rfl, s.onlyMe_updMe _⟩, exec_transposeBlockReady s c⟩
  · exact x.push_of_not_last row hn ▸ makes_trpush ht hsize
  · exact x.push_of_last row hlast ▸ makes_trpush ht hsize
  · obtain ⟨u, hu, htr, hval, hframe⟩ := exec_trpop (d := d) (l := l) hpop hleft
    refine ⟨u, hu, htr, fun k r hk => ?_, fun j hj hg => ?_, hframe⟩
    · rw [hval]
      exact laneGroup_splice_blockColumn _ l hblock hk
    · rw [hval, getLsbD_splice_of_other_group _ l _ hj hg]

end Sys2Proof.Machine
end

section
/-!
PROOFS. The answers of the terms unit and its persisted counts (R204, R225, R231 to R235), for O45.
-/
namespace Sys2Proof.Machine

open Sys2Proof

variable {s t u : State} {c : Nat} {sl : Slot} {a : Ask} {x : Handle} {h : Nat}

/-! ### Handles -/

@[simp] theorem State.setHandle_handle_self (s : State) (h : Nat) (x : Option Handle) :
    (s.setHandle h x).handle h = x :=
  Store.get_set_self _ _ _ _

theorem State.updHandle_of_handle (hx : s.handle h = some x) (f : Handle → Handle) :
    s.updHandle h f = s.setHandle h (some (f x)) := by
  simp only [State.updHandle, hx]

@[simp] theorem State.updHandle_ctx (s : State) (h : Nat) (f : Handle → Handle) (d : Nat) :
    (s.updHandle h f).ctx d = s.ctx d := by
  unfold State.updHandle
  split <;> rfl

/-! ### Closing a binding (R233) -/

@[simp] theorem State.endUse_ctx (s : State) (serial : BitVec 32) (holder d : Nat) :
    (s.endUse serial holder).ctx d = s.ctx d := by
  unfold State.endUse
  split
  · rfl
  · dsimp only
    split
    · rfl
    · exact State.updHandle_ctx ..

@[simp] theorem State.closeBinding_ctx_self (s : State) (c n : Nat) :
    (s.closeBinding c n).ctx c = (s.ctx c).setBinding n .none := by
  simp [State.closeBinding]

@[simp] theorem Ctx.setBinding_binding_self (y : Ctx) (n : Nat) (b : Binding) : (y.setBinding n b).binding n = b :=
  Store.get_set_self _ _ _ _

/-! ### Raising a persisted count (R235) -/

@[simp] theorem State.raiseN_ctx (s : State) (h : Nat) (x : Handle) (d : Nat) : (s.raiseN h x).ctx d = s.ctx d := by
  unfold State.raiseN
  split <;> rfl

@[simp] theorem State.raiseN_handle (s : State) (h : Nat) (x : Handle) (j : Nat) :
    (s.raiseN h x).handle j = s.handle j := by
  unfold State.raiseN
  split <;> rfl

@[simp] theorem State.raiseN_resv (s : State) (h : Nat) (x : Handle) : (s.raiseN h x).terms.resv = s.terms.resv := by
  unfold State.raiseN
  split <;> rfl

/-- A write for the handle is under way, whether it has just been started or was before. -/
theorem State.raiseN_writes (s : State) (h : Nat) (x : Handle) : ∃ w ∈ (s.raiseN h x).terms.nv, w.handle = h := by
  unfold State.raiseN
  split
  next hw => simpa using hw
  next => exact ⟨⟨h, min x.body.maxUses (x.n + 64)⟩, List.mem_append_right _ (.head _), rfl⟩

/-! ### Serials (R231) -/

/-- The search ends at a serial that may be issued, unless it runs out of fuel among serials that may not. -/
theorem nextSerial_free_or_run (used : List (BitVec 32)) (fuel : Nat) (n : BitVec 32) :
    nextSerial used fuel n ∉ 0 :: used ∨ ∀ i < fuel, n + BitVec.ofNat 32 i ∈ 0 :: used := by
  induction fuel generalizing n with
  | zero => exact .inr fun i hi => absurd hi (Nat.not_lt_zero i)
  | succ fuel ih =>
    rw [nextSerial]
    split
    next hn =>
      refine (ih (n + 1)).imp_right fun hrun i hi => ?_
      cases i with
      | zero => simpa using hn
      | succ i =>
        have hnext := hrun i (Nat.lt_of_succ_lt_succ hi)
        rw [BitVec.add_assoc, BitVec.add_comm 1] at hnext
        rwa [BitVec.ofNat_add]
    next hn => exact .inl (by simpa using hn)

/-- Serials that follow each other are distinct until they wrap. -/
theorem nodup_serials (n : BitVec 32) {k : Nat} (hk : k ≤ 2 ^ 32) :
    ((List.range k).map fun i => n + BitVec.ofNat 32 i).Nodup := by
  refine List.pairwise_map.mpr (List.pairwise_lt_range.imp_of_mem fun {i j} _ hj hlt hij => ?_)
  have hj : j < 2 ^ 32 := Nat.lt_of_lt_of_le (List.mem_range.mp hj) hk
  have htoNat := congrArg BitVec.toNat ((BitVec.add_right_inj n).mp hij)
  rw [BitVec.toNat_ofNat, BitVec.toNat_ofNat, Nat.mod_eq_of_lt (Nat.lt_trans hlt hj), Nat.mod_eq_of_lt hj] at htoNat
  exact Nat.ne_of_lt hlt htoNat

/-- Fuel for two more serials than are in use suffices: zero and these are one fewer than the serials tried. -/
theorem nextSerial_free (used : List (BitVec 32)) (n : BitVec 32) (hlen : used.length < 2 ^ 31) :
    nextSerial used (used.length + 2) n ∉ 0 :: used := by
  refine (nextSerial_free_or_run used _ n).resolve_right fun hrun => ?_
  have hsub : ((List.range (used.length + 2)).map fun i => n + BitVec.ofNat 32 i) ⊆ 0 :: used := by
    intro v hv
    obtain ⟨i, hi, rfl⟩ := List.mem_map.mp hv
    exact hrun i (List.mem_range.mp hi)
  have hle := (nodup_serials n (by omega)).length_le_of_subset hsub
  rw [List.length_map, List.length_range, List.length_cons] at hle
  omega

/-- The serial that the next open takes. -/
def State.openSerial (s : State) : BitVec 32 :=
  nextSerial (s.terms.resv.map Resv.serial) (s.terms.resv.length + 2) s.terms.nextSerial

/-- It is not zero, and no reservation has it. -/
theorem State.openSerial_free (hlen : s.terms.resv.length < 2 ^ 31) :
    s.openSerial ≠ 0 ∧ ∀ r ∈ s.terms.resv, r.serial ≠ s.openSerial := by
  have hfree := nextSerial_free (s.terms.resv.map Resv.serial) s.terms.nextSerial (by simpa using hlen)
  rw [List.length_map] at hfree
  exact ⟨fun h0 => hfree (h0 ▸ .head _), fun r hr he => hfree (.tail _ (List.mem_map.mpr ⟨r, hr, he⟩))⟩

/-! ### Questions and answers (R225) -/

/-- The slot of context `c` has put question `a`, which is not answered. -/
def State.Asked (s : State) (c : Nat) (sl : Slot) (a : Ask) : Prop :=
  (s.ctx c).asks.find? (fun a => decide (a.slot = sl) && !a.answered) = some a

/-- The questions of context `c` in `t` are those in `s`, with `f` applied to those of the slot. -/
def State.Told (s : State) (c : Nat) (sl : Slot) (f : Ask → Ask) (t : State) : Prop :=
  (t.ctx c).asks = (s.ctx c).asks.map fun q => if q.slot = sl then f q else q

/-- R235: an orderly shutdown that came before no longer covers the unit's state. -/
def State.awake (s : State) : State := { s with terms := { s.terms with alive := true } }

theorem State.told_answer (f : Ask → Ask) (hasks : (u.ctx c).asks = (s.ctx c).asks) :
    s.Told c sl f (u.answer c sl f) := by
  unfold State.Told State.answer
  rw [State.updCtx_ctx_self, hasks]

@[simp] theorem State.answer_binding (s : State) (c : Nat) (sl : Slot) (f : Ask → Ask) (n : Nat) :
    ((s.answer c sl f).ctx c).binding n = (s.ctx c).binding n := by
  rw [State.answer, State.updCtx_ctx_self]
  rfl

theorem State.Asked.slot_eq (put : s.Asked c sl a) : a.slot = sl := by
  have hfound := List.find?_some put
  obtain ⟨hslot, -⟩ := Bool.and_eq_true_iff.mp hfound
  exact of_decide_eq_true hslot

/-- The unit's answer by the kind of the question. -/
def State.answerAsk (s : State) (c : Nat) (a : Ask) : State :=
  match a.kind with
  | 0 => s.answerOpen c a
  | 1 => s.answerQuery c a
  | _ => s.answerBeat c a

theorem exec_termsUnitAnswer (put : s.Asked c sl a) :
    exec (.termsUnitAnswer c sl) s = .next (s.awake.answerAsk c a) := by
  unfold State.Asked at put
  show execTermsUnitAnswer c sl s = _
  simp only [execTermsUnitAnswer, put]
  rfl

theorem exec_open (put : s.Asked c sl a) (hk : a.kind = 0) :
    exec (.termsUnitAnswer c sl) s = .next (s.awake.answerOpen c a) := by
  simp only [exec_termsUnitAnswer put, State.answerAsk, hk]

theorem exec_query (put : s.Asked c sl a) (hk : a.kind = 1) :
    exec (.termsUnitAnswer c sl) s = .next (s.awake.answerQuery c a) := by
  simp only [exec_termsUnitAnswer put, State.answerAsk, hk]

theorem exec_beat (put : s.Asked c sl a) (hk : a.kind = 2) :
    exec (.termsUnitAnswer c sl) s = .next (s.awake.answerBeat c a) := by
  simp only [exec_termsUnitAnswer put, State.answerAsk, hk]

/-! ### Opens (R231) -/

theorem State.openCheck_of_no_handle (c : Nat) (hx : s.handle h = none) : s.openCheck c h = (1, false) := by
  simp only [State.openCheck, hx]

/-- An open that fails a check learns which. -/
theorem exec_open_denied {k : Nat} {w : Bool} (put : s.Asked c sl a) (hkind : a.kind = 0) (hh : a.handle.toNat = h)
    (hcheck : s.openCheck c h = (k, w)) (hk : k ≠ 0) : ∃ t, exec (.termsUnitAnswer c sl) s = .next t ∧
      s.Told c sl (fun q => { q with answered := true, check := k, unsync := w }) t ∧
      t.terms = { s.terms with alive := true } := by
  have hawake : s.awake.openCheck c a.handle.toNat = (k, w) := hh ▸ hcheck
  have hanswer : s.awake.answerOpen c a =
      s.awake.answer c sl fun q => { q with answered := true, check := k, unsync := w } := by
    simp only [State.answerOpen, hawake, if_pos hk, put.slot_eq]
  exact ⟨_, (exec_open put hkind).trans (congrArg _ hanswer), s.told_answer _ rfl, rfl⟩

/-- An open that the persisted count does not cover waits for a write of it. -/
theorem exec_open_waits (put : s.Asked c sl a) (hkind : a.kind = 0) (hh : a.handle.toNat = h)
    (hx : s.handle h = some x) (hcheck : (s.openCheck c h).1 = 0) (hn : x.n < x.used + x.reserved + 1) :
    ∃ t, exec (.termsUnitAnswer c sl) s = .next t ∧ (t.ctx c).asks = (s.ctx c).asks ∧ t.handle h = some x ∧
      ∃ w ∈ t.terms.nv, w.handle = h := by
  subst hh
  have hx' : s.awake.handle a.handle.toNat = some x := hx
  have hcheck' : (s.awake.openCheck c a.handle.toNat).1 = 0 := hcheck
  have hanswer : s.awake.answerOpen c a = s.awake.raiseN a.handle.toNat x := by
    simp only [State.answerOpen, hcheck', hx', ne_eq, not_true_eq_false, if_false, if_pos hn]
  refine ⟨_, (exec_open put hkind).trans (congrArg _ hanswer), ?_, ?_, State.raiseN_writes ..⟩
  · rw [State.raiseN_ctx]
    rfl
  · rw [State.raiseN_handle, hx']

/-- What an open that passes leaves beside its answer, before its count may be raised: one use more reserved, and its
reservation. -/
def State.reserve (s : State) (c h : Nat) (x : Handle) : State :=
  State.setHandle { s with terms := { s.terms with
    nextSerial := s.openSerial + 1
    resv := s.terms.resv ++ [⟨s.openSerial, h, (s.ctx c).part, false, 0, (s.ctx c).identity⟩] } } h
    (some { x with reserved := x.reserved + 1 })

/-- The same, with the write of a raised count where few uses are left under the present one. -/
def State.reserveAhead (s : State) (c h : Nat) (x : Handle) : State :=
  if x.n ≤ x.used + (x.reserved + 1) + 16 ∧ x.n < x.body.maxUses then
    (s.reserve c h x).raiseN h { x with reserved := x.reserved + 1 }
  else s.reserve c h x

theorem State.answerOpen_of_covered (hx : s.handle a.handle.toNat = some x)
    (hcheck : (s.openCheck c a.handle.toNat).1 = 0) (hn : ¬ x.n < x.used + x.reserved + 1) :
    s.answerOpen c a = (s.reserveAhead c a.handle.toNat x).answer c a.slot fun q =>
      { q with answered := true, check := 0, serial := s.openSerial } := by
  simp only [State.answerOpen, hcheck, hx, ne_eq, not_true_eq_false, if_false, if_neg hn]
  rfl

theorem State.reserveAhead_ctx (s : State) (c h : Nat) (x : Handle) (d : Nat) :
    (s.reserveAhead c h x).ctx d = s.ctx d := by
  unfold State.reserveAhead
  split
  · exact State.raiseN_ctx ..
  · rfl

theorem State.reserveAhead_handle (s : State) (c h : Nat) (x : Handle) :
    (s.reserveAhead c h x).handle h = some { x with reserved := x.reserved + 1 } := by
  unfold State.reserveAhead
  split
  · rw [State.raiseN_handle, State.reserve, State.setHandle_handle_self]
  · rw [State.reserve, State.setHandle_handle_self]

theorem State.reserveAhead_resv (s : State) (c h : Nat) (x : Handle) : (s.reserveAhead c h x).terms.resv =
    s.terms.resv ++ [⟨s.openSerial, h, (s.ctx c).part, false, 0, (s.ctx c).identity⟩] := by
  unfold State.reserveAhead
  split
  · exact State.raiseN_resv ..
  · rfl

/-- An open that the persisted count covers reserves a use under a serial of its own. -/
theorem exec_open_reserves (put : s.Asked c sl a) (hkind : a.kind = 0) (hh : a.handle.toNat = h)
    (hx : s.handle h = some x) (hcheck : (s.openCheck c h).1 = 0) (hn : x.used + x.reserved + 1 ≤ x.n)
    (hlen : s.terms.resv.length < 2 ^ 31) : ∃ t n, exec (.termsUnitAnswer c sl) s = .next t ∧ n ≠ 0 ∧
      (∀ r ∈ s.terms.resv, r.serial ≠ n) ∧
      s.Told c sl (fun q => { q with answered := true, check := 0, serial := n }) t ∧
      t.handle h = some { x with reserved := x.reserved + 1 } ∧
      t.terms.resv = s.terms.resv ++ [⟨n, h, (s.ctx c).part, false, 0, (s.ctx c).identity⟩] := by
  subst hh
  obtain ⟨hzero, hfree⟩ := State.openSerial_free hlen
  have hanswer := put.slot_eq ▸ State.answerOpen_of_covered (s := s.awake) hx hcheck (Nat.not_lt.mpr hn)
  refine ⟨_, s.openSerial, (exec_open put hkind).trans (congrArg _ hanswer), hzero, hfree, State.told_answer _ ?_,
    s.awake.reserveAhead_handle .., s.awake.reserveAhead_resv ..⟩
  rw [State.reserveAhead_ctx]
  rfl

/-! ### Queries (R233) -/

/-- Uses that remain under a handle, none where it is not installed. -/
def State.usesLeft (s : State) (h : Nat) : Nat :=
  match s.handle h with
  | some x => x.left
  | none => 0

/-- The value of a USEQ for binding `b`. -/
def State.queryValue (s : State) (b : Binding) : DWord :=
  if b.st = .free then 0
  else BitVec.ofNat 64 ((if b.st = .reserved then 1 else 3) + 256 * b.handle.toNat + 2 ^ 32 * s.usesLeft b.handle.toNat)

theorem State.queryValue_eq_code (s : State) (b : Binding) : s.queryValue b = if b.st = .free then 0
    else BitVec.ofNat 64 (b.st.code + 256 * b.handle.toNat + 2 ^ 32 * s.usesLeft b.handle.toNat) := by
  unfold State.queryValue
  cases b.st <;> rfl

theorem State.answerQuery_eq (s : State) (c : Nat) (a : Ask) : s.answerQuery c a = s.answer c a.slot fun q =>
    { q with answered := true, check := 0, value := s.queryValue ((s.ctx c).binding a.ub.toNat) } := by
  rw [State.queryValue_eq_code]
  rfl

theorem exec_query_tells (put : s.Asked c sl a) (hkind : a.kind = 1) :
    ∃ t, exec (.termsUnitAnswer c sl) s = .next t ∧ s.Told c sl (fun q => { q with
      answered := true, check := 0, value := s.queryValue ((s.ctx c).binding a.ub.toNat) }) t := by
  have hanswer := put.slot_eq ▸ s.awake.answerQuery_eq c a
  exact ⟨_, (exec_query put hkind).trans (congrArg _ hanswer), State.told_answer _ rfl⟩

/-! ### Beats (R204, R233) -/

section Beat
variable {b : Binding}

theorem neverExpires_eq_false_iff (n : Nat) : neverExpires n = false ↔ n ≠ 2 ^ 64 - 1 :=
  decide_eq_false_iff_not

/-- What the commit of the reserved binding `b` leaves beside its answer. -/
def State.commitUse (s : State) (c n : Nat) (b : Binding) (x : Handle) : State :=
  let s1 := s.setHandle b.handle.toNat (some { x with
    reserved := x.reserved - 1
    used := x.used + 1
    meter := (x.meter + x.body.charge) % 2 ^ 64 })
  State.updCtx { s1 with terms := { s1.terms with
    resv := s1.terms.resv.map fun (r : Resv) =>
      if r.serial = b.serial then { r with committed := true, ctime := s.tclock } else r } } c fun y =>
    y.setBinding n { b with st := .committed, ctime := BitVec.ofNat 64 s.tclock }

theorem State.answerBeat_of_free (hst : ((s.ctx c).binding a.ub.toNat).st = .free) : s.answerBeat c a =
    s.answer c a.slot fun q => { q with answered := true, check := 1 } := by
  simp only [State.answerBeat, hst]

theorem State.answerBeat_of_reserved (hb : (s.ctx c).binding a.ub.toNat = b) (hst : b.st = .reserved)
    (hx : s.handle b.handle.toNat = some x) : s.answerBeat c a =
      if x.body.expiry ≠ 2 ^ 64 - 1 ∧ x.body.expiry ≤ s.tclock then
        (s.closeBinding c a.ub.toNat).answer c a.slot fun q => { q with answered := true, check := 2 }
      else (s.commitUse c a.ub.toNat b x).answer c a.slot fun q => { q with answered := true, check := 0 } := by
  simp only [State.answerBeat, hb, hst, hx, neverExpires_eq_false_iff]
  rfl

theorem State.answerBeat_of_committed (hb : (s.ctx c).binding a.ub.toNat = b) (hst : b.st = .committed)
    (hx : s.handle b.handle.toNat = some x) : s.answerBeat c a = s.answer c a.slot fun q => { q with
      answered := true
      check := if x.body.span ≠ 0 ∧ b.ctime.toNat + x.body.span ≤ s.tclock then 3 else 0 } := by
  simp only [State.answerBeat, hb, hst, hx]
  split <;> rfl

theorem exec_beat_free (put : s.Asked c sl a) (hkind : a.kind = 2)
    (hst : ((s.ctx c).binding a.ub.toNat).st = .free) : ∃ t, exec (.termsUnitAnswer c sl) s = .next t ∧
      s.Told c sl (fun q => { q with answered := true, check := 1 }) t := by
  have hanswer := put.slot_eq ▸ State.answerBeat_of_free (s := s.awake) hst
  exact ⟨_, (exec_beat put hkind).trans (congrArg _ hanswer), State.told_answer _ rfl⟩

/-- The first beat under terms that have not expired commits the use and meters its charge. -/
theorem exec_beat_commits (put : s.Asked c sl a) (hkind : a.kind = 2) (hb : (s.ctx c).binding a.ub.toNat = b)
    (hh : b.handle.toNat = h) (hx : s.handle h = some x) (hst : b.st = .reserved)
    (hlive : x.body.expiry = 2 ^ 64 - 1 ∨ s.tclock < x.body.expiry) :
    ∃ t, exec (.termsUnitAnswer c sl) s = .next t ∧
      s.Told c sl (fun q => { q with answered := true, check := 0 }) t ∧
      t.handle h = some { x with
        reserved := x.reserved - 1
        used := x.used + 1
        meter := (x.meter + x.body.charge) % 2 ^ 64 } ∧
      (t.ctx c).binding a.ub.toNat = { b with st := .committed, ctime := BitVec.ofNat 64 s.tclock } ∧
      ∀ r ∈ t.terms.resv, r.serial = b.serial → r.committed = true ∧ r.ctime = s.tclock := by
  subst hh
  have hexpired : ¬ (x.body.expiry ≠ 2 ^ 64 - 1 ∧ x.body.expiry ≤ s.awake.tclock) :=
    fun ⟨hends, hle⟩ => hlive.elim hends (Nat.not_lt.mpr hle)
  have hanswer := put.slot_eq ▸ (State.answerBeat_of_reserved (s := s.awake) hb hst hx).trans (if_neg hexpired)
  refine ⟨_, (exec_beat put hkind).trans (congrArg _ hanswer), State.told_answer _ ?_,
    State.setHandle_handle_self .., ?_, fun r hr hserial => ?_⟩
  · rw [State.commitUse, State.updCtx_ctx_self]
    rfl
  · rw [State.answer_binding, State.commitUse, State.updCtx_ctx_self, Ctx.setBinding_binding_self]
    rfl
  · obtain ⟨r, -, rfl⟩ := List.mem_map.mp hr
    by_cases hr : r.serial = b.serial
    · rw [if_pos hr]
      exact ⟨rfl, rfl⟩
    · rw [if_neg hr] at hserial
      exact absurd hserial hr

/-- The first beat under terms that have expired closes the binding. -/
theorem exec_beat_expired (put : s.Asked c sl a) (hkind : a.kind = 2) (hb : (s.ctx c).binding a.ub.toNat = b)
    (hh : b.handle.toNat = h) (hx : s.handle h = some x) (hst : b.st = .reserved)
    (hends : x.body.expiry ≠ 2 ^ 64 - 1) (hexpired : x.body.expiry ≤ s.tclock) :
    ∃ t, exec (.termsUnitAnswer c sl) s = .next t ∧
      s.Told c sl (fun q => { q with answered := true, check := 2 }) t ∧
      (t.ctx c).binding a.ub.toNat = .none := by
  subst hh
  have hanswer := put.slot_eq ▸ (State.answerBeat_of_reserved (s := s.awake) hb hst hx).trans
    (if_pos (And.intro hends hexpired))
  refine ⟨_, (exec_beat put hkind).trans (congrArg _ hanswer), State.told_answer _ ?_, ?_⟩
  · rw [State.closeBinding_ctx_self]
    rfl
  · rw [State.answer_binding, State.closeBinding_ctx_self, Ctx.setBinding_binding_self]

/-- A later beat fails once the span of its commit has passed. -/
theorem exec_beat_committed (put : s.Asked c sl a) (hkind : a.kind = 2) (hb : (s.ctx c).binding a.ub.toNat = b)
    (hh : b.handle.toNat = h) (hx : s.handle h = some x) (hst : b.st = .committed) :
    ∃ t, exec (.termsUnitAnswer c sl) s = .next t ∧ t.handle h = some x ∧ s.Told c sl (fun q => { q with
      answered := true
      check := if x.body.span ≠ 0 ∧ b.ctime.toNat + x.body.span ≤ s.tclock then 3 else 0 }) t := by
  subst hh
  have hanswer := put.slot_eq ▸ State.answerBeat_of_committed (s := s.awake) hb hst hx
  exact ⟨_, (exec_beat put hkind).trans (congrArg _ hanswer), hx, State.told_answer _ rfl⟩

end Beat

/-! ### A count that has been written (R225, R235) -/

/-- `u` is `s` but for its agenda, which has lost no event. -/
def State.AddsEvents (s u : State) : Prop :=
  { u with agenda := s.agenda } = s ∧ ∀ e ∈ s.agenda, e ∈ u.agenda

theorem State.AddsEvents.refl (s : State) : s.AddsEvents s := ⟨rfl, fun _ he => he⟩

theorem State.AddsEvents.trans (h1 : s.AddsEvents t) (h2 : t.AddsEvents u) : s.AddsEvents u := by
  obtain ⟨hrest, hkept⟩ := h1
  obtain ⟨hrest', hkept'⟩ := h2
  refine ⟨?_, fun e he => hkept' e (hkept e he)⟩
  calc { u with agenda := s.agenda }
      = { { u with agenda := t.agenda } with agenda := s.agenda } := rfl
    _ = { t with agenda := s.agenda } := by rw [hrest']
    _ = s := hrest

theorem State.addsEvents_schedule (s : State) (d : Nat) (i : Instr) : s.AddsEvents (s.schedule d i) :=
  ⟨rfl, fun _ he => (mem_insertEv _ _ _ _).mpr (.inr he)⟩

theorem State.AddsEvents.cycle_eq (hu : s.AddsEvents u) : u.cycle = s.cycle := (congrArg State.cycle hu.1 :)
theorem State.AddsEvents.ctxs_eq (hu : s.AddsEvents u) : u.ctxs = s.ctxs := (congrArg State.ctxs hu.1 :)
theorem State.AddsEvents.terms_eq (hu : s.AddsEvents u) : u.terms = s.terms := (congrArg State.terms hu.1 :)

theorem State.addsEvents_foldl {β : Type} {f : State → β → State} (hf : ∀ (u : State) b, u.AddsEvents (f u b))
    (s : State) (l : List β) : s.AddsEvents (l.foldl f s) :=
  foldl_keeps s.AddsEvents f l s (.refl s) fun u b _ hu => hu.trans (hf u b)

/-- An event that one element of the list adds, whatever was added before it, is there at the end. -/
theorem State.mem_agenda_foldl {β : Type} {f : State → β → State} (hf : ∀ (u : State) b, u.AddsEvents (f u b))
    {l : List β} {b : β} (hb : b ∈ l) {e : Nat × Instr} (he : ∀ u, s.AddsEvents u → e ∈ (f u b).agenda) :
    e ∈ (l.foldl f s).agenda := by
  obtain ⟨before, behind, rfl⟩ := List.mem_iff_append.mp hb
  rw [List.foldl_append, List.foldl_cons]
  obtain ⟨-, hkept⟩ := State.addsEvents_foldl hf (f (before.foldl f s) b) behind
  exact hkept e (he _ (State.addsEvents_foldl hf s before))

/-- What waking does for one question of context `c`. -/
def State.wakeOpen (h c : Nat) (s : State) (a : Ask) : State :=
  if a.answered = false ∧ a.kind = 0 ∧ a.handle.toNat = h then s.schedule 0 (.termsUnitAnswer c a.slot) else s

/-- What waking does for the questions of one context. -/
def State.wakeCtx (h : Nat) (s : State) (e : Nat × Ctx) : State := e.2.asks.foldl (State.wakeOpen h e.1) s

theorem State.wakeOpens_eq (s : State) (h : Nat) : s.wakeOpens h = s.ctxs.foldl (State.wakeCtx h) s := rfl

theorem State.addsEvents_wakeOpen (h c : Nat) (s : State) (a : Ask) : s.AddsEvents (s.wakeOpen h c a) := by
  unfold State.wakeOpen
  split
  · exact s.addsEvents_schedule ..
  · exact .refl s

theorem State.addsEvents_wakeCtx (h : Nat) (s : State) (e : Nat × Ctx) : s.AddsEvents (s.wakeCtx h e) :=
  State.addsEvents_foldl (State.addsEvents_wakeOpen h e.1) s _

theorem State.addsEvents_wakeOpens (s : State) (h : Nat) : s.AddsEvents (s.wakeOpens h) :=
  s.wakeOpens_eq h ▸ State.addsEvents_foldl (State.addsEvents_wakeCtx h) s _

/-- Every open that waits is answered in this cycle. -/
theorem State.mem_agenda_wakeOpens {e : Nat × Ctx} (he : e ∈ s.ctxs) {q : Ask} (hq : q ∈ e.2.asks)
    (hopen : q.answered = false ∧ q.kind = 0 ∧ q.handle.toNat = h) :
    (s.cycle, .termsUnitAnswer e.1 q.slot) ∈ (s.wakeOpens h).agenda := by
  rw [State.wakeOpens_eq]
  refine State.mem_agenda_foldl (State.addsEvents_wakeCtx h) he fun t ht => ?_
  refine State.mem_agenda_foldl (State.addsEvents_wakeOpen h e.1) hq fun u hu => ?_
  rw [State.wakeOpen, if_pos hopen, ← (ht.trans hu).cycle_eq]
  exact (mem_insertEv _ _ _ _).mpr (.inl rfl)

/-- The write of a raised count of handle `h` is no longer under way. -/
def State.nvEnded (s : State) (h : Nat) : State :=
  { s with terms := { s.terms with nv := s.terms.nv.filter fun q => decide (q.handle ≠ h) } }

theorem exec_nvStoreWriteComplete {w : NvWrite} (hw : s.terms.nv.find? (fun w => decide (w.handle = h)) = some w)
    (hx : s.handle h = some x) : exec (.nvStoreWriteComplete h) s =
      .next (((s.nvEnded h).setHandle h (some { x with n := w.n })).wakeOpens h) := by
  have hx' : (s.nvEnded h).handle h = some x := hx
  rw [← State.updHandle_of_handle hx' fun y => { y with n := w.n }]
  show execNvStoreWriteComplete h s = _
  simp only [execNvStoreWriteComplete, hw]
  rfl

theorem exec_nvStoreWriteComplete_wakes {w : NvWrite}
    (hw : s.terms.nv.find? (fun w => decide (w.handle = h)) = some w) (hx : s.handle h = some x) :
    ∃ t, exec (.nvStoreWriteComplete h) s = .next t ∧ t.handle h = some { x with n := w.n } ∧
      (∀ v ∈ t.terms.nv, v.handle ≠ h) ∧ t.ctxs = s.ctxs ∧
      ∀ e ∈ s.ctxs, ∀ q ∈ e.2.asks, q.answered = false → q.kind = 0 → q.handle.toNat = h →
        (s.cycle, .termsUnitAnswer e.1 q.slot) ∈ t.agenda := by
  have hadds := ((s.nvEnded h).setHandle h (some { x with n := w.n })).addsEvents_wakeOpens h
  refine ⟨_, exec_nvStoreWriteComplete hw hx, ?_, fun v hv => ?_, hadds.ctxs_eq, fun e he q hq ha hk hh =>
    State.mem_agenda_wakeOpens (s := (s.nvEnded h).setHandle h _) he hq ⟨ha, hk, hh⟩⟩
  · rw [State.handle, hadds.terms_eq]
    exact State.setHandle_handle_self ..
  · rw [hadds.terms_eq] at hv
    exact of_decide_eq_true (List.mem_filter.mp hv).2

/-! ### The statement -/

/-- Settles O45: each clause is the lemma above about its case, an open of a handle that is not installed being one
that fails check 1. -/
theorem theTermsUnitReservesCommitsAndRefuses : Obligations.TheTermsUnitReservesCommitsAndRefuses := by
  unfold Obligations.TheTermsUnitReservesCommitsAndRefuses
  intro s c sl a x h i told b put
  refine ⟨fun hput hkind hh hx => exec_open_denied hput hkind hh (State.openCheck_of_no_handle c hx) Nat.one_ne_zero,
    fun hput hx hkind hh => ⟨fun k u => exec_open_denied hput hkind hh, exec_open_reserves hput hkind hh hx,
      exec_open_waits hput hkind hh hx⟩,
    exec_query_tells, fun hput hkind hh hx => ⟨exec_beat_free hput hkind, exec_beat_commits hput hkind rfl hh hx,
      exec_beat_expired hput hkind rfl hh hx, exec_beat_committed hput hkind rfl hh hx⟩,
    fun w => exec_nvStoreWriteComplete_wakes⟩

end Sys2Proof.Machine
end

section
/-!
PROOFS. Memory right after reset (R309), for O60.
-/
namespace Sys2Proof.Machine

open Sys2Proof

/-- Where no cell is listed every byte reads as one that nothing has written, in a current line and in a stale one. -/
theorem State.byte_of_no_cells {s : State} (h : s.mem = []) (k : Nat) : s.byte k = memDefault := by
  unfold State.byte
  split
  · rw [h, Store.get_nil]
  · rfl

/-- Settles O60: the reset state lists no cell at all. -/
theorem resetMemoryIsCanonicalAndZero : Obligations.ResetMemoryIsCanonicalAndZero := by
  unfold Obligations.ResetMemoryIsCanonicalAndZero
  exact ⟨rfl, State.byte_of_no_cells rfl⟩

end Sys2Proof.Machine
end

section
/-!
PROOFS. A launch record whose status word lies in a line that a busy tile keeps, for O49.
-/
namespace Sys2Proof.Machine

open Sys2Proof

/-- A record that may have to write a status word waits for a busy tile that keeps the word's line (R160, R216). -/
theorem exec_launchRecordArrival_of_busy {s : State} {p : Nat} {system : Bool} {rec : BitVec 1024} {r : Launch}
    (hlive : (s.part p).live = true)
    (hr : r = { launchOf (leBytes 128 rec.toNat) with
      pri := if system = false ∧ (launchOf (leBytes 128 rec.toNat)).pri = 0 then 1
        else (launchOf (leBytes 128 rec.toNat)).pri })
    (hbusy : s.launchBusy p r = true) :
    exec (.launchRecordArrival p system rec) s = .next (s.schedule 1 (.launchRecordArrival p system rec)) := by
  subst hr
  show execLaunchRecordArrival p system rec s = _
  simp only [execLaunchRecordArrival, hlive, hbusy, or_true, if_true, Bool.true_eq_false, if_false]

/-! ### The counterexample -/

/-- A launch record: image 0, kernel 0, one member on slot 0 of virtual pair (0, 0), no ports, its status word at
0x1000. -/
def launchWithStatus : BitVec 1024 :=
  BitVec.ofNat 1024 (2 ^ 40 + (2 ^ 256 - 1) * 2 ^ 256 + 0x1000 * 2 ^ 576)

/-- The only kernel of the image that the record names. -/
def plainKernel : Kernel := ⟨0, 1, 0, 0, 0, 0, 0, 65536⟩

def plainImage : Image :=
  { text := ⟨[], 0, [], none, 0⟩, safes := [], kernels := [plainKernel], sums := [], digest := 0 }

/-- A partition whose image has the kernel, and a DIRTY tile that a copy keeps busy and that shares line 0x20, which
holds the record's status word. -/
def busyStatusWord : State :=
  { State.reset with
    ctxs := [(0, { Ctx.free with tiles := [(0, some { dirtyAt 0x20 with busy := [.copy] })] })]
    parts := [(0, { Part.reset with live := true, n := 1, M := 0x20000, images := [(0, some plainImage)] })] }

/-- Refutes O49, in its clause about a record that passes every check: the record does not join the waiting list while a
busy tile keeps the line of its status word, but comes again in the next cycle. -/
theorem not_launchesAreQueuedPlacedAndAged : ¬ Obligations.LaunchesAreQueuedPlacedAndAged := by
  unfold Obligations.LaunchesAreQueuedPlacedAndAged
  intro h
  obtain ⟨harrival, -⟩ := h busyStatusWord 0
  obtain ⟨-, -, hlive⟩ := harrival true launchWithStatus
  obtain ⟨-, hjoins⟩ := hlive (by decide +kernel) (.inl rfl)
  obtain ⟨-, hqueued⟩ := hjoins (by decide +kernel) (by decide +kernel) (by decide +kernel) (by decide +kernel)
    plainImage plainKernel (by decide +kernel)
  obtain ⟨t, e, w, ht, hpart, -⟩ := hqueued (by decide +kernel)
  have hwaits := exec_launchRecordArrival_of_busy (s := busyStatusWord) (p := 0) (system := true)
    (rec := launchWithStatus) (by decide +kernel) rfl (by decide +kernel)
  obtain rfl : _ = t := Host.Outcome.next.inj (hwaits.symm.trans ht)
  have hlist := congrArg Part.waiting hpart
  rw [State.schedule_part] at hlist
  simp at hlist

end Sys2Proof.Machine
end

section
/-!
PROOFS. A QUEUE_PUSH to a queue whose storage is no storage of R259: the write of the time overwrites the line, for O51.
-/
namespace Sys2Proof.Machine

open Sys2Proof

/-! ### The counterexample -/

/-- The queue of `queueAstray`, of two lines. Its first entry lies in two lines of memory, numbered 2^57 and 2^57 + 1,
and the time of that entry in the next. -/
def portAstray : Port := ⟨true, 2 ^ 64 + 0x40, 2, 0, []⟩

/-- A DIRTY tile of zeros that shares the second line of the entry and the line of the time. -/
def tileAstray : Tile := { dirtyAt 0 with phys := [(0, 2 ^ 57 + 2), (1, 2 ^ 57 + 3)] }

/-- Port 0 of partition 0 is a queue with its storage off the end of the partition's address space, in the memory of
partition 1 and not at the start of a line. Byte 64 of the line at 0x1000 of host memory is 1, and the doorbell of the
physical function has rung. No PORT_SET makes such a queue (`Part.storageOk`, R259), and nothing in O51 keeps it
out. -/
def queueAstray : State :=
  { State.reset with
    mem := [(keyOf hostSpace 0x1040, 1)]
    ctxs := [(0, { Ctx.free with tiles := [(0, some tileAstray)] })]
    parts := [(0, { Part.reset with live := true, M := 0x20000, ports := [(0, portAstray)] }),
      (1, { Part.reset with live := true, M := 0x20000 })]
    host := { HostIf.reset with ready := true, mail := [(0, { Mailbox.reset with door := true })] } }

/-- The push of the line: the line is stored, then the write of the time recalls the DIRTY tile, whose zeros go home to
the second half of the line. -/
theorem queueAstray_push : ∃ t, exec (.queuePush 0 0 0x1000 .zero) queueAstray = .next t ∧
    t.byte (keyOf 0 (2 ^ 64 + 0x40) + 64) = 0 := by
  refine ⟨_, rfl, ?_⟩
  decide +kernel

/-! ### The statement -/

/-- What a reply leaves of memory. -/
theorem Replied.byte_eq {u t : State} {fn st v : Nat} (h : Replied u t fn st v) (k : Nat) : u.byte k = t.byte k := by
  obtain ⟨-, hrest⟩ := h
  rw [← hrest]
  rfl

/-- Refutes O51, in its clause about QUEUE_PUSH: the entry of the queue lies in two lines of memory, and a DIRTY tile
shares the second of them and the line of the time. The write of the time sends the tile home, over the line just
pushed. -/
theorem not_imagesPortsLeasesAndSessions : ¬ Obligations.ImagesPortsLeasesAndSessions := by
  unfold Obligations.ImagesPortsLeasesAndSessions
  intro h
  obtain ⟨hport, -⟩ := h queueAstray 0 0 0 0x1000 0 0 .zero (by decide +kernel) (by decide +kernel)
    (by decide +kernel)
  obtain ⟨-, -, -, -, hpush, -⟩ := hport (by decide +kernel)
  obtain ⟨-, hroom⟩ := hpush (by decide +kernel) (by decide +kernel) (by decide +kernel)
  obtain ⟨u, t, ht, hreplied, -, hline⟩ := hroom (by decide +kernel) (by decide +kernel)
  obtain ⟨v, hv, hbyte⟩ := queueAstray_push
  obtain rfl : t = v := Host.Outcome.next.inj (ht.symm.trans hv)
  have hentry : (u.rdMem (keyOf 0 (2 ^ 64 + 0x40)) 128)[64]? = some 0 := by
    rw [u.getElem?_rdMem (by decide), hreplied.byte_eq, hbyte]
  have hsource : (queueAstray.hostBytes 0x1000 128)[64]? = some 1 := by decide +kernel
  rw [show u.rdMem (keyOf 0 (2 ^ 64 + 0x40)) 128 = queueAstray.hostBytes 0x1000 128 from hline (by decide +kernel),
    hsource] at hentry
  exact absurd hentry (by decide)

end Sys2Proof.Machine
end

section
/-!
PROOFS. A stop for a context that the list of contexts holds twice, for O52.
-/
namespace Sys2Proof.Machine

open Sys2Proof

/-! ### The counterexample -/

/-- A resize in PREPARE whose PARK saves gang 0. -/
def resizeOfGang : Resize :=
  { phase := .prepare, clusters := 0, slices := 0, newMap := [], timeout := 1000, park := true, inPolicy := true
    fn := 0, moving := [0], migrated := 0, started := 0, switchTo := none, lockTo := none, late := 0 }

/-- The list of contexts holds slot 0 twice: a free context, which is what every read of the slot finds, and behind it
an occupied one of the gang that the resize parks. No write of a context leaves such a list, whose keys do not rise
(`Store.wf`), and nothing in O52 keeps it out. -/
def slotTwice : State :=
  { State.reset with
    ctxs := [(0, { Ctx.free with pc := 1 }), (0, { Ctx.free with occupied := true })]
    parts := [(0, { Part.reset with live := true, resize := some resizeOfGang })] }

/-- The resize counts slot 0 among the contexts that have to stop, by the hidden entry; the stop goes to the free
context that the slot reads as, which takes none. -/
theorem slotTwice_quiesce : ∃ t, exec (.moultQuiesce 0) slotTwice = .next t ∧ (t.ctx 0).stopReq = none := by
  refine ⟨_, rfl, ?_⟩
  decide +kernel

/-! ### The statement -/

/-- Refutes O52, in its clause about QUIESCE: a context that has to stop for the resize, and that is not ending, has not
been asked to. -/
theorem not_partitionsAreGrantedResizedAndDestroyed : ¬ Obligations.PartitionsAreGrantedResizedAndDestroyed := by
  unfold Obligations.PartitionsAreGrantedResizedAndDestroyed
  intro h
  obtain ⟨-, hphases⟩ := h slotTwice 0 0
  obtain ⟨hprepare, -⟩ := hphases resizeOfGang (by decide +kernel)
  obtain ⟨t, w, ht, -, -, -, -, hstops⟩ := hprepare rfl
  obtain ⟨v, hv, hnone⟩ := slotTwice_quiesce
  obtain rfl : t = v := Host.Outcome.next.inj (ht.symm.trans hv)
  exact hstops 0 (by decide +kernel) (by decide +kernel) hnone

end Sys2Proof.Machine
end

section
/-!
PROOFS. Opening, asking about and closing a use binding (R230, R231, R233), for O44.
-/
namespace Sys2Proof.Machine

open Sys2Proof

variable {s t u : State} {i : Instr}

/-! ### Changes of the running context -/

theorem State.onlyMe_trans {y z : Ctx} (h : s.onlyMe t y) (g : t.onlyMe u z) : s.onlyMe u z := by
  obtain ⟨-, hctx, hrest⟩ := h
  obtain ⟨gme, gctx, grest⟩ := g
  have hcur : t.cur = s.cur := (congrArg State.cur hrest :)
  have gcur : u.cur = t.cur := (congrArg State.cur grest :)
  refine ⟨gme, fun d hd => (gctx d (by rwa [hcur])).trans (hctx d hd), ?_⟩
  exact (congrArg (fun q : State => { q with ctxs := s.ctxs }) grest).trans hrest

theorem State.onlyMe_raiseT (s : State) (c : Cause) (op det : Option DWord) (w : Word) :
    s.onlyMe (s.raiseT c op det w) { s.me with iss := { s.me.iss with
      faults := s.me.iss.faults ++ [⟨s.slot.index, c, op, det, w⟩] } } := s.onlyMe_updIss _

theorem faults_of_exec {c : Cause} {op det : Option DWord} (h : exec i s = .next (s.raise c op det)) :
    Faults s i c op det := ⟨_, h, s.onlyMe_raise c op det⟩

/-- An instruction that sets something going and stalls. -/
theorem makes_of_sets {l : Later} (h : exec i s = .next (s.sets l).stalls) :
    Makes s i { s.me with iss := { s.me.iss with stall := true, later := s.me.iss.later ++ [l] } } := by
  refine ⟨_, h, ?_⟩
  have hstalls := (s.sets l).onlyMe_updIss fun i => { i with stall := true }
  rw [show (s.sets l).me = _ from s.updIss_me _] at hstalls
  exact State.onlyMe_trans (s.onlyMe_updIss _) hstalls

/-! ### A question to the terms unit (R225) -/

/-- The state in which the running context has taken the unit's answer. -/
def State.tookAnswer (s : State) : State := s.updMe fun c => c.dropAsk s.slot

theorem State.onlyMe_tookAnswer (s : State) : s.onlyMe s.tookAnswer (answered s) := s.onlyMe_updMe _

theorem State.tookAnswer_me (s : State) : s.tookAnswer.me = answered s := s.updMe_me _

/-- An instruction that goes on by `f` with the answer to its question, and makes of the context what `F` says: it puts
the question, stalls until it is answered, and goes on. -/
theorem asks_of_consult {ub : BitVec 3} {kind : Nat} {x : BitVec 12} {f : Ask → State → State}
    {F : Ask → Ctx → Prop} (h : exec i s = .next (s.consult ub kind x f))
    (hf : ∀ q, ∃ y, s.tookAnswer.onlyMe (f q s.tookAnswer) y ∧ F q y) :
    (s.askOf s.slot kind = none → Makes s i { s.me with iss := { s.me.iss with
      stall := true, later := s.me.iss.later ++ [.askTerms s.slot ub kind x] } }) ∧
    ∀ q, s.askOf s.slot kind = some q → (q.answered = false → Stalls s i) ∧
      (q.answered = true → ∃ y, Makes s i y ∧ F q y) := by
  unfold State.consult at h
  refine ⟨fun hq => makes_of_sets ?_, fun q hq => ⟨fun ha => stalls_of_exec ?_, fun ha => ?_⟩⟩
  · rw [h, hq]
  · rw [h, hq]
    simp [ha]
  · obtain ⟨y, hy, hF⟩ := hf q
    refine ⟨y, ⟨_, h, ?_⟩, hF⟩
    simp only [hq, ha, if_true]
    exact State.onlyMe_trans s.onlyMe_tookAnswer hy

/-! ### USEOPEN (R231) -/

section Open
variable {ub : BitVec 3} {a : BitVec 6}

theorem faults_useopen_of_handle (h : 4096 ≤ (s.opS a).toNat) :
    Faults s (.useopen ub a) .illegalOperand (some (s.opS a)) none :=
  faults_of_exec (congrArg Host.Outcome.next (if_pos (by omega)))

theorem exec_useopen_of_handle (h : (s.opS a).toNat < 4096) : exec (.useopen ub a) s = .next
    (if s.me.ubN ≤ ub.toNat ∨ (s.me.binding ub.toNat).st ≠ .free then
      s.raise .illegalOperand (some (ub.setWidth 64)) none
    else s.consult ub 0 ((s.opS a).setWidth 12) fun q u =>
      if q.check = 0 then u.updMe fun c => c.setBinding ub.toNat ⟨.reserved, (s.opS a).setWidth 12, q.serial, 0⟩
      else u.raiseT (openCause q.check) (some (s.opS a))
        (some (BitVec.ofNat 64 (q.check + if q.unsync then 8 else 0))) (termsField ((s.opS a).setWidth 12) ub)) := by
  have hfits : ¬ (s.opS a).toNat / 4096 ≠ 0 := by omega
  exact congrArg Host.Outcome.next (if_neg hfits)

theorem termsField_of_handle (h : (s.opS a).toNat < 4096) : termsField ((s.opS a).setWidth 12) ub =
    BitVec.ofNat 32 ((s.opS a).toNat + 4096 * ub.toNat + 32768) := by
  rw [termsField, BitVec.toNat_setWidth, Nat.mod_eq_of_lt h]

end Open

/-! ### USECLOSE and USEQ (R233) -/

section Close
variable {ub : BitVec 3}

theorem exec_useclose_of_claimed (h : ub.toNat < s.me.ubN) : exec (.useclose ub) s = .next
    (if s.beatsOn ub then s.stalls
    else if (s.me.binding ub.toNat).st = .free then
      s.raiseT .useState none none (termsField (s.me.binding ub.toNat).handle ub)
    else s.closeBinding s.cur ub.toNat) :=
  congrArg Host.Outcome.next (if_neg (Nat.not_le.mpr h))

/-- The unit no longer lists a reservation. -/
def State.withoutResv (s : State) (r : Resv) : State :=
  { s with terms := { s.terms with resv := s.terms.resv.filter fun q => decide (q ≠ r) } }

theorem State.endUse_of_some {serial : BitVec 32} {holder : Nat} {r : Resv}
    (hr : s.terms.resv.find? (fun r => decide (r.serial = serial ∧ r.holder = holder)) = some r) :
    s.endUse serial holder = if r.committed then s.withoutResv r
      else (s.withoutResv r).updHandle r.handle fun h => { h with reserved := h.reserved - 1 } := by
  unfold State.endUse
  simp only [hr]
  rfl

/-- A use that the unit holds under this serial for this holder is given up: it leaves the unit's list, and one that is
only reserved goes back to its handle. -/
theorem State.endUse_spec {serial : BitVec 32} {holder : Nat} {r : Resv} {x : Handle}
    (hr : s.terms.resv.find? (fun r => decide (r.serial = serial ∧ r.holder = holder)) = some r)
    (hx : s.handle r.handle = some x) :
    (s.endUse serial holder).terms.resv = s.terms.resv.filter (fun q => decide (q ≠ r)) ∧
      (s.endUse serial holder).handle r.handle =
        some (if r.committed then x else { x with reserved := x.reserved - 1 }) := by
  have hx' : (s.withoutResv r).handle r.handle = some x := hx
  rw [State.endUse_of_some hr]
  split
  · exact ⟨rfl, hx'⟩
  · rw [State.updHandle_of_handle hx']
    exact ⟨rfl, State.setHandle_handle_self ..⟩

theorem State.updHandle_onlyTerms (s : State) (h : Nat) (f : Handle → Handle) :
    { s.updHandle h f with terms := s.terms } = s := by
  unfold State.updHandle
  split <;> rfl

theorem State.endUse_onlyTerms (s : State) (serial : BitVec 32) (holder : Nat) :
    { s.endUse serial holder with terms := s.terms } = s := by
  cases hr : s.terms.resv.find? fun r => decide (r.serial = serial ∧ r.holder = holder) with
  | none =>
    unfold State.endUse
    rw [hr]
  | some r =>
    rw [State.endUse_of_some hr]
    split
    · rfl
    · exact congrArg (fun q : State => { q with terms := s.terms }) ((s.withoutResv r).updHandle_onlyTerms ..)

/-- What closing a binding of the running context does beside the terms unit. -/
theorem State.closeBinding_cur_spec (s : State) (n : Nat) :
    (s.closeBinding s.cur n).me = s.me.setBinding n .none ∧ (s.closeBinding s.cur n).mem = s.mem ∧
      ∀ c, c ≠ s.cur → (s.closeBinding s.cur n).ctx c = s.ctx c := by
  have hrest := (s.updCtx s.cur fun x => x.setBinding n .none).endUse_onlyTerms
    ((s.ctx s.cur).binding n).serial (s.ctx s.cur).identity
  have hcur : (s.closeBinding s.cur n).cur = s.cur := (congrArg State.cur hrest :)
  refine ⟨?_, (congrArg State.mem hrest :), fun c hc => ?_⟩
  · rw [State.me, hcur]
    exact s.closeBinding_ctx_self s.cur n
  · rw [State.closeBinding, State.endUse_ctx, State.updCtx_ctx_ne _ _ _ _ hc]

theorem exec_useclose_closes (h : ub.toNat < s.me.ubN) (hbeats : s.beatsOn ub = false)
    (hst : (s.me.binding ub.toNat).st ≠ .free) :
    exec (.useclose ub) s = .next (s.closeBinding s.cur ub.toNat) := by
  rw [exec_useclose_of_claimed h, if_neg (by simp [hbeats]), if_neg hst]

/-- A query's answer goes into a scalar register that is usable at once. -/
theorem State.onlyMe_setS_one (s : State) (d : BitVec 6) (v : DWord) :
    s.onlyMe (s.setS d v 1) { s.me with s := if d = 0 then s.me.s else Store.set 0 s.me.s d.toNat v } := by
  by_cases hd : d = 0
  · subst hd
    exact s.onlyMe_refl
  · rw [s.setS_one hd, if_neg hd]
    exact s.onlyMe_updMe _

end Close

/-! ### The statement -/

/-- Settles O44: the first two instructions consult the unit, by `asks_of_consult`; a close is the end of a use. -/
theorem useBindingsOpenAndClose : Obligations.UseBindingsOpenAndClose := by
  unfold Obligations.UseBindingsOpenAndClose
  intro s ub a d
  refine ⟨faults_useopen_of_handle, fun hh hub => ?claimed, fun hh hub hfree => ?opens,
    fun hub => ⟨faults_of_exec (congrArg Host.Outcome.next (if_pos hub)),
      faults_of_exec (congrArg Host.Outcome.next (if_pos hub))⟩,
    fun hub => ⟨?asks, fun hbeats => ?beats, fun hbeats hst => ?free, fun hbeats hst => ?closes⟩⟩
  case claimed =>
    exact faults_of_exec ((exec_useopen_of_handle hh).trans (congrArg Host.Outcome.next (if_pos hub)))
  case opens =>
    have hcan : ¬ (s.me.ubN ≤ ub.toNat ∨ (s.me.binding ub.toNat).st ≠ .free) := by
      rintro (h | h)
      · omega
      · exact h hfree
    refine asks_of_consult ((exec_useopen_of_handle hh).trans (congrArg Host.Outcome.next (if_neg hcan))) fun q => ?_
    by_cases hq : q.check = 0
    · rw [if_pos hq]
      refine ⟨_, s.tookAnswer.onlyMe_updMe _, fun _ => ?_, fun h => absurd hq h⟩
      rw [s.tookAnswer_me]
      rfl
    · rw [if_neg hq]
      refine ⟨_, s.tookAnswer.onlyMe_raiseT .., fun h => absurd h hq, fun _ => ?_⟩
      rw [s.tookAnswer_me, termsField_of_handle hh]
      rfl
  case asks =>
    refine asks_of_consult (congrArg Host.Outcome.next (if_neg (Nat.not_le.mpr hub))) fun q => ?_
    refine ⟨_, s.tookAnswer.onlyMe_setS_one d q.value, ?_⟩
    rw [s.tookAnswer_me]
    rfl
  case beats => exact stalls_of_exec ((exec_useclose_of_claimed hub).trans (congrArg _ (if_pos hbeats)))
  case free =>
    refine ⟨_, ?_, s.onlyMe_raiseT ..⟩
    rw [exec_useclose_of_claimed hub, if_neg (by simp [hbeats]), if_pos hst]
    rfl
  case closes =>
    obtain ⟨hme, hmem, hctx⟩ := s.closeBinding_cur_spec ub.toNat
    exact ⟨_, exec_useclose_closes hub hbeats hst, hme, hmem, hctx,
      fun r x hr hx => State.endUse_spec (s := s.updCtx s.cur _) hr hx⟩

end Sys2Proof.Machine
end

section
/-!
PROOFS. Capabilities and the increments at Chorus (R246, R252 to R257), for O41.
-/
namespace Sys2Proof.Machine

open Sys2Proof

variable {s t u : State} {i : Instr} {n p : BitVec 6}

/-! ### Changes that a round has to look at (R253) -/

theorem State.noteChange_spec (s : State) (p : Nat) :
    s.onlyPart { s.noteChange p with agenda := s.agenda, delays := s.delays } p { s.part p with changed := true } := by
  have hnote := s.onlyPart_updPart p fun P => { P with changed := true }
  unfold State.noteChange
  dsimp only
  split <;> exact hnote

/-- An increment that Chorus counts. -/
theorem State.increment_part (s : State) (p : Nat) (port : BitVec 6) (t : LTime) (n : Int) :
    (s.increment p port t n).part p = { s.part p with
      counts := addCount (s.part p).counts ⟨port, t, n⟩, changed := true } := by
  obtain ⟨hpart, -⟩ := (s.updPart p fun P => { P with counts := addCount P.counts ⟨port, t, n⟩ }).noteChange_spec p
  rw [State.updPart_part_self] at hpart
  exact hpart

theorem State.increment_ctx (s : State) (p : Nat) (port : BitVec 6) (t : LTime) (n : Int) (c : Nat) :
    (s.increment p port t n).ctx c = s.ctx c := by
  obtain ⟨-, -, hrest⟩ := (s.updPart p fun P => { P with counts := addCount P.counts ⟨port, t, n⟩ }).noteChange_spec p
  exact State.ctx_congr (congrArg State.ctxs hrest) c

/-- A decrement joins the batch of a cluster, and the partition has changed. -/
theorem State.decrement_spec (s : State) (cl p : Nat) (port : BitVec 6) (t : LTime) :
    let u := s.decrement cl p port t
    (u.cluster cl).batch = addCount (s.cluster cl).batch ⟨port, t, -1⟩ ∧ (u.part p).changed = true ∧
      u.ctxs = s.ctxs ∧ u.mem = s.mem ∧ u.cur = s.cur ∧ u.slot = s.slot := by
  let batched := s.updCluster cl fun k => { k with batch := addCount k.batch ⟨port, t, -1⟩ }
  obtain ⟨hpart, -, hrest⟩ := batched.noteChange_spec p
  refine ⟨?_, (congrArg Part.changed hpart :), (congrArg State.ctxs hrest :), (congrArg State.mem hrest :),
    (congrArg State.cur hrest :), (congrArg State.slot hrest :)⟩
  have hclusters : (batched.noteChange p).clusters = batched.clusters := (congrArg State.clusters hrest :)
  have hcluster : (batched.noteChange p).cluster cl = batched.cluster cl := by
    unfold State.cluster
    rw [hclusters]
  exact (congrArg Cluster.batch hcluster).trans (congrArg Cluster.batch (s.updCluster_cluster_self cl _))

/-! ### The port of an instruction (R246, R254) -/

/-- The faults of an instruction that names a port: one that is not bound, and a partition whose frontiers are
frozen. -/
theorem faults_of_withPort {f : BitVec 6 → State} (h : exec i s = .next (s.withPort n f)) :
    (s.me.port n = none → Faults s i .illegalOperand (some (n.setWidth 64)) none) ∧
    ∀ x, s.me.port n = some p → (s.part s.me.part).underflow = some x →
      Faults s i .frontierUnderflow (some (x.1.setWidth 64)) (some (BitVec.ofNat 64 (x.2.toNat / 2 ^ 48))) := by
  unfold State.withPort at h
  refine ⟨fun hp => faults_of_exec ?_, fun x hp hx => faults_of_exec ?_⟩
  · rw [h, hp]
  · rw [h, hp]
    simp only [hx]
    rfl

theorem State.withPort_of_ready (h : portReady s n p) (f : BitVec 6 → State) : s.withPort n f = f p := by
  obtain ⟨hp, hu⟩ := h
  simp only [State.withPort, hp, hu]

theorem exec_of_withPort {f : BitVec 6 → State} (hp : portReady s n p) (h : exec i s = .next (s.withPort n f)) :
    exec i s = .next (f p) := h.trans (congrArg _ (State.withPort_of_ready hp f))

/-! ### Instructions that count first (R252) -/

/-- The state in which the running context has dropped the increment of its slot. -/
def State.tookInc (s : State) : State := s.updMe fun c => c.dropInc s.slot

theorem State.onlyMe_tookInc (s : State) : s.onlyMe s.tookInc
    { s.me with incs := s.me.incs.filter fun i => decide (i.slot ≠ s.slot) } := s.onlyMe_updMe _

/-- An instruction that goes on by `f` once its increment is acknowledged. -/
theorem counts_of_counted {t : LTime} {hold : Bool} {f : State → State} {go : Prop}
    (h : exec i s = .next (s.counted p t hold f)) (hgo : exec i s = .next (f s.tookInc) → go) :
    Counts s i p t hold go := by
  unfold State.counted at h
  refine ⟨fun hj => makes_of_sets ?_, fun j hj => ⟨fun hst => hgo ?_, fun hst => stalls_of_exec ?_, fun hst => ?_⟩⟩
  · rw [h, hj]
  · rw [h, hj]
    simp only [hst]
    rfl
  · rw [h, hj]
    obtain hst | hst | hst := hst <;> simp only [hst]
  · refine ⟨_, h, ?_⟩
    simp only [hj, hst]
    have hraise := s.tookInc.onlyMe_raise .frontierOrder none (some 1)
    rw [show s.tookInc.me = _ from s.updMe_me _] at hraise
    exact State.onlyMe_trans s.onlyMe_tookInc hraise

/-! ### CAPHOLD, CAPADV and CAPDROP (R255 to R257) -/

section Caps
variable {d : Depth} {k : Cap}

theorem LTime.lt_iff (a b : LTime) : LTime.lt a b = true ↔ a.toNat < b.toNat := decide_eq_true_iff

/-- What advancing and dropping do beside the running context: -1 at the time that was held. -/
def ReleasesAt (s u : State) (p : BitVec 6) (k : Cap) : Prop :=
  (u.cluster (s.cur / 32)).batch = addCount (s.cluster (s.cur / 32)).batch ⟨p, k.t, -1⟩ ∧
    (u.part s.me.part).changed = true ∧ u.mem = s.mem ∧ u.slot = s.slot ∧ ∀ c, c ≠ s.cur → u.ctx c = s.ctx c

/-- The running context's capability of a port moves to a time. -/
def Ctx.advanceCap (p : BitVec 6) (t : LTime) (c : Ctx) : Ctx :=
  { c with caps := c.caps.map fun x => if x.port = p then { x with t := t } else x }

/-- The running context's capability of a port goes. -/
def Ctx.dropCap (p : BitVec 6) (c : Ctx) : Ctx := { c with caps := c.caps.filter fun x => decide (x.port ≠ p) }

/-- A decrement by the running context's cluster, then the change `f` of the context. -/
def State.releases (p : BitVec 6) (k : Cap) (f : Ctx → Ctx) (u : State) : State :=
  (u.decrement (clusterOf u.cur) u.me.part p k.t).updMe f

/-- A release from a state in which the running context alone may have changed. -/
theorem releasesAt_releases {y : Ctx} (h : s.onlyMe t y) (hpart : y.part = s.me.part) (p : BitVec 6) (k : Cap)
    (f : Ctx → Ctx) : ReleasesAt s (t.releases p k f) p k ∧ (t.releases p k f).me = f y := by
  obtain ⟨hme, hctx, hrest⟩ := h
  have hcur : t.cur = s.cur := (congrArg State.cur hrest :)
  have hclusters : t.clusters = s.clusters := (congrArg State.clusters hrest :)
  have hcluster : t.cluster (s.cur / 32) = s.cluster (s.cur / 32) := by
    unfold State.cluster
    rw [hclusters]
  obtain ⟨hbatch, hchanged, hctxs, hmem, hcur', hslot⟩ := t.decrement_spec (clusterOf t.cur) t.me.part p k.t
  have hkept := State.ctx_congr hctxs
  rw [hme, hpart] at hbatch hchanged hctxs hmem hcur' hslot hkept
  rw [hcur, clusterOf, hcluster] at hbatch
  unfold State.releases
  rw [hme, hpart]
  refine ⟨⟨?_, hchanged, hmem.trans (congrArg State.mem hrest :), hslot.trans (congrArg State.slot hrest :),
    fun c hc => ?_⟩, ?_⟩
  · rw [hcur, clusterOf]
    exact hbatch
  · rw [State.updMe_ctx_ne _ _ _ (by rwa [hcur', hcur]), hkept, hctx c hc]
  · rw [State.updMe_me, State.me, hcur', hkept]
    exact congrArg f hme

section Ready
variable (hp : portReady s n p)
include hp

theorem faults_caphold (h : s.me.cap p ≠ none ∨ 16 ≤ s.me.caps.length) :
    Faults s (.caphold n d) .illegalOperand (some (n.setWidth 64)) none := by
  rw [← Option.isSome_iff_ne_none] at h
  exact faults_of_exec ((exec_of_withPort hp rfl).trans (congrArg Host.Outcome.next (if_pos h)))

theorem counts_caphold (hcap : s.me.cap p = none) (hroom : s.me.caps.length < 16) :
    let t := s.me.iss.time.trunc d.val
    Counts s (.caphold n d) p t true (Makes s (.caphold n d) { s.me with
      incs := s.me.incs.filter fun i => decide (i.slot ≠ s.slot)
      caps := s.me.caps ++ [⟨p, n, d.val, t⟩] }) := by
  have hcan : ¬ ((s.me.cap p).isSome ∨ 16 ≤ s.me.caps.length) := by
    rintro (h | h)
    · simp [hcap] at h
    · omega
  refine counts_of_counted ((exec_of_withPort hp rfl).trans (congrArg Host.Outcome.next (if_neg hcan))) fun h => ?_
  refine ⟨_, h, ?_⟩
  have hadd := s.tookInc.onlyMe_updMe fun c => { c with caps := c.caps ++ [⟨p, n, d.val, s.me.iss.time.trunc d.val⟩] }
  rw [show s.tookInc.me = _ from s.updMe_me _] at hadd
  exact State.onlyMe_trans s.onlyMe_tookInc hadd

/-- Neither instruction finds a capability to advance or to drop. -/
theorem faults_of_no_cap (hcap : s.me.cap p = none) :
    Faults s (.capadv n) .illegalOperand (some (n.setWidth 64)) none ∧
      Faults s (.capdrop n) .illegalOperand none none := by
  refine ⟨faults_of_exec ((exec_of_withPort hp rfl).trans ?_), faults_of_exec ((exec_of_withPort hp rfl).trans ?_)⟩
  · simp only [hcap]
  · simp only [hcap]

section Held
variable (hk : s.me.cap p = some k)
include hk

theorem exec_capadv : exec (.capadv n) s = .next
    (if LTime.lt (s.me.iss.time.trunc k.depth) k.t then s.raise .frontierOrder none (some 2)
    else if s.me.iss.time.trunc k.depth = k.t then s
    else if s.accessesOpen = true ∧ (s.incOf s.slot).isNone = true then s.stalls
    else s.counted p (s.me.iss.time.trunc k.depth) false
      (State.releases p k (Ctx.advanceCap p (s.me.iss.time.trunc k.depth)))) := by
  rw [exec_of_withPort hp rfl]
  simp only [hk]
  rfl

theorem exec_capadv_of_later (ht : k.t.toNat < (s.me.iss.time.trunc k.depth).toNat) : exec (.capadv n) s = .next
    (if s.accessesOpen = true ∧ (s.incOf s.slot).isNone = true then s.stalls
    else s.counted p (s.me.iss.time.trunc k.depth) false
      (State.releases p k (Ctx.advanceCap p (s.me.iss.time.trunc k.depth)))) := by
  have hlt : ¬ LTime.lt (s.me.iss.time.trunc k.depth) k.t = true := by
    rw [LTime.lt_iff]
    omega
  have hne : s.me.iss.time.trunc k.depth ≠ k.t := fun h => by rw [h] at ht; exact lt_irrefl _ ht
  rw [exec_capadv hp hk, if_neg hlt, if_neg hne]

theorem exec_capdrop : exec (.capdrop n) s = .next (if s.accessesOpen then s.stalls
    else s.releases p k (Ctx.dropCap p)) := by
  rw [exec_of_withPort hp rfl]
  simp only [hk]
  rfl

theorem exec_capadv_counted (ht : k.t.toNat < (s.me.iss.time.trunc k.depth).toNat)
    (h : allPast s 2 ∨ s.incOf s.slot ≠ none) : exec (.capadv n) s = .next
      (s.counted p (s.me.iss.time.trunc k.depth) false
        (State.releases p k (Ctx.advanceCap p (s.me.iss.time.trunc k.depth)))) := by
  have hgoes : ¬ (s.accessesOpen = true ∧ (s.incOf s.slot).isNone = true) := by
    rintro ⟨hopen, hnone⟩
    exact h.elim ((s.openAt_iff 2).mp hopen) fun hsome => hsome (Option.isNone_iff_eq_none.mp hnone)
  rw [exec_capadv_of_later hp hk ht, if_neg hgoes]

theorem counts_capadv (ht : k.t.toNat < (s.me.iss.time.trunc k.depth).toNat)
    (h : allPast s 2 ∨ s.incOf s.slot ≠ none) : Counts s (.capadv n) p (s.me.iss.time.trunc k.depth) false
      (∃ u, exec (.capadv n) s = .next u ∧ ReleasesAt s u p k ∧
        u.me = Ctx.advanceCap p (s.me.iss.time.trunc k.depth) { s.me with
          incs := s.me.incs.filter fun i => decide (i.slot ≠ s.slot) }) :=
  counts_of_counted (exec_capadv_counted hp hk ht h) fun hgo =>
    ⟨_, hgo, releasesAt_releases s.onlyMe_tookInc rfl p k _⟩

theorem stalls_capadv (ht : k.t.toNat < (s.me.iss.time.trunc k.depth).toNat) (hopen : ¬ allPast s 2)
    (hnone : s.incOf s.slot = none) : Stalls s (.capadv n) := by
  have hwaits : s.accessesOpen = true ∧ (s.incOf s.slot).isNone = true :=
    ⟨(s.openAt_iff 2).mpr hopen, Option.isNone_iff_eq_none.mpr hnone⟩
  exact stalls_of_exec ((exec_capadv_of_later hp hk ht).trans (congrArg _ (if_pos hwaits)))

theorem faults_capadv (ht : (s.me.iss.time.trunc k.depth).toNat < k.t.toNat) :
    Faults s (.capadv n) .frontierOrder none (some 2) :=
  faults_of_exec ((exec_capadv hp hk).trans (congrArg _ (if_pos ((LTime.lt_iff _ _).mpr ht))))

theorem changesNothing_capadv (ht : s.me.iss.time.trunc k.depth = k.t) : ChangesNothing s (.capadv n) := by
  have hlt : ¬ LTime.lt (s.me.iss.time.trunc k.depth) k.t = true := by
    rw [LTime.lt_iff, ht]
    exact lt_irrefl _
  rw [ChangesNothing, exec_capadv hp hk, if_neg hlt, if_pos ht]

theorem stalls_capdrop (hopen : ¬ allPast s 2) : Stalls s (.capdrop n) :=
  stalls_of_exec ((exec_capdrop hp hk).trans (congrArg _ (if_pos ((s.openAt_iff 2).mpr hopen))))

theorem releases_capdrop (hpast : allPast s 2) : ∃ u, exec (.capdrop n) s = .next u ∧ ReleasesAt s u p k ∧
    u.me = Ctx.dropCap p s.me :=
  ⟨_, (exec_capdrop hp hk).trans (congrArg _ (if_neg fun hopen => (s.openAt_iff 2).mp hopen hpast)),
    releasesAt_releases s.onlyMe_refl rfl p k _⟩

end Held
end Ready
end Caps

/-! ### An increment on its way to Chorus (R252) -/

section Arrival
variable {c : Nat} {sl : Slot} {x : Inc}

theorem mem_clusterCtxs (cl e : Nat) : e ∈ clusterCtxs cl ↔ e / 32 = cl := by
  simp only [clusterCtxs, List.mem_map, List.mem_range]
  constructor
  · rintro ⟨j, hj, rfl⟩
    omega
  · rintro rfl
    exact ⟨e % 32, by omega, by omega⟩

theorem State.incBehind_iff (s : State) (c : Nat) (x : Inc) : s.incBehind c x = true ↔
    ∃ e, e / 32 = c / 32 ∧ ∃ j ∈ (s.ctx e).incs, j.st = .sent ∧ j.id < x.id := by
  simp only [State.incBehind, List.any_eq_true, mem_clusterCtxs, clusterOf, decide_eq_true_eq]

/-- What the announcement of a port says of the time of an increment: it has passed it. -/
def refuses (s : State) (c : Nat) (x : Inc) : Prop :=
  x.hold = true ∧ ∃ f, Store.get none (s.part (s.ctx c).part).ann x.port.toNat = some f ∧ f.passes x.t = true

/-- The increments of a slot of a context get a mark, and the answer is under way. -/
def State.answersInc (s : State) (c : Nat) (sl : Slot) (st : IncSt) : State :=
  (s.updCtx c fun k => { k with incs := k.incs.map fun x => if x.slot = sl then { x with st := st } else x
    }).after 0 (.incrementAck c sl)

theorem State.answersInc_incs (s : State) (c : Nat) (sl : Slot) (st : IncSt) :
    ((s.answersInc c sl st).ctx c).incs = (s.ctx c).incs.map fun x => if x.slot = sl then { x with st := st } else x :=
  congrArg Ctx.incs (s.updCtx_ctx_self c fun k =>
    { k with incs := k.incs.map fun x => if x.slot = sl then { x with st := st } else x })

theorem State.answersInc_agenda (s : State) (c : Nat) (sl : Slot) (st : IncSt) :
    ∃ w, (w, .incrementAck c sl) ∈ (s.answersInc c sl st).agenda :=
  ⟨_, (mem_insertEv ..).mpr (.inl rfl)⟩

variable (hx : (s.ctx c).incs.find? (fun i => decide (i.slot = sl ∧ i.st = .sent)) = some x)
include hx

theorem exec_incrementArrival_of_behind (h : s.incBehind c x = true) :
    exec (.incrementArrival c sl) s = .next (s.schedule 1 (.incrementArrival c sl)) := by
  refine congrArg Host.Outcome.next ?_
  simp only [hx, h]
  rfl

theorem exec_incrementArrival_of_first (h : ¬ s.incBehind c x = true) :
    (refuses s c x → exec (.incrementArrival c sl) s = .next (s.answersInc c sl .refused)) ∧
    (¬ refuses s c x → exec (.incrementArrival c sl) s =
      .next ((s.increment (s.ctx c).part x.port x.t 1).answersInc c sl .counted)) := by
  refine ⟨fun ⟨hhold, f, hann, hpass⟩ => congrArg Host.Outcome.next ?_, fun hnot => congrArg Host.Outcome.next ?_⟩
  · simp only [hx, if_neg h, hann, hhold, hpass]
    rfl
  · cases hann : Store.get none (s.part (s.ctx c).part).ann x.port.toNat with
    | none =>
      have hkeeps : ¬ (x.hold = true ∧ false = true) := fun hboth => Bool.false_ne_true hboth.2
      simp only [hx, if_neg h, hann, if_neg hkeeps]
      rfl
    | some f =>
      have hkeeps : ¬ (x.hold = true ∧ f.passes x.t = true) := fun ⟨hhold, hpass⟩ => hnot ⟨hhold, f, hann, hpass⟩
      simp only [hx, if_neg h, hann, if_neg hkeeps]
      rfl

end Arrival

/-- The answer that a context holds once it has come back. -/
def IncSt.comesBack : IncSt → IncSt
  | .counted => .acked
  | .refused => .ackedRefused
  | x => x

theorem State.onlyCtx_incrementAck (s : State) (c : Nat) (sl : Slot) :
    ∃ u, exec (.incrementAck c sl) s = .next u ∧ s.onlyCtx u c { s.ctx c with
      incs := (s.ctx c).incs.map fun x => if x.slot = sl then { x with st := x.st.comesBack } else x } :=
  ⟨_, rfl, s.onlyCtx_updCtx c _⟩

/-! ### The statement -/

/-- Settles O41: every instruction goes through the port that it names; an increment is counted before its holder
goes on. -/
theorem capabilitiesCountWhatTheyHold : Obligations.CapabilitiesCountWhatTheyHold := by
  unfold Obligations.CapabilitiesCountWhatTheyHold
  intro s n p d
  refine ⟨fun i hi => ?ports, fun hp => ⟨⟨faults_caphold hp, counts_caphold hp⟩, faults_of_no_cap hp, fun k hk =>
    ⟨faults_capadv hp hk, changesNothing_capadv hp hk, stalls_capadv hp hk, counts_capadv hp hk,
      stalls_capdrop hp hk, releases_capdrop hp hk⟩⟩, fun c sl x hx => ?arrival⟩
  case ports =>
    simp only [List.mem_cons, List.not_mem_nil, or_false] at hi
    obtain rfl | rfl | rfl | rfl | rfl | rfl | rfl := hi <;> exact faults_of_withPort rfl
  case arrival =>
    refine ⟨fun h => exec_incrementArrival_of_behind hx ((s.incBehind_iff c x).mpr h), fun h => ?first,
      s.onlyCtx_incrementAck c sl⟩
    rw [← s.incBehind_iff c x] at h
    obtain ⟨hrefused, hcounted⟩ := exec_incrementArrival_of_first hx h
    by_cases hlate : refuses s c x
    · obtain ⟨w, hw⟩ := s.answersInc_agenda c sl .refused
      exact ⟨_, w, hrefused hlate, hw, fun _ => ⟨s.answersInc_incs .., rfl⟩, fun hn => absurd hlate hn⟩
    · obtain ⟨w, hw⟩ := (s.increment (s.ctx c).part x.port x.t 1).answersInc_agenda c sl .counted
      refine ⟨_, w, hcounted hlate, hw, fun hl => absurd hl hlate, fun _ => ⟨?_, ?_⟩⟩
      · rw [State.answersInc_incs, State.increment_ctx]
      · exact congrArg Part.counts (s.increment_part ..)

end Sys2Proof.Machine
end

section
/-!
PROOFS. The rounds of Chorus (R248, R252 to R254), for O43.
-/
namespace Sys2Proof.Machine

open Sys2Proof

variable {s t : State} {p : Nat} {P : Part}

/-! ### The least of the held times (R248) -/

theorem leastTime_eq_inf : ∀ l : List LTime, leastTime l = .inf ↔ l = []
  | [] => by simp [leastTime]
  | t :: r => by
    unfold leastTime
    split <;> simp

/-- A finite least time is one of the list, and none of the list is before it. -/
theorem mem_of_leastTime (t : LTime) : ∀ l : List LTime, leastTime l = .fin t →
    t ∈ l ∧ ∀ u ∈ l, t.toNat ≤ u.toNat
  | [], h => by simp [leastTime] at h
  | a :: r, h => by
    unfold leastTime at h
    split at h
    next hr =>
      obtain rfl := Frontier.fin.inj h
      obtain rfl := (leastTime_eq_inf r).mp hr
      simp
    next u hr =>
      obtain ⟨hmem, hleast⟩ := mem_of_leastTime u r hr
      have ht := Frontier.fin.inj h
      split at ht
      next hlt =>
        subst ht
        rw [LTime.lt_iff] at hlt
        exact ⟨.tail _ hmem, List.forall_mem_cons.mpr ⟨hlt.le, hleast⟩⟩
      next hlt =>
        subst ht
        rw [LTime.lt_iff] at hlt
        exact ⟨.head _, List.forall_mem_cons.mpr ⟨le_rfl, fun v hv => (Nat.le_of_not_lt hlt).trans (hleast v hv)⟩⟩

/-- The times at which the pairs that count more than 0 hold a port back. -/
def Part.heldTimes (P : Part) (sums : List Delta) (n : BitVec 6) : List LTime :=
  (sums.filter fun e => decide (0 < e.n)).flatMap (P.holdsAt n)

theorem Part.mem_heldTimes (P : Part) (sums : List Delta) (n : BitVec 6) (t : LTime) :
    t ∈ P.heldTimes sums n ↔ ∃ e ∈ sums, 0 < e.n ∧ t ∈ P.holdsAt n e := by
  simp only [Part.heldTimes, List.mem_flatMap, List.mem_filter, decide_eq_true_eq, and_assoc]

theorem Part.frontier_eq_inf (P : Part) (sums : List Delta) (n : BitVec 6) :
    P.frontier sums n = .inf ↔ ∀ t, t ∉ P.heldTimes sums n :=
  (leastTime_eq_inf _).trans List.eq_nil_iff_forall_not_mem

/-- A port that nothing holds has no finite frontier. -/
theorem Part.bears_iff (P : Part) (sums : List Delta) (n : BitVec 6) :
    P.bears sums n = true ↔ P.frontier sums n ≠ .inf := by
  rw [Part.frontier, Ne, leastTime_eq_inf, Part.bears]
  simp

/-! ### What is announced (R253) -/

/-- The announcement of a port: the frontier computed, or the greater one announced before. -/
def announcement (g : Option Frontier) (f : Frontier) : Option Frontier :=
  match g, f with
  | none, .inf => none
  | none, .fin u => some (.fin u)
  | some (.fin g), .fin u => some (.fin (if g.toNat < u.toNat then u else g))
  | some _, _ => some .inf

theorem Part.announce_eq (P : Part) (sums : List Delta) (n : BitVec 6) :
    P.announce sums n.toNat = announcement (Store.get none P.ann n.toNat) (P.frontier sums n) := by
  have hn : BitVec.ofNat 6 n.toNat = n := by simp
  unfold Part.announce
  rw [hn]
  cases hg : Store.get none P.ann n.toNat with
  | none =>
    cases hf : P.frontier sums n with
    | inf =>
      have hbears : ¬ P.bears sums n = true := fun h => (P.bears_iff sums n).mp h hf
      simp [announcement, hbears]
    | fin u =>
      have hbears : P.bears sums n = true := (P.bears_iff sums n).mpr (by simp [hf])
      simp [announcement, hbears, hf]
  | some g =>
    cases g <;> cases hf : P.frontier sums n <;> simp [announcement, Frontier.max, LTime.lt_iff, hf]

section Fold
variable {α : Type} [DecidableEq α]

/-- Writing the values of `f` at a list of keys. -/
theorem Store.get_foldl_set (d : α) (f : Nat → α) (j : Nat) : ∀ (l : List Nat) (m : Store α),
    Store.get d (l.foldl (fun a k => Store.set d a k (f k)) m) j = if j ∈ l then f j else Store.get d m j
  | [], m => by simp
  | k :: l, m => by
    rw [List.foldl_cons, Store.get_foldl_set d f j l]
    by_cases hjl : j ∈ l
    · simp [hjl]
    · by_cases hjk : j = k
      · subst hjk
        simp [hjl]
      · rw [Store.get_set_ne _ _ _ _ _ hjk]
        simp [hjl, hjk]

end Fold

/-- The announcements of all ports. -/
def Part.nextAnn (P : Part) (sums : List Delta) : Store (Option Frontier) :=
  (List.range 64).foldl (fun a n => Store.set none a n (P.announce sums n)) P.ann

theorem Part.get_nextAnn (P : Part) (sums : List Delta) (n : BitVec 6) : Store.get none (P.nextAnn sums) n.toNat =
    announcement (Store.get none P.ann n.toNat) (P.frontier sums n) := by
  rw [Part.nextAnn, Store.get_foldl_set, if_pos (List.mem_range.mpr n.isLt), Part.announce_eq]

/-! ### One change of several clusters -/

/-- The clusters of a list change by `g`. -/
def State.mapClusters (s : State) (l : List Nat) (g : Cluster → Cluster) : State :=
  l.foldl (fun s k => s.updCluster k g) s

theorem State.mapClusters_onlyClusters (g : Cluster → Cluster) : ∀ (l : List Nat) (s : State),
    { s.mapClusters l g with clusters := s.clusters } = s
  | [], _ => rfl
  | k :: l, s => congrArg (fun u : State => { u with clusters := s.clusters })
      (State.mapClusters_onlyClusters g l (s.updCluster k g))

theorem State.mapClusters_part (s : State) (l : List Nat) (g : Cluster → Cluster) (p : Nat) :
    (s.mapClusters l g).part p = s.part p := by
  have hparts : (s.mapClusters l g).parts = s.parts := (congrArg State.parts (s.mapClusters_onlyClusters g l) :)
  unfold State.part
  rw [hparts]

theorem State.mapClusters_cluster {g : Cluster → Cluster} (hg : ∀ x, g (g x) = g x) (j : Nat) :
    ∀ (l : List Nat) (s : State),
      (s.mapClusters l g).cluster j = if j ∈ l then g (s.cluster j) else s.cluster j
  | [], s => by simp [State.mapClusters]
  | k :: l, s => by
    have ih := State.mapClusters_cluster hg j l (s.updCluster k g)
    rw [State.mapClusters, List.foldl_cons, ← State.mapClusters, ih]
    by_cases hjk : j = k
    · subst hjk
      simp [hg]
    · rw [State.updCluster_cluster_ne _ _ _ _ hjk]
      simp [hjk]

/-- The cluster has closed its batch. -/
def Cluster.closeBatch (k : Cluster) : Cluster := { k with batch := [] }

/-- The cluster has applied an announcement. -/
def Cluster.apply (ann : Store (Option Frontier)) (k : Cluster) : Cluster := { k with ann := ann }

/-! ### The steps of a round (R253) -/

section Round

/-- A round starts: something has changed, none is under way and the frontiers are not frozen. -/
theorem exec_chorusRoundStart (hlive : (s.part p).live = true) (hchanged : (s.part p).changed = true)
    (hclosed : (s.part p).closed = none) (hann : (s.part p).pendingAnn = false)
    (hunder : (s.part p).underflow = none) : exec (.chorusRoundStart p) s = .next
      (((s.mapClusters (s.clustersOf p) Cluster.closeBatch).updPart p fun P => { P with
        closed := some ((s.clustersOf p).flatMap fun k => (s.cluster k).batch), ahead := s.incsSent p
        changed := false }).after 0 (.roundCompute p)) := by
  refine congrArg Host.Outcome.next (if_neg ?_)
  simp [hlive, hchanged, hclosed, hann, hunder]

theorem changesNothing_chorusRoundStart (h : (s.part p).live = false ∨ (s.part p).changed = false ∨
    (s.part p).closed ≠ none ∨ (s.part p).pendingAnn = true ∨ (s.part p).underflow ≠ none) :
    ChangesNothing s (.chorusRoundStart p) := by
  simp only [← Option.isSome_iff_ne_none] at h
  exact congrArg Host.Outcome.next (if_pos h)

/-- The increments that a round waits for. -/
theorem filter_ne_nil_iff_any (l : List Nat) (q : Nat → Bool) : l.filter q ≠ [] ↔ l.any q = true := by
  simp [List.filter_eq_nil_iff]

section Compute
variable {batch : List Delta} (hclosed : (s.part p).closed = some batch)
include hclosed

theorem exec_roundCompute_of_waits (h : (s.part p).ahead.any (fun x => decide (x ∈ s.incsSent p)) = true) :
    exec (.roundCompute p) s = .next ((s.updPart p fun P => { P with
      ahead := (s.part p).ahead.filter fun x => decide (x ∈ s.incsSent p) }).schedule 1 (.roundCompute p)) := by
  refine congrArg Host.Outcome.next ?_
  simp only [hclosed]
  exact if_pos ((filter_ne_nil_iff_any _ _).mpr h)

section Arrived
variable (h : (s.part p).ahead.any (fun x => decide (x ∈ s.incsSent p)) = false)
include h

theorem exec_roundCompute_of_negative {e : Delta}
    (he : (batch.foldl addCount (s.part p).counts).find? (fun e => decide (e.n < 0)) = some e) :
    exec (.roundCompute p) s = .next (s.updPart p fun P => { P with
      counts := batch.foldl addCount (s.part p).counts, closed := none, underflow := some (e.port, e.t) }) := by
  refine congrArg Host.Outcome.next ?_
  simp only [hclosed]
  rw [if_neg (by rw [filter_ne_nil_iff_any, h]; exact Bool.false_ne_true)]
  simp only [he]

theorem exec_roundCompute_announces (hpos : ∀ e ∈ batch.foldl addCount (s.part p).counts, 0 ≤ e.n) :
    exec (.roundCompute p) s = .next ((s.updPart p fun P => { P with
      counts := batch.foldl addCount (s.part p).counts, closed := none
      ann := (s.part p).nextAnn (batch.foldl addCount (s.part p).counts)
      pendingAnn := true, round := P.round + 1 }).after 0 (.announcementApply p)) := by
  have hnone : (batch.foldl addCount (s.part p).counts).find? (fun e => decide (e.n < 0)) = none :=
    List.find?_eq_none.mpr fun e he => by simpa using hpos e he
  refine congrArg Host.Outcome.next ?_
  simp only [hclosed]
  rw [if_neg (by rw [filter_ne_nil_iff_any, h]; exact Bool.false_ne_true)]
  simp only [hnone]
  rfl

end Arrived
end Compute

/-- The state in which every cluster of the partition has applied the announcement. -/
def State.applied (s : State) (p : Nat) : State :=
  (s.mapClusters (s.clustersIn p) (Cluster.apply (s.part p).ann)).updPart p fun P =>
    { P with pendingAnn := false, applied := P.ann, appliedAt := s.cycle }

theorem exec_announcementApply (h : (s.part p).pendingAnn = true) : exec (.announcementApply p) s =
    .next (if (s.part p).changed then (s.applied p).nextRound p else s.applied p) := by
  have hpending : ¬ (s.part p).pendingAnn = false := by simp [h]
  have hbranches : exec (.announcementApply p) s = .next (if (s.part p).pendingAnn = false then s
      else if (s.part p).changed then (s.applied p).nextRound p else s.applied p) := rfl
  rw [hbranches, if_neg hpending]

theorem State.applied_part (s : State) (p : Nat) : (s.applied p).part p =
    { s.part p with pendingAnn := false, applied := (s.part p).ann, appliedAt := s.cycle } := by
  rw [State.applied, State.updPart_part_self, State.mapClusters_part]

theorem State.applied_cluster (s : State) (p k : Nat) : (s.applied p).cluster k =
    if k ∈ s.clustersIn p then { s.cluster k with ann := (s.part p).ann } else s.cluster k :=
  State.mapClusters_cluster (g := Cluster.apply (s.part p).ann) (fun _ => rfl) k (s.clustersIn p) s

theorem State.applied_cycle (s : State) (p : Nat) : (s.applied p).cycle = s.cycle :=
  (congrArg State.cycle (State.mapClusters_onlyClusters (Cluster.apply (s.part p).ann) (s.clustersIn p) s) :)

/-- The next round comes within 256 cycles of the last announcement. -/
theorem State.nextRound_applied_agenda (s : State) (p : Nat) :
    ∃ w, w ≤ s.cycle + 256 ∧ (w, .chorusRoundStart p) ∈ ((s.applied p).nextRound p).agenda := by
  refine ⟨_, Nat.add_le_add (s.applied_cycle p).le ((min_le_right ..).trans ?_), (mem_insertEv ..).mpr (.inl rfl)⟩
  rw [s.applied_cycle, s.applied_part]
  dsimp only
  omega

end Round

/-! ### The statement -/

/-- Settles O43: one equation for each branch of the three events of a round; the frontier is the least of the held
times. -/
theorem chorusAnnouncesTheLeastHeldTimes : Obligations.ChorusAnnouncesTheLeastHeldTimes := by
  unfold Obligations.ChorusAnnouncesTheLeastHeldTimes
  intro s p
  refine ⟨fun hlive hchanged hclosed hann hunder => ?starts, changesNothing_chorusRoundStart,
    fun hclosed hany => ?waits, fun batch hclosed hany => ⟨fun e he => ?negative, fun hpos => ?announces⟩,
    fun hann => ?applies, fun sums n => ⟨?inf, fun t ht => ?least⟩⟩
  case starts =>
    have hrest := State.mapClusters_onlyClusters Cluster.closeBatch (s.clustersOf p) s
    refine ⟨_, _, exec_chorusRoundStart hlive hchanged hclosed hann hunder, (mem_insertEv ..).mpr (.inl rfl), ?part,
      fun k => State.mapClusters_cluster (g := Cluster.closeBatch) (fun _ => rfl) k (s.clustersOf p) s,
      (congrArg State.ctxs hrest :), (congrArg State.mem hrest :)⟩
    rw [State.after_part, State.updPart_part_self, State.mapClusters_part]
  case waits =>
    obtain ⟨batch, hbatch⟩ := Option.ne_none_iff_exists'.mp hclosed
    have hpart := s.onlyPart_updPart p fun P =>
      { P with ahead := (s.part p).ahead.filter fun x => decide (x ∈ s.incsSent p) }
    exact ⟨_, exec_roundCompute_of_waits hbatch hany, (mem_insertEv ..).mpr (.inl rfl), hpart⟩
  case negative => exact ⟨_, exec_roundCompute_of_negative hclosed hany he, s.onlyPart_updPart p _⟩
  case announces =>
    refine ⟨_, _, exec_roundCompute_announces hclosed hany hpos, (mem_insertEv ..).mpr (.inl rfl), fun n => ?_, ?_⟩
    · rw [State.after_part, State.updPart_part_self]
      exact (s.part p).get_nextAnn _ n
    · rw [State.after_part, State.updPart_part_self]
      have hpart := s.onlyPart_updPart p fun P => { P with
        counts := batch.foldl addCount (s.part p).counts, closed := none
        ann := (s.part p).nextAnn (batch.foldl addCount (s.part p).counts)
        pendingAnn := true, round := P.round + 1 }
      exact hpart
  case applies =>
    refine ⟨_, exec_announcementApply hann, ?_⟩
    split
    next hchanged => exact ⟨s.applied_cluster p, s.applied_part p, fun _ => s.nextRound_applied_agenda p⟩
    next hchanged => exact ⟨s.applied_cluster p, s.applied_part p, fun h => absurd h hchanged⟩
  case inf =>
    simp only [← Part.mem_heldTimes]
    exact Part.frontier_eq_inf ..
  case least =>
    simp only [← Part.mem_heldTimes]
    exact mem_of_leastTime t _ ht

end Sys2Proof.Machine
end

section
/-!
PROOFS. The tiles that a region which is being bound leaves behind (R228), and what a statement writes, for O50.
-/
namespace Sys2Proof.Machine

open Sys2Proof

variable {s t u : State}

/-! ### Entries of a store -/

/-- An entry after a value has been written is that value's, or stood there before. -/
theorem Store.mem_set {α : Type} [DecidableEq α] {d : α} {m : Store α} {k : Nat} {v : α} {e : Nat × α}
    (h : e ∈ Store.set d m k v) : e = (k, v) ∨ e ∈ m := by
  simp only [Store.set, Store.put, List.mem_append] at h
  obtain h | h | h := h
  · exact .inr (List.mem_filter.mp h).1
  · left
    unfold Store.run at h
    split at h
    · simp [Store.run] at h
    · simpa [Store.run] using h
  · exact .inr (List.mem_filter.mp h).1

/-! ### Sharers of a line (R11, R160) -/

theorem State.mem_sharers (s : State) (l : Nat) (x : Nat × Nat × Nat) : x ∈ s.sharers l ↔
    ∃ e ∈ s.ctxs, ∃ f ∈ e.2.tiles, ∃ t, f.2 = some t ∧ ∃ j ∈ t.phys, j.2 = l + 1 ∧ (e.1, f.1, j.1) = x := by
  simp only [State.sharers, List.mem_flatMap]
  refine exists_congr fun e => and_congr_right fun _ => exists_congr fun f => and_congr_right fun _ => ?_
  cases f.2 with
  | none => simp
  | some t => simp [and_assoc]

/-- No line has a sharer that it did not have. -/
def State.sharesLess (s u : State) : Prop := ∀ l, ∀ x ∈ u.sharers l, x ∈ s.sharers l

theorem State.sharesLess_trans (h : s.sharesLess t) (g : t.sharesLess u) : s.sharesLess u :=
  fun l x hx => h l x (g l x hx)

theorem State.sharesLess_of_ctxs (h : u.ctxs = s.ctxs) : s.sharesLess u := by
  intro l x hx
  unfold State.sharers at hx
  rwa [h] at hx

/-- A tile that records no line shares none. -/
theorem State.sharesLess_setTile (s : State) (c th : Nat) (t : Tile) (ht : t.phys = []) :
    s.sharesLess (s.setTile c th (some t)) := by
  intro l x hx
  obtain ⟨e, he, f, hf, q, hq, j, hj, hjl, rfl⟩ := (State.mem_sharers ..).mp hx
  rw [State.mem_sharers]
  obtain rfl | he := Store.mem_set he
  · obtain rfl | hf := Store.mem_set hf
    · obtain rfl := Option.some.inj hq
      simp [ht] at hj
    · have hctx : (c, s.ctx c) ∈ s.ctxs := by
        refine Store.mem_of_get Ctx.free s.ctxs c _ rfl fun hreset => ?_
        replace hf : f ∈ (s.ctx c).tiles := hf
        rw [hreset] at hf
        exact absurd hf (List.not_mem_nil)
      exact ⟨_, hctx, f, hf, q, hq, j, hj, hjl, rfl⟩
  · exact ⟨e, he, f, hf, q, hq, j, hj, hjl, rfl⟩

/-! ### Tiles that give up their lines (R160) -/

/-- Handle `th` of context `c` names no tile that is FULL or DIRTY. -/
def State.gaveUp (s : State) (c th : Nat) : Prop := ∀ t, s.tile c th = some t → t.st ≠ .full ∧ t.st ≠ .dirty

theorem State.recallTile_sharesLess (s : State) (c th : Nat) : s.sharesLess (s.recallTile c th) := by
  unfold State.recallTile
  split
  · exact fun _ _ hx => hx
  · rename_i t _
    dsimp only
    split
    · exact s.sharesLess_setTile c th _ rfl
    · obtain ⟨-, hctxs, -⟩ := s.writeBack_spec (reqOfCtx (s.ctx c).part c) t.settled
      exact State.sharesLess_trans (State.sharesLess_of_ctxs hctxs) (State.sharesLess_setTile _ c th _ rfl)
    · exact fun _ _ hx => hx

/-- A tile that has given up its lines stays so whatever tile is recalled. -/
theorem State.gaveUp_recallTile_of_gaveUp {c th : Nat} (h : s.gaveUp c th) (c' th' : Nat) :
    (s.recallTile c' th').gaveUp c th := by
  obtain ⟨-, htiles, -⟩ := s.recallTile_spec c' th'
  intro t ht
  obtain hsame | ⟨-, -, hgiven⟩ := htiles c th
  · exact h t (hsame ▸ ht)
  · rw [hgiven, Option.map_eq_some_iff] at ht
    obtain ⟨q, -, rfl⟩ := ht
    exact ⟨nofun, nofun⟩

/-- A tile that an MXST is writing is settled as DIRTY. -/
theorem Tile.settled_st (t : Tile) : t.settled.st = t.st ∨ t.settled.st = .dirty := by
  unfold Tile.settled
  split
  · exact .inr rfl
  · exact .inl rfl

theorem State.gaveUp_recallTile_self (s : State) (c th : Nat) : (s.recallTile c th).gaveUp c th := by
  have hemptied : ∀ (u : State) (t : Tile), (u.setTile c th (some t.emptied)).gaveUp c th := by
    intro u t q hq
    rw [State.setTile_tile, if_pos ⟨rfl, rfl⟩] at hq
    obtain rfl := Option.some.inj hq
    exact ⟨nofun, nofun⟩
  unfold State.recallTile
  split
  next hnone =>
    intro t ht
    rw [hnone] at ht
    contradiction
  next t ht =>
    dsimp only
    split
    · exact hemptied _ _
    · exact hemptied _ _
    next hfull hdirty =>
      intro q hq
      obtain rfl := Option.some.inj (ht.symm.trans hq)
      obtain hst | hst := t.settled_st
      · exact hst ▸ ⟨hfull, hdirty⟩
      · exact absurd hst hdirty

theorem State.recall_none (s : State) (l : Nat) :
    s.recall l none = (s.sharers l).foldl (fun u x => u.recallTile x.1 x.2.1) s := by
  simp [State.recall]

theorem State.recall_sharesLess (s : State) (l : Nat) : s.sharesLess (s.recall l none) :=
  s.recall_none l ▸ foldl_keeps s.sharesLess _ _ _ (fun _ _ hx => hx) fun u x _ hu =>
    State.sharesLess_trans hu (u.recallTile_sharesLess x.1 x.2.1)

theorem State.gaveUp_recall_of_gaveUp {c th : Nat} (h : s.gaveUp c th) (l : Nat) : (s.recall l none).gaveUp c th :=
  s.recall_none l ▸ foldl_keeps (fun u : State => u.gaveUp c th) _ _ _ h fun _ x _ hu =>
    State.gaveUp_recallTile_of_gaveUp hu x.1 x.2.1

/-- Of two steps of a fold one makes a fact true, and each keeps it. -/
theorem foldl_reaches {α β : Type} (P : α → Prop) (f : α → β → α) (hkeep : ∀ a b, P a → P (f a b)) {b : β}
    (hmake : ∀ a, P (f a b)) : ∀ (l : List β) (a : α), b ∈ l → P (l.foldl f a)
  | [], _, h => absurd h List.not_mem_nil
  | c :: l, a, h => by
    obtain rfl | h := List.mem_cons.mp h
    · exact foldl_keeps P f l _ (hmake a) fun a c _ => hkeep a c
    · exact foldl_reaches P f hkeep hmake l _ h

/-- Every tile that shares a line which is recalled gives it up. -/
theorem State.gaveUp_recall {l : Nat} {x : Nat × Nat × Nat} (hx : x ∈ s.sharers l) :
    (s.recall l none).gaveUp x.1 x.2.1 :=
  s.recall_none l ▸ foldl_reaches (b := x) (fun u : State => u.gaveUp x.1 x.2.1) _
    (fun _ y hu => State.gaveUp_recallTile_of_gaveUp hu y.1 y.2.1) (fun u => u.gaveUp_recallTile_self x.1 x.2.1) _ s hx

/-- After the lines of a list have been recalled, whatever shares one of them has given it up. -/
theorem State.gaveUp_recalls {l : Nat} {x : Nat × Nat × Nat} : ∀ (ls : List Nat) (s : State), l ∈ ls →
    x ∈ (ls.foldl (fun s l => s.recall l none) s).sharers l →
      (ls.foldl (fun s l => s.recall l none) s).gaveUp x.1 x.2.1
  | [], _, hl, _ => absurd hl List.not_mem_nil
  | k :: ls, s, hl, hx => by
    obtain rfl | hl := List.mem_cons.mp hl
    · have hless : (s.recall l none).sharesLess (ls.foldl (fun s l => s.recall l none) (s.recall l none)) :=
        foldl_keeps (s.recall l none).sharesLess _ _ _ (fun _ _ h => h) fun u k _ hu =>
          State.sharesLess_trans hu (u.recall_sharesLess k)
      have hthere : x ∈ s.sharers l := s.recall_sharesLess l _ _ (hless _ _ hx)
      exact foldl_keeps (fun u : State => u.gaveUp x.1 x.2.1) _ ls _ (State.gaveUp_recall hthere)
        fun _ k _ hu => State.gaveUp_recall_of_gaveUp hu k
    · exact State.gaveUp_recalls ls _ hl hx

/-- A region that has been cleared leaves no tile with its lines. -/
theorem State.gaveUp_clearTiles {k n l : Nat} (hk : k ≤ 128 * l) (hn : 128 * l < k + n) {x : Nat × Nat × Nat}
    (hx : x ∈ (s.clearTiles k n).sharers l) : (s.clearTiles k n).gaveUp x.1 x.2.1 := by
  have hl := mem_linesOf k n (128 * l) ⟨hk, hn⟩
  rw [Nat.mul_div_cancel_left l (by decide)] at hl
  exact State.gaveUp_recalls (linesOf k n) s hl hx

/-! ### Bytes that the device writes (R236) -/

theorem State.onlyMemory_wrRun : ∀ (fuel : Nat) (s : State) (k : Nat) (l : List Byte), s.onlyMemory (s.wrRun fuel k l)
  | 0, s, _, _ => s.onlyMemory_refl
  | fuel + 1, s, k, l => by
    unfold State.wrRun
    split
    · exact s.onlyMemory_refl
    · obtain ⟨hline, -⟩ := s.wrLine_spec k (l.take (128 - k % 128))
      exact State.onlyMemory_trans hline (State.onlyMemory_wrRun fuel _ _ _)

theorem State.onlyMemory_wrBytes (s : State) (k : Nat) (l : List Byte) : s.onlyMemory (s.wrBytes k l) :=
  State.onlyMemory_wrRun _ s k l

/-- The device's own units are as they were after a write to memory. -/
theorem State.units_wrBytes (s : State) (k : Nat) (l : List Byte) : (s.wrBytes k l).terms = s.terms ∧
    (s.wrBytes k l).host = s.host ∧ (s.wrBytes k l).agenda = s.agenda := by
  obtain ⟨-, -, hrest⟩ := s.onlyMemory_wrBytes k l
  exact ⟨(congrArg State.terms hrest :), (congrArg State.host hrest :), (congrArg State.agenda hrest :)⟩

end Sys2Proof.Machine
end

section
/-!
PROOFS. Mailbox commands of the terms unit and the clock (R226 to R229, R236, R289, R290, R313), for O50.
-/
namespace Sys2Proof.Machine

open Sys2Proof

variable {s t u f : State} {fn : Nat} {i : Instr}

/-! ### How a command is taken up (R289, R313) -/

/-- The doorbell of a function has started command `i`, and it is the one that the device has in hand. -/
def State.takes (s : State) (fn : Nat) (i : Instr) : Prop :=
  (s.mail fn).door = true ∧ ((s.mail fn).taken = false ∨ (s.mail fn).waits = some i)

/-- A busy tile keeps a line of an object that command `i` reads. -/
def State.keptObject (s : State) (i : Instr) : Prop :=
  ∃ o ∈ s.objects i, s.spanBusy (keyOf hostSpace o.1) o.2 false = true

/-- Command `i` of a function goes on to what it does. -/
def State.takesUp (s : State) (fn : Nat) (i : Instr) : Prop :=
  s.takes fn i ∧ s.host.ready = true ∧ ¬ s.keptObject i

/-- Command `i` waits for the next cycle. -/
def WaitsOn (s : State) (fn : Nat) (i : Instr) : Prop :=
  ∃ t, exec i s = .next t ∧ (s.cycle + 1, i) ∈ t.agenda ∧
    t.mail fn = { s.mail fn with taken := true, waits := some i } ∧
    { t with agenda := s.agenda, host := { t.host with mail := s.host.mail } } = s

theorem State.not_takes_iff (s : State) (fn : Nat) (i : Instr) : ¬ s.takes fn i ↔
    (s.mail fn).door = false ∨ ((s.mail fn).taken = true ∧ (s.mail fn).waits ≠ some i) := by
  simp only [State.takes, not_and_or, not_or, Bool.not_eq_true, Bool.not_eq_false]

theorem replied_reply (s : State) (fn st v : Nat) : Replied s (s.reply fn st v) fn st v := by
  refine ⟨s.reply_mail fn st v, ?_⟩
  unfold State.reply State.tell
  dsimp only
  split <;> rfl

theorem repliesOnly_of_exec {st : Nat} (h : exec i s = .next (s.reply fn st 0)) : RepliesOnly s i fn st 0 :=
  ⟨_, h, replied_reply s fn st 0⟩

theorem waitsOn_of_exec (h : exec i s = .next (s.goesOn fn i)) : WaitsOn s fn i :=
  ⟨_, h, (mem_insertEv ..).mpr (.inl rfl), State.setMail_mail_self .., rfl⟩

/-- Before its checks a command asks whether it is its turn, whether the device is up and whether it may read its
objects. -/
theorem guards_of_command (h : exec i s = .next (s.command fn i f)) :
    (¬ s.takes fn i → ChangesNothing s i) ∧
    (s.takes fn i → s.host.ready = false → RepliesOnly s i fn 8 0) ∧
    (s.takes fn i → s.host.ready = true → s.keptObject i → WaitsOn s fn i) := by
  refine ⟨fun ht => ?_, fun ht hr => repliesOnly_of_exec ?_, fun ht hr hk => waitsOn_of_exec ?_⟩
  · rw [s.not_takes_iff] at ht
    exact h.trans (congrArg _ (if_pos ht))
  · have hgoes := mt (s.not_takes_iff fn i).mpr (not_not.mpr ht)
    exact h.trans (congrArg _ ((if_neg hgoes).trans (if_pos hr)))
  · have hgoes := mt (s.not_takes_iff fn i).mpr (not_not.mpr ht)
    have hup : ¬ s.host.ready = false := by simp [hr]
    have hany : ((s.objects i).any fun o => s.spanBusy (keyOf hostSpace o.1) o.2 false) = true :=
      List.any_eq_true.mpr hk
    exact h.trans (congrArg _ ((if_neg hgoes).trans ((if_neg hup).trans (if_pos hany))))

theorem exec_of_takesUp (h : exec i s = .next (s.command fn i f)) (hon : s.takesUp fn i) : exec i s = .next f := by
  obtain ⟨ht, hr, hk⟩ := hon
  have hgoes := mt (s.not_takes_iff fn i).mpr (not_not.mpr ht)
  have hup : ¬ s.host.ready = false := by simp [hr]
  have hany : ¬ ((s.objects i).any fun o => s.spanBusy (keyOf hostSpace o.1) o.2 false) = true :=
    fun q => hk (List.any_eq_true.mp q)
  exact h.trans (congrArg _ ((if_neg hgoes).trans ((if_neg hup).trans (if_neg hany))))

/-- A command of a function without a partition, where it needs one. -/
theorem repliesOnly_of_anyCommand {g : Nat → State} (h : exec i s = .next (s.anyCommand fn i g))
    (hnone : s.fnPart fn = none) (hon : s.takesUp fn i) : RepliesOnly s i fn 3 0 := by
  refine repliesOnly_of_exec ((exec_of_takesUp h hon).trans ?_)
  rw [hnone]
  rfl

/-- A command of the physical function that another one sends. -/
theorem repliesOnly_of_physCommand (h : exec i s = .next (s.physCommand fn i f)) (hfn : fn ≠ 0)
    (hon : s.takesUp fn i) : RepliesOnly s i fn 3 0 :=
  repliesOnly_of_exec ((exec_of_takesUp h hon).trans (congrArg _ (if_pos hfn)))

/-! ### Checks in order -/

theorem State.checked_cons (s : State) (fn : Nat) (good : Bool) (st : Nat) (l : List (Bool × Nat)) (ok : State) :
    s.checked fn ((good, st) :: l) ok = if good then s.checked fn l ok else s.reply fn st 0 := rfl

theorem State.checked_nil (s : State) (fn : Nat) (ok : State) : s.checked fn [] ok = ok := rfl

section Lists
variable {a b c d : DWord} {t0 : LTime}

/-- The commands that a family of functions may send: each goes through the same guards. -/
theorem guards_of_all : ∀ i ∈ [Instr.loadImage fn a, .portSet fn a b c d, .portDeclare fn a t0 b,
      .queuePush fn a b t0, .frontierReset fn] ++ [.installTerms fn a b, .bindRegion fn a b c, .removeTerms fn a b,
      .statement fn a b] ++ [.timeUpdate fn a, .partCreate fn a, .partResize fn a, .partStatus fn a,
      .partDestroy fn a, .engineLease fn a b] ++ [.attach fn 0, .mailboxBadCommand fn],
    ∃ f, exec i s = .next (s.command fn i f) := by
  simp only [List.cons_append, List.nil_append, List.forall_mem_cons, List.not_mem_nil, false_imp_iff,
    implies_true, and_true]
  refine ⟨⟨_, rfl⟩, ⟨_, rfl⟩, ⟨_, rfl⟩, ⟨_, rfl⟩, ⟨_, rfl⟩, ⟨_, rfl⟩, ⟨_, rfl⟩, ⟨_, rfl⟩, ⟨_, rfl⟩, ⟨_, rfl⟩,
    ⟨_, rfl⟩, ⟨_, rfl⟩, ⟨_, rfl⟩, ⟨_, rfl⟩, ⟨_, rfl⟩, ⟨_, rfl⟩, ⟨_, rfl⟩⟩

theorem anyCommand_of_mem : ∀ i ∈ [Instr.loadImage fn a, .portSet fn a b c d, .portDeclare fn a t0 b,
    .queuePush fn a b t0, .frontierReset fn], ∃ g, exec i s = .next (s.anyCommand fn i g) := by
  simp only [List.forall_mem_cons, List.not_mem_nil, false_imp_iff, implies_true, and_true]
  exact ⟨⟨_, rfl⟩, ⟨_, rfl⟩, ⟨_, rfl⟩, ⟨_, rfl⟩, ⟨_, rfl⟩⟩

theorem physCommand_of_mem : ∀ i ∈ [Instr.timeUpdate fn a, .partCreate fn a, .partResize fn a, .partStatus fn a,
    .partDestroy fn a, .engineLease fn a b], ∃ f, exec i s = .next (s.physCommand fn i f) := by
  simp only [List.forall_mem_cons, List.not_mem_nil, false_imp_iff, implies_true, and_true]
  exact ⟨⟨_, rfl⟩, ⟨_, rfl⟩, ⟨_, rfl⟩, ⟨_, rfl⟩, ⟨_, rfl⟩, ⟨_, rfl⟩⟩

end Lists

/-! ### INSTALL_TERMS (R226) -/

section Install
variable {a b : DWord}

/-- R226: the object is aligned and has its layout. -/
def wellFormed (s : State) (b : DWord) : Prop := b.toNat % 128 = 0 ∧ termsLayout (s.hostBytes b.toNat 6144) = true

variable (hon : s.takesUp fn (.installTerms fn a b))
include hon

theorem exec_installTerms : exec (.installTerms fn a b) s = .next (if decide (a.toNat ≤ 4095) then
    if decide (b.toNat % 128 = 0) && termsLayout (s.hostBytes b.toNat 6144) then
      if termsSigned (s.hostBytes b.toNat 6144) then
        if (s.handle a.toNat).isNone then
          (s.setHandle a.toNat (some (installed (s.hostBytes b.toNat 6144)))).reply fn 0 0
        else s.reply fn 8 0
      else s.reply fn 1 0
    else s.reply fn 3 0
  else s.reply fn 9 0) := exec_of_takesUp rfl hon

theorem repliesOnly_install_of_number (h : 4095 < a.toNat) : RepliesOnly s (.installTerms fn a b) fn 9 0 := by
  refine repliesOnly_of_exec ((exec_installTerms hon).trans ?_)
  rw [if_neg (by simpa using h)]

section Number
variable (hnum : a.toNat ≤ 4095)
include hnum

theorem repliesOnly_install_of_malformed (h : ¬ wellFormed s b) : RepliesOnly s (.installTerms fn a b) fn 3 0 := by
  refine repliesOnly_of_exec ((exec_installTerms hon).trans ?_)
  rw [if_pos (by simpa using hnum), if_neg (by simpa [wellFormed] using h)]

variable (hform : wellFormed s b)
include hform

theorem repliesOnly_install_of_unsigned (h : termsSigned (s.hostBytes b.toNat 6144) = false) :
    RepliesOnly s (.installTerms fn a b) fn 1 0 := by
  refine repliesOnly_of_exec ((exec_installTerms hon).trans ?_)
  rw [if_pos (by simpa using hnum), if_pos (by simpa [wellFormed] using hform), if_neg (by simp [h])]

variable (hsigned : termsSigned (s.hostBytes b.toNat 6144) = true)
include hsigned

theorem repliesOnly_install_of_handle {x : Handle} (hx : s.handle a.toNat = some x) :
    RepliesOnly s (.installTerms fn a b) fn 8 0 := by
  refine repliesOnly_of_exec ((exec_installTerms hon).trans ?_)
  rw [if_pos (by simpa using hnum), if_pos (by simpa [wellFormed] using hform), if_pos hsigned, if_neg (by simp [hx])]

theorem exec_installTerms_installs (hx : s.handle a.toNat = none) : exec (.installTerms fn a b) s =
    .next ((s.setHandle a.toNat (some (installed (s.hostBytes b.toNat 6144)))).reply fn 0 0) := by
  rw [exec_installTerms hon, if_pos (by simpa using hnum), if_pos (by simpa [wellFormed] using hform),
    if_pos hsigned, if_pos (by simp [hx])]

end Number
end Install

theorem State.setHandle_handle_ne (s : State) {h j : Nat} (x : Option Handle) (hj : j ≠ h) :
    (s.setHandle h x).handle j = s.handle j := Store.get_set_ne _ _ _ _ _ hj

theorem State.setHandle_sharers (s : State) (h : Nat) (x : Option Handle) (l : Nat) :
    (s.setHandle h x).sharers l = s.sharers l := rfl

theorem State.setHandle_gaveUp (s : State) (h : Nat) (x : Option Handle) (c th : Nat) :
    (s.setHandle h x).gaveUp c th ↔ s.gaveUp c th := Iff.rfl

/-! ### BIND_REGION (R226 to R228) -/

section Bind
variable {a b c : DWord} {x : Handle} {p : Nat}

/-- What a bound region's handle is. -/
def Handle.bound (x : Handle) (p : Nat) (b : DWord) (key : BitVec 256) : Handle :=
  { x with region := some (p, b.toNat), key := key }

/-- What binding does once its first checks have passed. -/
def State.bindChecked (s : State) (fn : Nat) (a b c : DWord) (x : Handle) (p : Nat) : State :=
  match s.openCapsule p (s.hostBytes c.toNat 1152) with
  | none => s.reply fn 11 0
  | some key =>
    if s.spanBusy (keyOf p b.toNat) x.body.length true then s.goesOn fn (.bindRegion fn a b c)
    else if Config.sha3 (openTensor key (s.rdBytes (keyOf p b.toNat) x.body.length)) ≠ x.body.tensor then
      s.reply fn 10 0
    else ((s.clearTiles (keyOf p b.toNat) x.body.length).setHandle a.toNat (some (x.bound p b key))).reply fn 0 0

variable (hon : s.takesUp fn (.bindRegion fn a b c))
include hon

theorem repliesOnly_bind_of_handle (hx : s.handle a.toNat = none) : RepliesOnly s (.bindRegion fn a b c) fn 9 0 := by
  refine repliesOnly_of_exec ((exec_of_takesUp rfl hon).trans ?_)
  simp only [hx]
  rfl

variable (hx : s.handle a.toNat = some x)
include hx

theorem repliesOnly_bind_of_region (hr : x.region ≠ none) : RepliesOnly s (.bindRegion fn a b c) fn 8 0 := by
  obtain ⟨r, hr⟩ := Option.ne_none_iff_exists'.mp hr
  refine repliesOnly_of_exec ((exec_of_takesUp rfl hon).trans ?_)
  simp only [hx, hr]
  rfl

variable (hr : x.region = none)
include hr

theorem repliesOnly_bind_of_function (hp : s.fnPart fn = none) : RepliesOnly s (.bindRegion fn a b c) fn 3 0 := by
  refine repliesOnly_of_exec ((exec_of_takesUp rfl hon).trans ?_)
  simp only [hx, hr, hp]
  rfl

variable (hp : s.fnPart fn = some p)
include hp

theorem exec_bindRegion : exec (.bindRegion fn a b c) s = .next
    (if decide (b.toNat % 4096 = 0 ∧ b.toNat + x.body.length ≤ (s.part p).ownedFrom) then
      if s.regionFree p b.toNat x.body.length then
        if decide (c.toNat % 128 = 0) then s.bindChecked fn a b c x p else s.reply fn 11 0
      else s.reply fn 8 0
    else s.reply fn 3 0) := by
  refine (exec_of_takesUp rfl hon).trans ?_
  simp only [hx, hr, hp]
  rfl

theorem repliesOnly_bind_of_partial (h : ¬ (b.toNat % 4096 = 0 ∧ b.toNat + x.body.length ≤ (s.part p).ownedFrom)) :
    RepliesOnly s (.bindRegion fn a b c) fn 3 0 := by
  refine repliesOnly_of_exec ((exec_bindRegion hon hx hr hp).trans ?_)
  rw [decide_eq_false h, if_neg Bool.false_ne_true]

variable (hwhole : b.toNat % 4096 = 0 ∧ b.toNat + x.body.length ≤ (s.part p).ownedFrom)
include hwhole

theorem repliesOnly_bind_of_taken (h : ¬ s.regionFree p b.toNat x.body.length = true) :
    RepliesOnly s (.bindRegion fn a b c) fn 8 0 := by
  refine repliesOnly_of_exec ((exec_bindRegion hon hx hr hp).trans ?_)
  rw [decide_eq_true hwhole, if_pos rfl, if_neg h]

variable (hfree : s.regionFree p b.toNat x.body.length = true)
include hfree

theorem repliesOnly_bind_of_unaligned (h : c.toNat % 128 ≠ 0) : RepliesOnly s (.bindRegion fn a b c) fn 11 0 := by
  refine repliesOnly_of_exec ((exec_bindRegion hon hx hr hp).trans ?_)
  rw [decide_eq_true hwhole, if_pos rfl, if_pos hfree, decide_eq_false h, if_neg Bool.false_ne_true]

variable (halign : c.toNat % 128 = 0)
include halign

theorem exec_bindRegion_checked : exec (.bindRegion fn a b c) s = .next (s.bindChecked fn a b c x p) := by
  rw [exec_bindRegion hon hx hr hp, decide_eq_true hwhole, if_pos rfl, if_pos hfree, decide_eq_true halign, if_pos rfl]

theorem repliesOnly_bind_of_capsule (h : Config.capsuleKey (s.hostBytes c.toNat 1152) ≠ (s.part p).releaseKey ∨
    Config.openCapsule (s.part p).releaseKey (s.hostBytes c.toNat 1152) = none) :
    RepliesOnly s (.bindRegion fn a b c) fn 11 0 := by
  have hshut : s.openCapsule p (s.hostBytes c.toNat 1152) = none := by
    unfold State.openCapsule
    split
    next hkey => exact h.resolve_left (not_not.mpr hkey)
    next => rfl
  refine repliesOnly_of_exec ((exec_bindRegion_checked hon hx hr hp hwhole hfree halign).trans ?_)
  rw [State.bindChecked, hshut]

section Opens
variable {key : BitVec 256} (hkey : Config.capsuleKey (s.hostBytes c.toNat 1152) = (s.part p).releaseKey)
  (hopen : Config.openCapsule (s.part p).releaseKey (s.hostBytes c.toNat 1152) = some key)
include hkey hopen

theorem exec_bindRegion_opened : exec (.bindRegion fn a b c) s = .next
    (if s.spanBusy (keyOf p b.toNat) x.body.length true then s.goesOn fn (.bindRegion fn a b c)
    else if Config.sha3 (openTensor key (s.rdBytes (keyOf p b.toNat) x.body.length)) ≠ x.body.tensor then
      s.reply fn 10 0
    else ((s.clearTiles (keyOf p b.toNat) x.body.length).setHandle a.toNat (some (x.bound p b key))).reply fn 0 0) := by
  have hopened : s.openCapsule p (s.hostBytes c.toNat 1152) = some key := (if_pos hkey).trans hopen
  rw [exec_bindRegion_checked hon hx hr hp hwhole hfree halign, State.bindChecked, hopened]

theorem waitsOn_bind (h : s.spanBusy (keyOf p b.toNat) x.body.length true = true) :
    WaitsOn s fn (.bindRegion fn a b c) :=
  waitsOn_of_exec ((exec_bindRegion_opened hon hx hr hp hwhole hfree halign hkey hopen).trans (congrArg _ (if_pos h)))

variable (hidle : s.spanBusy (keyOf p b.toNat) x.body.length true = false)
include hidle

theorem repliesOnly_bind_of_content
    (h : Config.sha3 (openTensor key (s.rdBytes (keyOf p b.toNat) x.body.length)) ≠ x.body.tensor) :
    RepliesOnly s (.bindRegion fn a b c) fn 10 0 := by
  refine repliesOnly_of_exec ((exec_bindRegion_opened hon hx hr hp hwhole hfree halign hkey hopen).trans ?_)
  rw [if_neg (by simp [hidle]), if_pos h]

theorem exec_bindRegion_binds
    (h : Config.sha3 (openTensor key (s.rdBytes (keyOf p b.toNat) x.body.length)) = x.body.tensor) :
    exec (.bindRegion fn a b c) s = .next
      (((s.clearTiles (keyOf p b.toNat) x.body.length).setHandle a.toNat (some (x.bound p b key))).reply fn 0 0) := by
  rw [exec_bindRegion_opened hon hx hr hp hwhole hfree halign hkey hopen, if_neg (by simp [hidle]),
    if_neg (not_not.mpr h)]

end Opens
end Bind

/-! ### Statements (R236) -/

theorem Replied.terms_eq {st v : Nat} (h : Replied u t fn st v) : t.terms = u.terms :=
  (congrArg State.terms h.2 :)

theorem Replied.agenda_eq {st v : Nat} (h : Replied u t fn st v) : t.agenda = u.agenda :=
  (congrArg State.agenda h.2 :)

/-- The units after a statement of handle `h` has been made: the handle is `y`, the serial has gone up, and while the
host link is up the reply names it, and whether the host has taken the statement. -/
def StatementMade (s u : State) (fn h : Nat) (y : Option Handle) : Prop :=
  u.handle h = y ∧ u.terms.stSerial = s.terms.stSerial + 1 ∧ u.terms.nv = s.terms.nv ∧ u.agenda = s.agenda ∧
    (s.host.link ≠ .down → ∃ st, (st = 0 ∨ st = 3) ∧
      (u.mail fn).stat = BitVec.ofNat 64 (st + 256 * (s.terms.stSerial + 1)))

/-- The handle `h` and the serial after a statement, before it is written. -/
def State.numbered (s : State) (h : Nat) (y : Option Handle) : State :=
  State.setHandle { s with terms := { s.terms with stSerial := s.terms.stSerial + 1 } } h y

theorem statementMade_reply {h st : Nat} {y : Option Handle} (hterms : u.terms = (s.numbered h y).terms)
    (hhost : u.host = s.host) (hagenda : u.agenda = s.agenda) (hst : st = 0 ∨ st = 3) :
    StatementMade s (u.reply fn st (s.terms.stSerial + 1)) fn h y := by
  have hreplied := replied_reply u fn st (s.terms.stSerial + 1)
  have hterms' := hreplied.terms_eq.trans hterms
  refine ⟨?_, (congrArg Terms.stSerial hterms' :), (congrArg Terms.nv hterms' :), hreplied.agenda_eq.trans hagenda,
    fun hlink => ⟨st, hst, ?_⟩⟩
  · rw [State.handle, hterms']
    exact State.setHandle_handle_self ..
  · rw [State.reply_mail, if_neg (by rw [hhost]; exact fun q => hlink q.2)]

theorem statementMade_makeStatement (s : State) (fn h : Nat) (x : Handle) (dest : DWord)
    (g : Handle → Option Handle) : StatementMade s (s.makeStatement fn h x dest g) fn h (g { x with p := x.used }) := by
  unfold State.makeStatement
  dsimp only
  split
  · exact statementMade_reply rfl rfl rfl (.inr rfl)
  · obtain ⟨hterms, hhost, hagenda⟩ := (s.numbered h (g { x with p := x.used })).drawBit.2.units_wrBytes
      (keyOf hostSpace dest.toNat) (s.statementBody h x (s.terms.stSerial + 1) ++
        Config.mldsaSign (s.statementBody h x (s.terms.stSerial + 1)))
    exact statementMade_reply hterms hhost hagenda (.inl rfl)

section Statement
variable {a b : DWord} {x : Handle}

theorem repliesOnly_statement_of_handle (hon : s.takesUp fn (.statement fn a b)) (hx : s.handle a.toNat = none) :
    RepliesOnly s (.statement fn a b) fn 9 0 := by
  refine repliesOnly_of_exec ((exec_of_takesUp rfl hon).trans ?_)
  simp only [hx]
  rfl

theorem exec_statement (hon : s.takesUp fn (.statement fn a b)) (hx : s.handle a.toNat = some x) :
    exec (.statement fn a b) s = .next (if decide (b.toNat % 128 = 0) then
      if s.spanBusy (keyOf hostSpace b.toNat) 2676 true then s.goesOn fn (.statement fn a b)
      else s.makeStatement fn a.toNat x b some
    else s.reply fn 3 0) := by
  refine (exec_of_takesUp rfl hon).trans ?_
  simp only [hx]
  rfl

/-- The destination of the statement is aligned. -/
theorem exec_statement_of_aligned (hon : s.takesUp fn (.statement fn a b)) (hx : s.handle a.toNat = some x)
    (hdest : b.toNat % 128 = 0) : exec (.statement fn a b) s = .next
      (if s.spanBusy (keyOf hostSpace b.toNat) 2676 true then s.goesOn fn (.statement fn a b)
      else s.makeStatement fn a.toNat x b some) := by
  rw [exec_statement hon hx, decide_eq_true hdest, if_pos rfl]

/-! ### REMOVE_TERMS (R226) -/

theorem repliesOnly_remove_of_handle (hon : s.takesUp fn (.removeTerms fn a b)) (hx : s.handle a.toNat = none) :
    RepliesOnly s (.removeTerms fn a b) fn 9 0 := by
  refine repliesOnly_of_exec ((exec_of_takesUp rfl hon).trans ?_)
  simp only [hx]
  rfl

/-- A function may act on a handle. -/
def actsOn (s : State) (fn : Nat) (x : Handle) : Prop :=
  fn = 0 ∨ ∀ q n, x.region = some (q, n) → s.fnPart fn = some q

theorem State.ownsRegion_iff (s : State) (fn : Nat) (x : Handle) : s.ownsRegion fn x = true ↔ actsOn s fn x := by
  unfold State.ownsRegion actsOn
  cases x.region with
  | none => simp
  | some r => simp [Prod.ext_iff]

section Remove
variable (hon : s.takesUp fn (.removeTerms fn a b)) (hx : s.handle a.toNat = some x)
include hon hx

theorem exec_removeTerms : exec (.removeTerms fn a b) s = .next
    (if decide (b.toNat % 128 = 0) && s.ownsRegion fn x then
      if !s.outstandingUse a.toNat x then
        if s.spanBusy (keyOf hostSpace b.toNat) 2676 true then s.goesOn fn (.removeTerms fn a b)
        else (s.dropRaises a.toNat).makeStatement fn a.toNat x b fun _ => none
      else s.reply fn 8 0
    else s.reply fn 3 0) := by
  refine (exec_of_takesUp rfl hon).trans ?_
  simp only [hx]
  rfl

theorem repliesOnly_remove_of_bad (h : ¬ (b.toNat % 128 = 0 ∧ actsOn s fn x)) :
    RepliesOnly s (.removeTerms fn a b) fn 3 0 := by
  refine repliesOnly_of_exec ((exec_removeTerms hon hx).trans ?_)
  rw [if_neg (by simpa [s.ownsRegion_iff] using h)]

variable (hdest : b.toNat % 128 = 0) (hown : actsOn s fn x)
include hdest hown

theorem repliesOnly_remove_of_used (h : s.outstandingUse a.toNat x = true) :
    RepliesOnly s (.removeTerms fn a b) fn 8 0 := by
  refine repliesOnly_of_exec ((exec_removeTerms hon hx).trans ?_)
  rw [if_pos (by simp [s.ownsRegion_iff, hdest, hown]), if_neg (by simp [h])]

theorem exec_removeTerms_of_unused (h : s.outstandingUse a.toNat x = false) : exec (.removeTerms fn a b) s = .next
    (if s.spanBusy (keyOf hostSpace b.toNat) 2676 true then s.goesOn fn (.removeTerms fn a b)
    else (s.dropRaises a.toNat).makeStatement fn a.toNat x b fun _ => none) := by
  rw [exec_removeTerms hon hx, if_pos (by simp [s.ownsRegion_iff, hdest, hown]), if_pos (by simp [h])]

end Remove

/-- Raises that are called off leave the units as they are but for those raises. -/
theorem State.dropRaises_spec (s : State) (h : Nat) :
    (s.dropRaises h).terms = { s.terms with nv := s.terms.nv.filter fun w => decide (w.handle ≠ h) } ∧
      ((∃ w ∈ s.terms.nv, w.handle = h) → ∀ e ∈ s.ctxs, ∀ q ∈ e.2.asks, q.answered = false → q.kind = 0 →
        q.handle.toNat = h → (s.cycle, .termsUnitAnswer e.1 q.slot) ∈ (s.dropRaises h).agenda) := by
  unfold State.dropRaises
  dsimp only
  split
  next hany =>
    exact ⟨(State.addsEvents_wakeOpens _ h).terms_eq, fun _ e he q hq hopen hkind hhandle =>
      State.mem_agenda_wakeOpens (s := s.nvEnded h) he hq ⟨hopen, hkind, hhandle⟩⟩
  next hany =>
    refine ⟨rfl, fun hw => absurd ?_ hany⟩
    simpa using hw

/-- A removal: the last statement is made and the handle is gone. -/
theorem removed_makeStatement (s : State) (fn h : Nat) (x : Handle) (dest : DWord) :
    let t := (s.dropRaises h).makeStatement fn h x dest fun _ => none
    t.handle h = none ∧ t.terms.stSerial = s.terms.stSerial + 1 ∧ (∀ w ∈ t.terms.nv, w.handle ≠ h) ∧
      ((∃ w ∈ s.terms.nv, w.handle = h) → ∀ e ∈ s.ctxs, ∀ q ∈ e.2.asks, q.answered = false → q.kind = 0 →
        q.handle.toNat = h → (s.cycle, .termsUnitAnswer e.1 q.slot) ∈ t.agenda) := by
  obtain ⟨hhandle, hserial, hnv, hagenda, -⟩ :=
    statementMade_makeStatement (s.dropRaises h) fn h x dest fun _ => none
  obtain ⟨hterms, hwoken⟩ := s.dropRaises_spec h
  refine ⟨hhandle, ?_, fun w hw => ?_, hagenda ▸ hwoken⟩
  · rw [hserial, hterms]
  · rw [hnv, hterms] at hw
    simpa using (List.mem_filter.mp hw).2

end Statement

/-! ### TIME_UPDATE (R229) -/

section Time
variable {a : DWord}

/-- The time that the object at an address carries. -/
def State.givenTime (s : State) (a : DWord) : Nat := leNat (((s.hostBytes a.toNat 2452).drop 8).take 8) % 2 ^ 63

/-- The object at an address is a time that verifies. -/
def signedTime (s : State) (a : DWord) : Prop :=
  let l := s.hostBytes a.toNat 2452
  leNat (l.take 4) = 0x454d4954 ∧ (∀ x ∈ (l.drop 4).take 4, x = 0) ∧
    Config.mldsaVerify Config.timeKey (l.take 32) ((l.drop 32).take 2420) = true

/-- The terms clock shows `v` from now on. -/
def State.setClock (s : State) (v : Nat) : State :=
  { s with terms := { s.terms with clockBase := v, clockAt := s.cycle, synced := true, clockSaved := v } }

theorem signedTime_iff (s : State) (a : DWord) : signedTime s a ↔
    (decide (fieldAt (s.hostBytes a.toNat 2452) 0 4 = 0x454d4954) && zeroAt (s.hostBytes a.toNat 2452) 4 4 &&
      Config.mldsaVerify Config.timeKey ((s.hostBytes a.toNat 2452).take 32)
        (((s.hostBytes a.toNat 2452).drop 32).take 2420)) = true := by
  simp only [signedTime, Bool.and_eq_true, decide_eq_true_eq, fieldAt, zeroAt, allZero, List.all_eq_true,
    List.drop_zero, and_assoc]

variable (hon : s.takesUp fn (.timeUpdate fn a)) (hfn : fn = 0)
include hon hfn

theorem exec_timeUpdate : exec (.timeUpdate fn a) s = .next
    (if decide (fieldAt (s.hostBytes a.toNat 2452) 0 4 = 0x454d4954) && zeroAt (s.hostBytes a.toNat 2452) 4 4 &&
        Config.mldsaVerify Config.timeKey ((s.hostBytes a.toNat 2452).take 32)
          (((s.hostBytes a.toNat 2452).drop 32).take 2420) then
      if decide (s.tclock ≤ s.givenTime a) then (s.setClock (s.givenTime a)).reply fn 0 0 else s.reply fn 12 0
    else s.reply fn 1 0) :=
  (exec_of_takesUp rfl hon).trans (congrArg _ (if_neg (not_not.mpr hfn)))

theorem repliesOnly_timeUpdate_of_unsigned (h : ¬ signedTime s a) : RepliesOnly s (.timeUpdate fn a) fn 1 0 := by
  rw [signedTime_iff] at h
  exact repliesOnly_of_exec ((exec_timeUpdate hon hfn).trans (congrArg _ (if_neg h)))

theorem exec_timeUpdate_of_signed (h : signedTime s a) : exec (.timeUpdate fn a) s = .next
    (if decide (s.tclock ≤ s.givenTime a) then (s.setClock (s.givenTime a)).reply fn 0 0 else s.reply fn 12 0) := by
  rw [signedTime_iff] at h
  exact (exec_timeUpdate hon hfn).trans (congrArg _ (if_pos h))

theorem repliesOnly_timeUpdate_of_stale (h : signedTime s a) (hv : s.givenTime a < s.tclock) :
    RepliesOnly s (.timeUpdate fn a) fn 12 0 := by
  refine repliesOnly_of_exec ((exec_timeUpdate_of_signed hon hfn h).trans ?_)
  rw [if_neg (by simpa using hv)]

end Time

/-- A clock that has been set shows what it was set to. -/
theorem State.setClock_tclock (s : State) {v : Nat} (hv : v < 2 ^ 63) : (s.setClock v).tclock = v := by
  unfold State.tclock State.setClock
  simp only [Nat.sub_self, Nat.zero_div, Nat.add_zero, Nat.mod_eq_of_lt hv]

/-! ### The statement -/

/-- Settles O50: every command goes through the same guards; then one lemma for each check and each effect. -/
theorem mailboxCommandsCheckAndReply : Obligations.MailboxCommandsCheckAndReply := by
  unfold Obligations.MailboxCommandsCheckAndReply
  intro s fn p a b c d t0
  refine ⟨fun i hi => ?guards, fun hon => repliesOnly_of_exec (exec_of_takesUp rfl hon), fun hnone i hi hon => ?any,
    fun hfn i hi hon => ?phys, fun hnone i hi hon => ?handle, fun hon => ?install, fun hon x hx => ?bind,
    fun x hx => ⟨fun hon => ?remove, fun hon => ?statement⟩, fun hon hfn => ?time⟩
  case guards =>
    obtain ⟨f, hf⟩ := guards_of_all i hi
    exact guards_of_command hf
  case any =>
    obtain ⟨g, hg⟩ := anyCommand_of_mem i hi
    exact repliesOnly_of_anyCommand hg hnone hon
  case phys =>
    obtain ⟨f, hf⟩ := physCommand_of_mem i hi
    exact repliesOnly_of_physCommand hf hfn hon
  case handle =>
    simp only [List.mem_cons, List.not_mem_nil, or_false] at hi
    obtain rfl | rfl | rfl := hi
    · exact repliesOnly_bind_of_handle hon hnone
    · exact repliesOnly_remove_of_handle hon hnone
    · exact repliesOnly_statement_of_handle hon hnone
  case install =>
    refine ⟨repliesOnly_install_of_number hon, repliesOnly_install_of_malformed hon,
      repliesOnly_install_of_unsigned hon, fun hnum hform hsigned =>
        ⟨fun x => repliesOnly_install_of_handle hon hnum hform hsigned, fun hnone => ?_⟩⟩
    exact ⟨_, _, _, exec_installTerms_installs hon hnum hform hsigned hnone, replied_reply ..,
      State.setHandle_handle_self .., fun j hj => s.setHandle_handle_ne _ hj, rfl, rfl, rfl, rfl, rfl, rfl, rfl, rfl⟩
  case bind =>
    refine ⟨repliesOnly_bind_of_region hon hx, repliesOnly_bind_of_function hon hx, fun hr hp =>
      ⟨repliesOnly_bind_of_partial hon hx hr hp, repliesOnly_bind_of_taken hon hx hr hp,
        repliesOnly_bind_of_unaligned hon hx hr hp, fun hwhole hfree halign =>
        ⟨repliesOnly_bind_of_capsule hon hx hr hp hwhole hfree halign, fun key hkey hopen =>
          ⟨waitsOn_bind hon hx hr hp hwhole hfree halign hkey hopen,
            repliesOnly_bind_of_content hon hx hr hp hwhole hfree halign hkey hopen, fun hidle hsame => ?binds⟩⟩⟩⟩
    refine ⟨_, _, exec_bindRegion_binds hon hx hr hp hwhole hfree halign hkey hopen hidle hsame, replied_reply ..,
      State.setHandle_handle_self .., fun l hl hn y hy => ?_⟩
    rw [State.setHandle_sharers] at hy
    exact (State.setHandle_gaveUp ..).mpr (State.gaveUp_clearTiles hl hn hy)
  case remove =>
    refine ⟨repliesOnly_remove_of_bad hon hx, repliesOnly_remove_of_used hon hx, fun hdest hown huse hkept => ?_,
      fun hdest hown huse hkept => ?_⟩
    · exact waitsOn_of_exec ((exec_removeTerms_of_unused hon hx hdest hown huse).trans (congrArg _ (if_pos hkept)))
    · exact ⟨_, (exec_removeTerms_of_unused hon hx hdest hown huse).trans (congrArg _ (if_neg hkept)),
        removed_makeStatement ..⟩
  case statement =>
    refine ⟨fun hdest => ?_, fun hdest hkept => ?_, fun hdest hkept hlink => ?_⟩
    · refine repliesOnly_of_exec ((exec_statement hon hx).trans ?_)
      rw [decide_eq_false hdest, if_neg Bool.false_ne_true]
    · exact waitsOn_of_exec ((exec_statement_of_aligned hon hx hdest).trans (congrArg _ (if_pos hkept)))
    · obtain ⟨hhandle, hserial, -, -, hstat⟩ := statementMade_makeStatement s fn a.toNat x b some
      obtain ⟨st, hst, hmail⟩ := hstat hlink
      exact ⟨_, st, (exec_statement_of_aligned hon hx hdest).trans (congrArg _ (if_neg hkept)), hhandle, hserial,
        hst, hmail⟩
  case time =>
    refine ⟨repliesOnly_timeUpdate_of_unsigned hon hfn, repliesOnly_timeUpdate_of_stale hon hfn, fun h hv => ?_⟩
    have hreplied := replied_reply (s.setClock (s.givenTime a)) fn 0 0
    refine ⟨_, (exec_timeUpdate_of_signed hon hfn h).trans (congrArg _ (if_pos (decide_eq_true hv))), ?_,
      (congrArg (fun u : State => u.terms.synced) hreplied.2 :),
      (congrArg (fun u : State => u.terms.handles) hreplied.2 :), (congrArg State.mem hreplied.2 :)⟩
    exact (congrArg State.tclock hreplied.2 :).trans (s.setClock_tclock (Nat.mod_lt _ (by decide)))

end Sys2Proof.Machine
end
